-- ==== Sys2Proof/Word.lean ====
section
/-!
DEFINITION. Word types of the Isoja 7240 and the pairing of a value with each of its two links.
-/

namespace Sys2Proof

/-- One byte, as every layout of R188 counts them. -/
abbrev Byte := BitVec 8

/-- A value of the line count L, which is 48 bits wide and wraps (R133). -/
abbrev LineValue := BitVec 48

/-- A value of the millisecond time mark, which is 32 bits wide and wraps (R186). -/
abbrev Mark := BitVec 32

/-- A 16-bit counter, which stops at 65535 (R157, R187). -/
abbrev Count := BitVec 16

/-- A roster index, 0..1023 (R11). -/
abbrev RosterIndex := Fin 1024

/-- The two serial links (chapter 9). -/
inductive Link where
  | a
  | b
  deriving DecidableEq, Repr

/-- The link that is not this one. -/
def Link.other : Link → Link
  | .a => .b
  | .b => .a

/-- One value for each link. -/
structure PerLink (α : Type) where
  a : α
  b : α
  deriving DecidableEq, Repr

/-- The value kept for one link. -/
def PerLink.get {α : Type} (p : PerLink α) : Link → α
  | .a => p.a
  | .b => p.b

/-- The pair with the value of one link replaced. -/
def PerLink.set {α : Type} (p : PerLink α) (l : Link) (x : α) : PerLink α :=
  match l with
  | .a => { p with a := x }
  | .b => { p with b := x }

end Sys2Proof
end

