-- ==== Sys2Proof/Config.lean ====
section
/-!
DEFINITION. The fixed sizes and limits of the part that more than one block reads. The manual leaves no
result of a command open, so no free value stands here (log entries 2 and 3 name the two values chosen).
-/

namespace Sys2Proof.Config

/-- Blocks of tile memory (R51). -/
def blockCount : Nat := 8192

/-- Bytes of one block (R51). -/
def blockBytes : Nat := 65536

/-- The largest payload of a parcel, and the oversize threshold a new exchange starts from (R144, R154). -/
def payloadLimit : Nat := 4096

/-- Places in the Order Queue (R65). -/
def queuePlaces : Nat := 16

/-- Places in the Call List and in each link's call queue (R87, R88, R158). -/
def callPlaces : Nat := 64

/-- Milliseconds without progress after which an exchange is dropped (R152). -/
def exchangeLimit : Nat := 50

/-- The hall address, to which every unit listens (R154). -/
def hallAddress : BitVec 4 := 15

/-- The byte that an address of tile memory reads as while nothing has been written to it.
DESIGN CHOICE (log entry 2): the manual gives DRAM no contents at power-on. -/
def unwrittenByte : Byte := 0

/-- The strap setting of the machine at `State.reset`, before any POWER_ON_RESET command has carried one.
DESIGN CHOICE (log entry 3): the straps are an input of the board. -/
def resetStraps : BitVec 4 := 0

end Sys2Proof.Config
end

