-- ==== Sys2Proof/Syntax.lean ====
section
/-!
DEFINITION. The commands of the part: one constructor for each row of spec/opcode_table.json, in the table's
order. A row that is a parcel carries the parcel as it stands on the link; a row that is an event carries what
the event names.
-/

namespace Sys2Proof

/-- A parcel on the forward direction of a link, without its kind and control code, which the command gives:
the other header fields of R154, the payload bytes framed between header and check, and the check received. -/
structure Wire where
  /-- Unit address; 15 is the hall address. -/
  address : BitVec 4
  last : Bool
  response : Bool
  poisoned : Bool
  nocheck : Bool
  /-- Header byte 3, reserved and never read (R188); the check covers it. -/
  reserved : Byte
  tag : BitVec 16
  /-- The payload length field. -/
  lengthField : BitVec 16
  payload : List Byte
  check : BitVec 16
  deriving DecidableEq, Repr

/-- The 28 controls of R166 and R188, in the order of their codes. -/
inductive Control where
  | reportStatus
  | reportLastControl
  | unitReset
  | quietOther
  | unquietOther
  | inhibitAttention
  | restoreAttention
  | setTime
  | setNoticeEnables
  | readNotices
  | readCounters
  | settings
  | queueOrder
  | rushOrder
  | withdrawOrder
  | readQueue
  | withhold
  | release
  | dropTile
  | purgeStore
  | clearPlan
  | readDirectory
  | readDeliveryLog
  | readPageLog
  | loadPlan
  | loadRoster
  | loadTone
  | loadGlyphs
  deriving DecidableEq, Repr

/-- The commands: one constructor per row of spec/opcode_table.json. -/
inductive Instr where
  /-- RESET is asserted while the ADDR straps read `straps` (R145). -/
  | powerOnReset (straps : BitVec 4)
  /-- A pulse on LINE (R134). -/
  | lineSync
  /-- One millisecond of the Time Base passes (R186). -/
  | timeTick
  /-- A valid carrier appears on the link (R144). -/
  | signalPresent (l : Link)
  /-- The 1 ms of SENSING is over (R147). -/
  | sensingTimeout (l : Link)
  /-- The carrier of the link is lost (R146). -/
  | signalLost (l : Link)
  /-- A parcel of kind EXCHANGE arrives; `code` is its header byte 2 (R148). -/
  | exchangePage (l : Link) (code : Byte) (w : Wire)
  /-- The progress timer of the link's exchange reaches its limit (R152). -/
  | exchangeTimeout (l : Link)
  /-- A parcel arrives whose kind byte is no forward kind (R155). -/
  | unknownKindParcel (l : Link) (kind code : Byte) (w : Wire)
  /-- A parcel of kind TILE_HEAD arrives (R25). -/
  | tileHead (l : Link) (code : Byte) (w : Wire)
  /-- A parcel of kind TILE_BODY arrives (R28). -/
  | tileBody (l : Link) (code : Byte) (w : Wire)
  /-- A parcel of kind TABLE_BODY arrives (R168). -/
  | tableBody (l : Link) (code : Byte) (w : Wire)
  /-- The gap timer of the link's tile train reaches the train gap (R39). -/
  | trainGapExpiry (l : Link)
  /-- The gap timer of the link's table train reaches the train gap (R171). -/
  | tableTrainExpiry (l : Link)
  /-- The Band Renderer starts the render of the next band (R129). -/
  | renderStart
  /-- The work of the render with this serial number reaches its end (R132, log entry 6). -/
  | renderComplete (work : Nat)
  /-- The hold timer reaches the hold limit (R141). -/
  | holdExpiry
  /-- The return direction of the link is free for a new parcel (R158). -/
  | returnDirectionFree (l : Link)
  /-- A CONTROL parcel arrives whose code names no control (R162). -/
  | unknownControl (l : Link) (code : Byte) (w : Wire)
  | reportStatus (l : Link) (w : Wire)
  | reportLastControl (l : Link) (w : Wire)
  | unitReset (l : Link) (w : Wire)
  | quietOther (l : Link) (w : Wire)
  | unquietOther (l : Link) (w : Wire)
  | inhibitAttention (l : Link) (w : Wire)
  | restoreAttention (l : Link) (w : Wire)
  | setTime (l : Link) (w : Wire)
  | setNoticeEnables (l : Link) (w : Wire)
  | readNotices (l : Link) (w : Wire)
  | readCounters (l : Link) (w : Wire)
  | settings (l : Link) (w : Wire)
  | queueOrder (l : Link) (w : Wire)
  | rushOrder (l : Link) (w : Wire)
  | withdrawOrder (l : Link) (w : Wire)
  | readQueue (l : Link) (w : Wire)
  | withhold (l : Link) (w : Wire)
  | release (l : Link) (w : Wire)
  | dropTile (l : Link) (w : Wire)
  | purgeStore (l : Link) (w : Wire)
  | clearPlan (l : Link) (w : Wire)
  | readDirectory (l : Link) (w : Wire)
  | readDeliveryLog (l : Link) (w : Wire)
  | readPageLog (l : Link) (w : Wire)
  | loadPlan (l : Link) (w : Wire)
  | loadRoster (l : Link) (w : Wire)
  | loadTone (l : Link) (w : Wire)
  | loadGlyphs (l : Link) (w : Wire)
  deriving DecidableEq, Repr

end Sys2Proof
end

