-- ==== Sys2Proof/WellFormed.lean ====
section
/-!
DEFINITION. Which commands the links can spell. The machine answers every command, well formed or not; these
checks say which terms are what their constructor names.
-/

namespace Sys2Proof

/-- A payload holds 0..4096 bytes (R154). -/
def Wire.payloadFits (w : Wire) : Bool := decide (w.payload.length ≤ Config.payloadLimit)

/-- The kind bytes that the other constructors stand for: TILE_HEAD, TILE_BODY, CONTROL, TABLE_BODY and
EXCHANGE (R188). -/
def ownKind (kind : Byte) : Bool := kind.toNat ∈ [1, 2, 3, 4, 8]

/-- Codes 1..28 name a control (R188). -/
def namesControl (code : Byte) : Bool := decide (1 ≤ code.toNat ∧ code.toNat ≤ 28)

/-- A command is well formed when its parcel, if it has one, has a payload of at most 4096 bytes, an unknown
kind is none of the kinds with a constructor of their own, and an unknown control code names no control. -/
def Instr.wellFormed : Instr → Bool
  | .unknownKindParcel _ kind _ w => w.payloadFits && !ownKind kind
  | .unknownControl _ code w => w.payloadFits && !namesControl code
  | .exchangePage _ _ w | .tileHead _ _ w | .tileBody _ _ w | .tableBody _ _ w => w.payloadFits
  | .reportStatus _ w | .reportLastControl _ w | .unitReset _ w | .quietOther _ w | .unquietOther _ w
  | .inhibitAttention _ w | .restoreAttention _ w | .setTime _ w | .setNoticeEnables _ w | .readNotices _ w
  | .readCounters _ w | .settings _ w | .queueOrder _ w | .rushOrder _ w | .withdrawOrder _ w | .readQueue _ w
  | .withhold _ w | .release _ w | .dropTile _ w | .purgeStore _ w | .clearPlan _ w | .readDirectory _ w
  | .readDeliveryLog _ w | .readPageLog _ w | .loadPlan _ w | .loadRoster _ w | .loadTone _ w
  | .loadGlyphs _ w => w.payloadFits
  | .powerOnReset _ | .lineSync | .timeTick | .signalPresent _ | .sensingTimeout _ | .signalLost _
  | .exchangeTimeout _ | .trainGapExpiry _ | .tableTrainExpiry _ | .renderStart | .renderComplete _
  | .holdExpiry | .returnDirectionFree _ => true

end Sys2Proof
end

