-- ==== Sys2Proof/Decode.lean ====
section
/-!
DEFINITION. Byte order, the parcel header and check, the control codes (R154, R166, R188), and the reading of a
parcel's bytes as a command with its inverse. No row of spec/opcode_table.json gives bits, so `decodeTableWord`
spells none.
-/

namespace Sys2Proof

/-- The byte at an offset, as a number; 0 past the end. -/
def byteAt (bs : List Byte) (n : Nat) : Nat := (bs.getD n 0).toNat

/-- A 16-bit field, high byte first (R188). -/
def be16 (bs : List Byte) (n : Nat) : Nat := byteAt bs n * 256 + byteAt bs (n + 1)

/-- A 32-bit field, high byte first (R188). -/
def be32 (bs : List Byte) (n : Nat) : Nat := be16 bs n * 65536 + be16 bs (n + 2)

/-- The low `k` bytes of a number, high byte first (R188). -/
def bytesBE : Nat → Nat → List Byte
  | 0, _ => []
  | k + 1, v => BitVec.ofNat 8 (v / 256 ^ k) :: bytesBE k v

/-- The marker bits of header byte 1: LAST 8, RESPONSE 4, POISONED 2, NOCHECK 1 (section 12.1). -/
def markerBits (last response poisoned nocheck : Bool) : Nat :=
  last.toNat * 8 + response.toNat * 4 + poisoned.toNat * 2 + nocheck.toNat

/-- The eight header bytes of a parcel (section 12.1). -/
def headerBytes (kind code : Byte) (w : Wire) : List Byte :=
  [kind, BitVec.ofNat 8 (w.address.toNat * 16 + markerBits w.last w.response w.poisoned w.nocheck), code,
    w.reserved] ++ bytesBE 2 w.tag.toNat ++ bytesBE 2 w.lengthField.toNat

/-- One bit of the check: shift left and, where a one leaves, add the polynomial x^12 + x^5 + 1 (R154). -/
def checkBit (c : BitVec 16) : BitVec 16 :=
  if c.msb then (c <<< 1) ^^^ 0x1021 else c <<< 1

/-- One byte of the check, most significant bit first (R154). -/
def checkByte (c : BitVec 16) (b : Byte) : BitVec 16 :=
  let c0 := c ^^^ (b.setWidth 16 <<< 8)
  checkBit (checkBit (checkBit (checkBit (checkBit (checkBit (checkBit (checkBit c0)))))))

/-- The 16-bit check of a run of bytes, from an initial value of all ones (R154). -/
def checkOf (bs : List Byte) : BitVec 16 := bs.foldl checkByte 0xFFFF

/-- The check that a received parcel should carry, over its header and then its payload (R154). -/
def properCheck (kind code : Byte) (w : Wire) : BitVec 16 := checkOf (headerBytes kind code w ++ w.payload)

/-- The code of a control (section 12.3). -/
def controlCode : Control → Byte
  | .reportStatus => 1
  | .reportLastControl => 2
  | .unitReset => 3
  | .quietOther => 4
  | .unquietOther => 5
  | .inhibitAttention => 6
  | .restoreAttention => 7
  | .setTime => 8
  | .setNoticeEnables => 9
  | .readNotices => 10
  | .readCounters => 11
  | .settings => 12
  | .queueOrder => 13
  | .rushOrder => 14
  | .withdrawOrder => 15
  | .readQueue => 16
  | .withhold => 17
  | .release => 18
  | .dropTile => 19
  | .purgeStore => 20
  | .clearPlan => 21
  | .readDirectory => 22
  | .readDeliveryLog => 23
  | .readPageLog => 24
  | .loadPlan => 25
  | .loadRoster => 26
  | .loadTone => 27
  | .loadGlyphs => 28

/-- The payload bytes of a control (section 12.3). -/
def controlLength : Control → Nat
  | .setTime | .setNoticeEnables | .queueOrder | .rushOrder | .loadRoster => 4
  | .readCounters | .clearPlan | .loadPlan | .loadTone => 1
  | .settings => 14
  | .withdrawOrder | .withhold | .release | .dropTile | .readDirectory => 2
  | .readDeliveryLog | .readPageLog => 5
  | .reportStatus | .reportLastControl | .unitReset | .quietOther | .unquietOther | .inhibitAttention
  | .restoreAttention | .readNotices | .readQueue | .purgeStore | .loadGlyphs => 0

/-- The six controls that may be sent to the hall address (R165). -/
def hallControl : Control → Bool
  | .setTime | .unitReset | .inhibitAttention | .restoreAttention | .withhold | .release => true
  | .reportStatus | .reportLastControl | .quietOther | .unquietOther | .setNoticeEnables | .readNotices
  | .readCounters | .settings | .queueOrder | .rushOrder | .withdrawOrder | .readQueue | .dropTile | .purgeStore
  | .clearPlan | .readDirectory | .readDeliveryLog | .readPageLog | .loadPlan | .loadRoster | .loadTone
  | .loadGlyphs => false

/-- The command that a CONTROL parcel with this control's code is. -/
def controlCommand (c : Control) (l : Link) (w : Wire) : Instr :=
  match c with
  | .reportStatus => .reportStatus l w
  | .reportLastControl => .reportLastControl l w
  | .unitReset => .unitReset l w
  | .quietOther => .quietOther l w
  | .unquietOther => .unquietOther l w
  | .inhibitAttention => .inhibitAttention l w
  | .restoreAttention => .restoreAttention l w
  | .setTime => .setTime l w
  | .setNoticeEnables => .setNoticeEnables l w
  | .readNotices => .readNotices l w
  | .readCounters => .readCounters l w
  | .settings => .settings l w
  | .queueOrder => .queueOrder l w
  | .rushOrder => .rushOrder l w
  | .withdrawOrder => .withdrawOrder l w
  | .readQueue => .readQueue l w
  | .withhold => .withhold l w
  | .release => .release l w
  | .dropTile => .dropTile l w
  | .purgeStore => .purgeStore l w
  | .clearPlan => .clearPlan l w
  | .readDirectory => .readDirectory l w
  | .readDeliveryLog => .readDeliveryLog l w
  | .readPageLog => .readPageLog l w
  | .loadPlan => .loadPlan l w
  | .loadRoster => .loadRoster l w
  | .loadTone => .loadTone l w
  | .loadGlyphs => .loadGlyphs l w

/-- The control that a code names, if it is one of 1..28 (section 12.3). -/
def controlOfCode (code : Byte) : Option Control :=
  match code.toNat with
  | 1 => some .reportStatus
  | 2 => some .reportLastControl
  | 3 => some .unitReset
  | 4 => some .quietOther
  | 5 => some .unquietOther
  | 6 => some .inhibitAttention
  | 7 => some .restoreAttention
  | 8 => some .setTime
  | 9 => some .setNoticeEnables
  | 10 => some .readNotices
  | 11 => some .readCounters
  | 12 => some .settings
  | 13 => some .queueOrder
  | 14 => some .rushOrder
  | 15 => some .withdrawOrder
  | 16 => some .readQueue
  | 17 => some .withhold
  | 18 => some .release
  | 19 => some .dropTile
  | 20 => some .purgeStore
  | 21 => some .clearPlan
  | 22 => some .readDirectory
  | 23 => some .readDeliveryLog
  | 24 => some .readPageLog
  | 25 => some .loadPlan
  | 26 => some .loadRoster
  | 27 => some .loadTone
  | 28 => some .loadGlyphs
  | _ => none

/-- The command that a parcel of this kind and code is (section 12.1). -/
def parcelCommand (l : Link) (kind code : Byte) (w : Wire) : Instr :=
  match kind.toNat with
  | 1 => .tileHead l code w
  | 2 => .tileBody l code w
  | 3 =>
    match controlOfCode code with
    | some c => controlCommand c l w
    | none => .unknownControl l code w
  | 4 => .tableBody l code w
  | 8 => .exchangePage l code w
  | _ => .unknownKindParcel l kind code w

/-- The link, kind, code and parcel of a command that is a parcel. -/
def parcelParts : Instr → Option (Link × Byte × Byte × Wire)
  | .tileHead l code w => some (l, 1, code, w)
  | .tileBody l code w => some (l, 2, code, w)
  | .tableBody l code w => some (l, 4, code, w)
  | .exchangePage l code w => some (l, 8, code, w)
  | .unknownKindParcel l kind code w => some (l, kind, code, w)
  | .unknownControl l code w => some (l, 3, code, w)
  | .reportStatus l w => some (l, 3, controlCode .reportStatus, w)
  | .reportLastControl l w => some (l, 3, controlCode .reportLastControl, w)
  | .unitReset l w => some (l, 3, controlCode .unitReset, w)
  | .quietOther l w => some (l, 3, controlCode .quietOther, w)
  | .unquietOther l w => some (l, 3, controlCode .unquietOther, w)
  | .inhibitAttention l w => some (l, 3, controlCode .inhibitAttention, w)
  | .restoreAttention l w => some (l, 3, controlCode .restoreAttention, w)
  | .setTime l w => some (l, 3, controlCode .setTime, w)
  | .setNoticeEnables l w => some (l, 3, controlCode .setNoticeEnables, w)
  | .readNotices l w => some (l, 3, controlCode .readNotices, w)
  | .readCounters l w => some (l, 3, controlCode .readCounters, w)
  | .settings l w => some (l, 3, controlCode .settings, w)
  | .queueOrder l w => some (l, 3, controlCode .queueOrder, w)
  | .rushOrder l w => some (l, 3, controlCode .rushOrder, w)
  | .withdrawOrder l w => some (l, 3, controlCode .withdrawOrder, w)
  | .readQueue l w => some (l, 3, controlCode .readQueue, w)
  | .withhold l w => some (l, 3, controlCode .withhold, w)
  | .release l w => some (l, 3, controlCode .release, w)
  | .dropTile l w => some (l, 3, controlCode .dropTile, w)
  | .purgeStore l w => some (l, 3, controlCode .purgeStore, w)
  | .clearPlan l w => some (l, 3, controlCode .clearPlan, w)
  | .readDirectory l w => some (l, 3, controlCode .readDirectory, w)
  | .readDeliveryLog l w => some (l, 3, controlCode .readDeliveryLog, w)
  | .readPageLog l w => some (l, 3, controlCode .readPageLog, w)
  | .loadPlan l w => some (l, 3, controlCode .loadPlan, w)
  | .loadRoster l w => some (l, 3, controlCode .loadRoster, w)
  | .loadTone l w => some (l, 3, controlCode .loadTone, w)
  | .loadGlyphs l w => some (l, 3, controlCode .loadGlyphs, w)
  | .powerOnReset _ | .lineSync | .timeTick | .signalPresent _ | .sensingTimeout _ | .signalLost _
  | .exchangeTimeout _ | .trainGapExpiry _ | .tableTrainExpiry _ | .renderStart | .renderComplete _
  | .holdExpiry | .returnDirectionFree _ => none

/-- The bytes of a parcel on the link: header, payload, check (chapter 12). -/
def encodeParcel (i : Instr) : Option (List Byte) :=
  (parcelParts i).map fun (_, kind, code, w) =>
    headerBytes kind code w ++ w.payload ++ bytesBE 2 w.check.toNat

/-- The parcel that a run of bytes frames on a link: eight header bytes, the payload and two check bytes. Fewer
than ten bytes frame no parcel. -/
def decodeParcel (l : Link) (bs : List Byte) : Option Instr :=
  if bs.length < 10 then none
  else
    let markers := byteAt bs 1
    some (parcelCommand l (bs.getD 0 0) (bs.getD 2 0)
      { address := BitVec.ofNat 4 (markers / 16)
        last := markers.testBit 3
        response := markers.testBit 2
        poisoned := markers.testBit 1
        nocheck := markers.testBit 0
        reserved := bs.getD 3 0
        tag := BitVec.ofNat 16 (be16 bs 4)
        lengthField := BitVec.ofNat 16 (be16 bs 6)
        payload := (bs.drop 8).take (bs.length - 10)
        check := BitVec.ofNat 16 (be16 bs (bs.length - 2)) })

/-- The command that a word of the opcode table spells: no row of the table gives bits, so no word spells one. -/
def decodeTableWord (_nbits _w : Nat) : Option Instr := none

end Sys2Proof
end

