-- ==== Sys2Proof/Machine/State.lean ====
section
/-!
DEFINITION. The state of the part: what each block of the manual's block diagram keeps, the queue of waiting
commands, and the state right after reset.
-/

namespace Sys2Proof.Machine

/-- No command of this part stops the machine with a fault: the manual names none, and every command has an
effect or is discarded. The type therefore has no constructor. -/
inductive Fault where
  deriving DecidableEq, Repr

/-- Why a command has no meaning. -/
inductive Refusal where
  /-- Raised by an arm of `exec` whose command has no meaning in the model; no arm does. Safe: the machine stops. -/
  | notModelled (mnemonic : String)
  deriving DecidableEq, Repr

/-! ## Table Store (chapter 1, chapter 7) -/

/-- A pixel or a colour: red, green, blue, each 0..255. -/
structure Pixel where
  r : Byte
  g : Byte
  b : Byte
  deriving DecidableEq, Repr

/-- A row record of a plan (R4). -/
structure Row where
  top : Nat
  cellHeight : Nat
  captionHeight : Nat
  headTarget : Nat
  eyeOffset : Nat
  sMin : Nat
  sMax : Nat
  margin : Pixel
  absentFill : Pixel
  ink : Pixel
  paper : Pixel
  tracking : Nat
  sideMargin : Nat
  deriving DecidableEq, Repr

/-- A seat record of a plan (R5). -/
structure Seat where
  row : Nat
  left : Nat
  width : Nat
  index : RosterIndex
  deriving DecidableEq, Repr

/-- A LOADED plan (R3). -/
structure Plan where
  width : Nat
  height : Nat
  background : Pixel
  rows : List Row
  seats : List Seat
  deriving DecidableEq, Repr

/-- A roster record (R11). -/
structure RosterRecord where
  /-- LISTED when true, EMPTY when false. -/
  listed : Bool
  studentId : BitVec 32
  caption : List Byte
  withheld : Bool
  uses : Nat
  deriving DecidableEq, Repr

/-- The three lookup tables of a LOADED session (R18). -/
structure ToneSet where
  red : Vector Byte 256
  green : Vector Byte 256
  blue : Vector Byte 256
  deriving DecidableEq, Repr

/-- A glyph: its advance and its coverage bits, line by line (R116). -/
structure Glyph where
  advance : Nat
  bitmap : List (List Bool)
  deriving DecidableEq, Repr

/-- A LOADED Glyph Set: the set height and the glyph of each code that has one (R116). -/
structure GlyphSet where
  height : Nat
  glyphs : List (Nat × Glyph)
  deriving DecidableEq, Repr

/-- The Unit Settings record (R20). -/
structure Settings where
  bandHeight : Nat
  bandLead : Nat
  callLead : Nat
  pageGap : Nat
  trainGap : Nat
  holdLimit : Nat
  lowWater : Nat
  freeAfterUse : Bool
  reportLink : Link
  callLink : Link
  deriving DecidableEq, Repr

/-- The Table Store. An EMPTY plan slot, session or Glyph Set is `none`. -/
structure Tables where
  plans : Vector (Option Plan) 8
  /-- Rows over all LOADED plans (R8). -/
  planRows : Nat
  /-- Seats over all LOADED plans (R8). -/
  planSeats : Nat
  roster : Vector RosterRecord 1024
  tones : Vector (Option ToneSet) 16
  glyphs : Option GlyphSet
  settings : Settings
  deriving DecidableEq, Repr

/-! ## Tile Intake (chapter 2) -/

/-- A version record (R27), without the state that its slot gives it. -/
structure Version where
  width : Nat
  height : Nat
  eyeRow : Nat
  centreColumn : Nat
  headHeight : Nat
  session : Fin 16
  /-- Block numbers in ascending order, as reserved (R53). -/
  blocks : List Nat
  rows : Nat
  origin : Link
  openMark : Mark
  closeMark : Option Mark
  retake : Bool
  late : Bool
  poisonedSeen : Bool
  deriving DecidableEq, Repr

/-- The state of a held version (R42). -/
inductive HeldState where
  | ready
  | damaged
  deriving DecidableEq, Repr

/-- The state of an incoming version (R42). -/
inductive IncomingState where
  | filling
  | waiting
  deriving DecidableEq, Repr

/-- A held slot that holds a version (R42, R43). -/
structure Held where
  version : Version
  state : HeldState
  lock : Nat
  deriving DecidableEq, Repr

/-- An incoming slot that holds a version (R42). -/
structure Incoming where
  version : Version
  state : IncomingState
  deriving DecidableEq, Repr

/-- A directory entry (R42). -/
structure DirEntry where
  held : Option Held
  incoming : Option Incoming
  deriving DecidableEq, Repr

/-- An OPEN train state (R23). The version it fills is the incoming version of its index's entry. -/
structure Train where
  index : RosterIndex
  studentId : BitVec 32
  /-- Sequence number of the train's Delivery Log record. -/
  record : BitVec 32
  lastRow : Option Nat
  /-- Milliseconds since the last parcel of the train. -/
  gapTimer : Nat
  deriving DecidableEq, Repr

/-- The outcome of a delivery (R49). -/
inductive Delivery where
  | accepted
  | retake
  | damaged
  | superseded
  | abandoned
  | notListed
  | withheld
  | noSession
  | badHead
  | noRoom
  deriving DecidableEq, Repr

/-- A Delivery Log record (R49). -/
structure DeliveryRecord where
  sequence : BitVec 32
  index : Option RosterIndex
  studentId : BitVec 32
  link : Link
  opened : Bool
  closed : Bool
  openMark : Mark
  closeMark : Option Mark
  rows : Nat
  outcome : Option Delivery
  late : Bool
  called : Bool
  deriving DecidableEq, Repr

/-- Tile Intake: train states, Tile Directory and Delivery Log. An IDLE train state is `none`, an unwritten log
slot is `none`. -/
structure Intake where
  trains : PerLink (Option Train)
  directory : Vector DirEntry 1024
  log : Vector (Option DeliveryRecord) 256
  nextSequence : BitVec 32
  deriving DecidableEq, Repr

/-! ## Tile Memory Manager (chapter 3) -/

/-- The Tile Memory Manager and the DRAM behind it. -/
structure TileStore where
  /-- The free list, kept in ascending order; it carries no order of its own (R51). -/
  freeList : List Nat
  freeCount : Nat
  /-- The Arrival List, oldest first. An entry has one held version at most, so a version stands on the list as
  its roster index (R55). -/
  arrival : List RosterIndex
  /-- Written bytes of the 512 MiB, by address; block number times 65536 plus offset (R51, R52). -/
  bytes : List Host.Cell
  deriving DecidableEq, Repr

/-! ## Order Scheduler and Seat Decision Unit (chapters 4 and 5) -/

/-- What a seat shows (R66). -/
inductive Decision where
  | undecided
  | placed
  | absent
  | withheld
  deriving DecidableEq, Repr

/-- An entry of a Decision Table (R66). -/
structure SeatEntry where
  decision : Decision
  lockMark : Bool
  deriving DecidableEq, Repr

/-- An entry of the seat line table (R83), with the note that its call point has been taken (R84, R86). -/
structure SeatLines where
  firstBand : Nat
  freezeLine : LineValue
  callLine : Option LineValue
  callTaken : Bool
  deriving DecidableEq, Repr

/-- The state of an order (R64). -/
inductive OrderState where
  | queued
  | active
  | suspended
  | ending
  deriving DecidableEq, Repr

/-- An order record (R64, R83). -/
structure Order where
  tag : BitVec 16
  plan : Fin 8
  copies : Nat
  done : Nat
  rush : Bool
  state : OrderState
  decisions : List SeatEntry
  linesFixed : Bool
  seatLines : List SeatLines
  deriving DecidableEq, Repr

/-- The settings an impression runs by (R21, R70). -/
structure Snapshot where
  bandHeight : Nat
  bandLead : Nat
  callLead : Nat
  pageGap : Nat
  deriving DecidableEq, Repr

/-- The impression context (R70, R84, R113, R114, R126). Sets of seat numbers are lists without repeats. -/
structure Impression where
  tag : BitVec 16
  plan : Fin 8
  copy : Nat
  snapshot : Snapshot
  start : LineValue
  endLine : LineValue
  first : Bool
  nextFreeze : Nat
  lateSeats : List Nat
  clampedSet : List Nat
  marginSet : List Nat
  captionSet : List Nat
  clamped : Nat
  margins : Nat
  truncated : Nat
  missing : Nat
  filled : Nat
  heldBands : Nat
  withholdPending : Bool
  deriving DecidableEq, Repr

/-- A Page Log record (R82). -/
structure PageRecord where
  sequence : BitVec 32
  tag : BitVec 16
  plan : Fin 8
  copy : Nat
  start : LineValue
  endLine : LineValue
  placed : Nat
  absent : Nat
  withheld : Nat
  late : Nat
  clamped : Nat
  margins : Nat
  truncated : Nat
  missing : Nat
  filled : Nat
  heldBands : Nat
  withholdPending : Bool
  mark : Mark
  deriving DecidableEq, Repr

/-- The Order Scheduler. It is IDLE exactly while there is no impression context (R69). -/
structure Scheduler where
  /-- The Order Queue, head first. -/
  queue : List Order
  impression : Option Impression
  prevEnd : LineValue
  log : Vector (Option PageRecord) 64
  nextSequence : BitVec 32
  deriving DecidableEq, Repr

/-- A call record (R88). -/
structure Call where
  tag : BitVec 16
  index : RosterIndex
  studentId : BitVec 32
  due : LineValue
  mark : Mark
  deriving DecidableEq, Repr

/-- The Seat Decision Unit: the Call List, nearest due line first, and the calls dropped counter (R87, R88). -/
structure SeatUnit where
  calls : List Call
  dropped : Count
  deriving DecidableEq, Repr

/-! ## Band Renderer and Press Port (chapters 6 to 8) -/

/-- A placement record (R101). -/
structure Placement where
  seat : Nat
  rawStep : Nat
  step : Nat
  clamped : Bool
  x0 : Int
  y0 : Int
  margin : Bool
  deriving DecidableEq, Repr

/-- A caption record (R120). The glyphs set are the first `setCount` of the resolved list (R122). -/
structure CaptionRecord where
  seat : Nat
  resolved : List Glyph
  omitted : Bool
  setCount : Nat
  setWidth : Nat
  truncated : Bool
  missing : Nat
  leftStart : Nat
  topLine : Nat
  deriving DecidableEq, Repr

/-- A band buffer (R128). -/
inductive Buffer where
  | free
  | rendering (band : Nat)
  | complete (band : Nat) (lines : List (List Pixel))
  deriving DecidableEq, Repr

/-- The render context of a render in progress (R101, R119, R120, R129). -/
structure Render where
  /-- Serial number of the render, so that the end of abandoned work can be told (log entry 6). -/
  work : Nat
  band : Nat
  buffer : Fin 4
  glyphs : Option GlyphSet
  placements : List Placement
  captions : List CaptionRecord
  deriving DecidableEq, Repr

/-- The Band Renderer. -/
structure Renderer where
  buffers : Vector Buffer 4
  nextBand : Nat
  current : Option Render
  /-- The MODEL's own: renders started so far; a power-on reset leaves it as it stands (log entry 6). -/
  works : Nat
  deriving DecidableEq, Repr

/-- How the lines of a band are emitted (R135, R137). -/
inductive BandMode where
  | buffer
  | fill
  deriving DecidableEq, Repr

/-- The hold state of the Press Port (R142); HOLD is asserted exactly in HOLDING. -/
inductive HoldState where
  | clear
  | holding (band timer : Nat)
  | awaiting (band : Nat) (verdict : BandMode)
  deriving DecidableEq, Repr

/-- The Press Port. -/
structure Press where
  lineCount : LineValue
  hold : HoldState
  /-- Emission mode of the band being emitted (R135). -/
  mode : Option BandMode
  /-- Pixels of a blank line (R134). -/
  blankWidth : Nat
  /-- The line last put on the pixel bus; empty before the first. -/
  pixelBus : List Pixel
  deriving DecidableEq, Repr

/-! ## Link Ports (chapter 9) -/

/-- The state of a link (R144). -/
inductive LinkState where
  | down
  | sensing
  | exchange
  | up
  | fault
  deriving DecidableEq, Repr

/-- The page the unit sends in an exchange (R147, R151). Its other fields are fixed or come from the straps. -/
inductive UnitPage where
  | ability (acknowledge : Bool)
  | answer (message comply toggle : Bool) (code : Byte) (argument : Nat)
  deriving DecidableEq, Repr

/-- An exchange in progress (R147 to R152). Server pages stand as the bytes compared (section 12.6). -/
structure Exchange where
  round : Nat
  /-- The last page of the current round, waiting for its like. -/
  previous : Option (List Byte)
  /-- The server's page taken in during the current round. -/
  takenIn : Option (List Byte)
  /-- The toggle of the server's next page taken in during the round before. -/
  lastToggle : Option Bool
  page : UnitPage
  timer : Nat
  deriving DecidableEq, Repr

/-- A waiting REPLY (R164). -/
structure Reply where
  tag : BitVec 16
  poisoned : Bool
  payload : List Byte
  deriving DecidableEq, Repr

/-- A waiting CALL parcel (R87). -/
structure CallParcel where
  studentId : BitVec 32
  index : RosterIndex
  tag : BitVec 16
  due : LineValue
  remaining : LineValue
  mark : Mark
  rank : Nat
  deriving DecidableEq, Repr

/-- A waiting NOTICE parcel (R183): the latch and the time mark it was last filled with. -/
structure Notice where
  kinds : BitVec 9
  mark : Mark
  deriving DecidableEq, Repr

/-- The counters of a Link Port (R157). -/
structure Counters where
  oversize : Count
  checkError : Count
  unknownKind : Count
  misaddressed : Count
  stray : Count
  restarts : Count
  deriving DecidableEq, Repr

/-- A Link Port. -/
structure Port where
  state : LinkState
  /-- A valid carrier is present on the forward direction (R144). -/
  signal : Bool
  /-- Milliseconds in SENSING (R144). -/
  sensingTimer : Nat
  threshold : Nat
  exchange : Option Exchange
  counters : Counters
  quiet : Bool
  reply : Option Reply
  calls : List CallParcel
  notice : Option Notice
  /-- The bytes of the parcel being sent on the return direction; empty when none is. -/
  sending : List Byte
  /-- Parcels held back behind a waiting reply, in arrival order (R158). -/
  heldBack : List Instr
  deriving DecidableEq, Repr

/-! ## Control Unit, Notice Unit -/

/-- The outcome of a control: TAKEN, or the cause of its refusal (section 12.5). -/
inductive ControlOutcome where
  | taken
  | unknownControl
  | long
  | short
  | badArgument
  | notHall
  | pinned
  | queueFull
  | duplicateTag
  | noSuch
  | busySession
  | pageRange
  | rowRange
  | rowOrder
  | seatRange
  | seatOverlap
  | duplicateStudent
  | planSpace
  | duplicateId
  deriving DecidableEq, Repr

/-- The table that a table train loads, with the arguments of its opening control (R161). -/
inductive TableTarget where
  | plan (id : Fin 8)
  | roster (first count : Nat)
  | tone (session : Fin 16)
  | glyphs
  deriving DecidableEq, Repr

/-- A STAGING control slot (R161). -/
structure Staging where
  target : TableTarget
  tag : BitVec 16
  bytes : List Byte
  overflow : Bool
  gapTimer : Nat
  deriving DecidableEq, Repr

/-- A control slot, EMPTY when `staging` is `none`, and its superseded-control counter (R161, R170). -/
structure Slot where
  staging : Option Staging
  superseded : Count
  deriving DecidableEq, Repr

/-- The Last Control record, when it is not empty (R163). -/
structure LastControl where
  code : Byte
  tag : BitVec 16
  link : Link
  outcome : ControlOutcome
  deriving DecidableEq, Repr

/-- The Control Unit. -/
structure ControlUnit where
  slots : PerLink Slot
  controlError : Bool
  hallReceived : Bool
  last : Option LastControl
  deriving DecidableEq, Repr

/-- The Notice Unit: latch and enable set, one bit a kind as section 12.3 counts them, and the inhibit. -/
structure Notices where
  latched : BitVec 9
  enabled : BitVec 9
  inhibit : Bool
  deriving DecidableEq, Repr

/-- The state of the part: its blocks, the straps read at reset and the queue of commands waiting. -/
structure State where
  pending : List Instr
  straps : BitVec 4
  tables : Tables
  intake : Intake
  store : TileStore
  scheduler : Scheduler
  seats : SeatUnit
  renderer : Renderer
  press : Press
  ports : PerLink Port
  control : ControlUnit
  notices : Notices
  timeMark : Mark
  deriving DecidableEq, Repr

/-! ## Reset -/

/-- An EMPTY roster record (R11). -/
def RosterRecord.empty : RosterRecord :=
  { listed := false, studentId := 0, caption := [], withheld := false, uses := 0 }

/-- The power-on values of the Unit Settings (R20). -/
def Settings.powerOn : Settings :=
  { bandHeight := 32, bandLead := 256, callLead := 4096, pageGap := 32, trainGap := 10, holdLimit := 0,
    lowWater := 512, freeAfterUse := false, reportLink := .a, callLink := .a }

/-- All counters of a Link Port at 0. -/
def Counters.zero : Counters :=
  { oversize := 0, checkError := 0, unknownKind := 0, misaddressed := 0, stray := 0, restarts := 0 }

/-- A Link Port after power-on reset (R144, R157, R158, R159). -/
def Port.reset : Port :=
  { state := .down, signal := false, sensingTimer := 0, threshold := Config.payloadLimit, exchange := none,
    counters := Counters.zero, quiet := false, reply := none, calls := [], notice := none, sending := [],
    heldBack := [] }

/-- The part right after power-on reset, with nothing queued and no byte of tile memory written. DESIGN CHOICE (log entry
29): the next band to render, which R129 sets at the beginning of an impression, is 0. -/
def State.reset : State :=
  { pending := []
    straps := Config.resetStraps
    tables :=
      { plans := Vector.replicate 8 none, planRows := 0, planSeats := 0
        roster := Vector.replicate 1024 RosterRecord.empty, tones := Vector.replicate 16 none
        glyphs := none, settings := Settings.powerOn }
    intake :=
      { trains := ⟨none, none⟩, directory := Vector.replicate 1024 ⟨none, none⟩
        log := Vector.replicate 256 none, nextSequence := 0 }
    store :=
      { freeList := List.range' 0 Config.blockCount, freeCount := Config.blockCount, arrival := [], bytes := [] }
    scheduler :=
      { queue := [], impression := none, prevEnd := 0, log := Vector.replicate 64 none, nextSequence := 0 }
    seats := { calls := [], dropped := 0 }
    renderer := { buffers := Vector.replicate 4 .free, nextBand := 0, current := none, works := 0 }
    press := { lineCount := 0, hold := .clear, mode := none, blankWidth := 4096, pixelBus := [] }
    ports := ⟨Port.reset, Port.reset⟩
    control :=
      { slots := ⟨⟨none, 0⟩, ⟨none, 0⟩⟩, controlError := false, hallReceived := false, last := none }
    notices := { latched := 0, enabled := 0, inhibit := false }
    timeMark := 0 }

end Sys2Proof.Machine
end

