-- ==== Sys2Proof/Machine/Ops.lean ====
section
/-!
DEFINITION. The named operations that the meanings share: access to the parts of the state, the notice latch and
its parcels (R160, R181, R183), the routing and moving of calls and notices (R160), and the counters (R157).
-/

namespace Sys2Proof.Machine

/-! ## Access -/

/-- The Link Port of a link. -/
def portOf (s : State) (l : Link) : Port := s.ports.get l

/-- The state with one Link Port replaced. -/
def setPort (l : Link) (p : Port) (s : State) : State := { s with ports := s.ports.set l p }

/-- The state with one Link Port changed. -/
def modPort (l : Link) (f : Port → Port) (s : State) : State := setPort l (f (portOf s l)) s

/-- The train state of a link. -/
def trainOf (s : State) (l : Link) : Option Train := s.intake.trains.get l

/-- The state with the train state of a link replaced. -/
def setTrain (l : Link) (t : Option Train) (s : State) : State :=
  { s with intake.trains := s.intake.trains.set l t }

/-- The directory entry of a roster index. -/
def entryOf (s : State) (i : RosterIndex) : DirEntry := s.intake.directory[i]

/-- The state with a directory entry replaced. -/
def setEntry (i : RosterIndex) (e : DirEntry) (s : State) : State :=
  { s with intake.directory := s.intake.directory.set i e }

/-- The roster record of an index. -/
def recordOf (s : State) (i : RosterIndex) : RosterRecord := s.tables.roster[i]

/-- The state with a roster record replaced. -/
def setRecord (i : RosterIndex) (r : RosterRecord) (s : State) : State :=
  { s with tables.roster := s.tables.roster.set i r }

/-- The plan of a slot, `none` when it is EMPTY. -/
def planOf (s : State) (p : Fin 8) : Option Plan := s.tables.plans[p]

/-- The control slot of a link. -/
def slotOf (s : State) (l : Link) : Slot := s.control.slots.get l

/-- The state with the control slot of a link replaced. -/
def setSlot (l : Link) (x : Slot) (s : State) : State :=
  { s with control.slots := s.control.slots.set l x }

/-- The state with the head order changed, if the queue has one. -/
def modHead (f : Order → Order) (s : State) : State :=
  match s.scheduler.queue with
  | [] => s
  | o :: os => { s with scheduler.queue := f o :: os }

/-- The state with the impression context changed, if an impression is in progress. -/
def modImpression (f : Impression → Impression) (s : State) : State :=
  { s with scheduler.impression := s.scheduler.impression.map f }

/-- A set of seat numbers with one more in it. -/
def addSeat (n : Nat) (xs : List Nat) : List Nat := if n ∈ xs then xs else xs ++ [n]

/-! ## Distances along the line count -/

/-- How far a line value lies ahead of another, modulo 2^48 (R71). -/
def linesAhead (x from_ : LineValue) : Nat := (x - from_).toNat

/-- A line value is ahead of L when its distance is below 2^47 (R71). -/
def isAhead (x l : LineValue) : Bool := decide (linesAhead x l < 2 ^ 47)

/-- A line value has been reached when it equals L or counts as passed (R84). -/
def isReached (x l : LineValue) : Bool := decide (x = l) || !isAhead x l

/-! ## Notices -/

/-- The nine notice kinds, in the order of their bits (section 12.3). -/
inductive NoticeKind where
  | orderDone
  | pageDeficient
  | tileLate
  | trainFault
  | storeLow
  | underrun
  | callDropped
  | linkChange
  | linkErrors
  deriving DecidableEq, Repr

/-- The bit of a notice kind (section 12.3). -/
def kindBit : NoticeKind → BitVec 9
  | .orderDone => 1
  | .pageDeficient => 2
  | .tileLate => 4
  | .trainFault => 8
  | .storeLow => 16
  | .underrun => 32
  | .callDropped => 64
  | .linkChange => 128
  | .linkErrors => 256

/-- A kind set holds a kind. -/
def holdsKind (set : BitVec 9) (k : NoticeKind) : Bool := set &&& kindBit k != 0

/-- A link is open for calls and notices while it is UP and not quiet (R160). -/
def isOpen (p : Port) : Bool := p.state == .up && !p.quiet

/-- The link on which a call or notice for the chosen link is queued (R160). -/
def routeLink (chosen : Link) (s : State) : Link :=
  if isOpen (portOf s chosen) then chosen
  else if isOpen (portOf s chosen.other) then chosen.other
  else chosen

/-- A notice filled with the latch and time mark of this moment (R183). -/
def freshNotice (s : State) : Notice := { kinds := s.notices.latched, mark := s.timeMark }

/-- A notice is sent: the notice slot of the link chosen for the report link takes a fresh notice, or the one
waiting there is filled again (R183). -/
def sendNotice (s : State) : State :=
  modPort (routeLink s.tables.settings.reportLink s) (fun p => { p with notice := some (freshNotice s) }) s

/-- A block latches a kind: a clear kind joins the latch and sends a notice if it is enabled (R181, R183). -/
def latchKind (k : NoticeKind) (s : State) : State :=
  if holdsKind s.notices.latched k then s
  else
    let s1 : State := { s with notices.latched := s.notices.latched ||| kindBit k }
    if holdsKind s1.notices.enabled k then sendNotice s1 else s1

/-! ## Moving waiting parcels between the links -/

/-- The calls and the notice waiting on one link move to the other: calls to the back of its queue, as many as it
has room for, the notice to its slot, where two become one filled afresh (R160, R183). -/
def moveWaiting (src dst : Link) (s : State) : State :=
  let p := portOf s src
  let q := portOf s dst
  let room := Config.callPlaces - q.calls.length
  let notice :=
    match p.notice, q.notice with
    | none, n => n
    | some n, none => some n
    | some _, some _ => some (freshNotice s)
  setPort dst { q with calls := q.calls ++ p.calls.take room, notice := notice }
    (setPort src { p with calls := p.calls.drop room, notice := none } s)

/-- Applied when a link has stopped or started being open: where exactly one link is open, what waits on the other
moves to it (R160). -/
def rerouteWaiting (s : State) : State :=
  match isOpen (portOf s .a), isOpen (portOf s .b) with
  | true, false => moveWaiting .b .a s
  | false, true => moveWaiting .a .b s
  | true, true | false, false => s

/-! ## Counters -/

/-- A counter rises by 1 and stops at 65535 (R157, R187). -/
def bump (c : Count) : Count := if c = 65535 then c else c + 1

/-- The five receive counters of a link (R157). -/
inductive ReceiveCounter where
  | oversize
  | checkError
  | unknownKind
  | misaddressed
  | stray
  deriving DecidableEq, Repr

/-- The value of a receive counter. -/
def receiveCount (c : Counters) : ReceiveCounter → Count
  | .oversize => c.oversize
  | .checkError => c.checkError
  | .unknownKind => c.unknownKind
  | .misaddressed => c.misaddressed
  | .stray => c.stray

/-- The counters with one receive counter raised. -/
def bumpReceive (c : Counters) : ReceiveCounter → Counters
  | .oversize => { c with oversize := bump c.oversize }
  | .checkError => { c with checkError := bump c.checkError }
  | .unknownKind => { c with unknownKind := bump c.unknownKind }
  | .misaddressed => { c with misaddressed := bump c.misaddressed }
  | .stray => { c with stray := bump c.stray }

/-- A receive counter of a link rises; from 0 it latches LINK_ERRORS (R157, R187). -/
def countReceive (l : Link) (k : ReceiveCounter) (s : State) : State :=
  let before := receiveCount (portOf s l).counters k
  let s1 := modPort l (fun p => { p with counters := bumpReceive p.counters k }) s
  if before = 0 then latchKind .linkErrors s1 else s1

/-! ## Orders -/

/-- A plan is pinned while an order in the queue names it (R10). -/
def planPinned (s : State) (p : Fin 8) : Bool := s.scheduler.queue.any fun o => decide (o.plan = p)

/-- The order at the head, when it is ACTIVE or ENDING (R37, R73). -/
def printingOrder (s : State) : Option Order :=
  match s.scheduler.queue with
  | o :: _ => if o.state = .active ∨ o.state = .ending then some o else none
  | [] => none

/-- The seat number by which a plan names a roster index, if it does; a plan names an index at most once (R7). -/
def seatOfIndex (p : Plan) (i : RosterIndex) : Option Nat := p.seats.findIdx? fun x => decide (x.index = i)

/-- The decision of an order for a roster index, with the seat number that has it. -/
def decisionFor (s : State) (o : Order) (i : RosterIndex) : Option (Nat × Decision) :=
  match planOf s o.plan with
  | none => none
  | some p =>
    match seatOfIndex p i with
    | none => none
    | some n => (o.decisions[n]?).map fun e => (n, e.decision)

end Sys2Proof.Machine
end

