-- ==== Sys2Proof/Machine/Operands.lean ====
section
/-!
DEFINITION. The operands of the parcels: the fields of tile heads and bodies (section 12.2), of control payloads
(section 12.3), of staged tables (section 12.4) and of exchange pages (section 12.6).
-/

namespace Sys2Proof.Machine

/-- A tile head's fields (section 12.2). -/
structure TileHead where
  studentId : BitVec 32
  session : Nat
  width : Nat
  height : Nat
  eyeRow : Nat
  centreColumn : Nat
  headHeight : Nat
  deriving DecidableEq, Repr

/-- Bytes of a tile head payload (section 12.2). -/
def tileHeadLength : Nat := 16

/-- The fields of a tile head payload (section 12.2). -/
def readTileHead (p : List Byte) : TileHead :=
  { studentId := BitVec.ofNat 32 (be32 p 0), session := byteAt p 4, width := be16 p 6, height := be16 p 8,
    eyeRow := be16 p 10, centreColumn := be16 p 12, headHeight := be16 p 14 }

/-- The row index of a tile body payload (section 12.2). -/
def bodyRow (p : List Byte) : Nat := be16 p 0

/-- The pixel bytes of a tile body payload (section 12.2). -/
def bodyBytes (p : List Byte) : List Byte := p.drop 2

/-- A roster index argument, when it is one of 0..1023. -/
def indexArgument (p : List Byte) : Option RosterIndex :=
  if h : be16 p 0 < 1024 then some ⟨be16 p 0, h⟩ else none

/-- A plan id argument at an offset, when it is one of 0..7. -/
def planArgument (p : List Byte) (n : Nat) : Option (Fin 8) :=
  if h : byteAt p n < 8 then some ⟨byteAt p n, h⟩ else none

/-- A session number, when it is one of 0..15. -/
def sessionNumber (n : Nat) : Option (Fin 16) := if h : n < 16 then some ⟨n, h⟩ else none

/-- A link field: 0 for A, 1 for B (section 12.3). -/
def linkArgument (n : Nat) : Option Link :=
  match n with
  | 0 => some .a
  | 1 => some .b
  | _ => none

/-- A field marked 0/1 (R188). -/
def flagArgument (n : Nat) : Option Bool :=
  match n with
  | 0 => some false
  | 1 => some true
  | _ => none

/-- A kind set argument, when it names none but the nine kinds (section 12.3). -/
def kindSetArgument (n : Nat) : Option (BitVec 9) := if n < 512 then some (BitVec.ofNat 9 n) else none

/-- The Unit Settings record that a SETTINGS payload carries, when every field is in its range (R20). -/
def settingsArgument (p : List Byte) : Option Settings :=
  match flagArgument (byteAt p 11), linkArgument (byteAt p 12), linkArgument (byteAt p 13) with
  | some freeAfterUse, some report, some call =>
    if byteAt p 0 ∈ [16, 32, 64] ∧ 16 ≤ be16 p 1 ∧ be16 p 1 ≤ 4096 ∧ be16 p 5 ≤ 4096
        ∧ 1 ≤ byteAt p 7 ∧ byteAt p 7 ≤ 100 ∧ byteAt p 8 ≤ 250 ∧ be16 p 9 ≤ 2048 then
      some
        { bandHeight := byteAt p 0, bandLead := be16 p 1, callLead := be16 p 3, pageGap := be16 p 5,
          trainGap := byteAt p 7, holdLimit := byteAt p 8, lowWater := be16 p 9,
          freeAfterUse := freeAfterUse, reportLink := report, callLink := call }
    else none
  | _, _, _ => none

/-- A colour at an offset (R188). -/
def colourAt (p : List Byte) (n : Nat) : Pixel := { r := p.getD n 0, g := p.getD (n + 1) 0, b := p.getD (n + 2) 0 }

/-! ## Staged plans -/

/-- A staged seat record, its roster index not yet tested. -/
structure RawSeat where
  row : Nat
  left : Nat
  width : Nat
  index : Nat
  deriving DecidableEq, Repr

/-- A staged plan. -/
structure RawPlan where
  width : Nat
  height : Nat
  background : Pixel
  rowCount : Nat
  seatCount : Nat
  rows : List Row
  seats : List RawSeat
  deriving DecidableEq, Repr

/-- Bytes of a staged plan with these counts (section 12.4). -/
def planLength (rows seats : Nat) : Nat := 10 + rows * 27 + seats * 7

/-- The row record at an offset (section 12.4). -/
def rowAt (p : List Byte) (n : Nat) : Row :=
  { top := be16 p n, cellHeight := be16 p (n + 2), captionHeight := byteAt p (n + 4),
    headTarget := be16 p (n + 5), eyeOffset := be16 p (n + 7), sMin := be16 p (n + 9), sMax := be16 p (n + 11),
    margin := colourAt p (n + 13), absentFill := colourAt p (n + 16), ink := colourAt p (n + 19),
    paper := colourAt p (n + 22), tracking := byteAt p (n + 25), sideMargin := byteAt p (n + 26) }

/-- The seat record at an offset (section 12.4). -/
def seatAt (p : List Byte) (n : Nat) : RawSeat :=
  { row := byteAt p n, left := be16 p (n + 1), width := be16 p (n + 3), index := be16 p (n + 5) }

/-- A whole staged plan (section 12.4). -/
def readPlan (p : List Byte) : RawPlan :=
  let rows := byteAt p 7
  let seats := be16 p 8
  { width := be16 p 0, height := be16 p 2, background := colourAt p 4, rowCount := rows, seatCount := seats,
    rows := (List.range rows).map fun i => rowAt p (10 + i * 27),
    seats := (List.range seats).map fun j => seatAt p (10 + rows * 27 + j * 7) }

/-! ## Staged rosters and glyph sets -/

/-- A staged roster entry (R13). -/
structure RosterEntry where
  studentId : BitVec 32
  caption : List Byte
  deriving DecidableEq, Repr

/-- The given number of roster entries from the front of the staged bytes, with what follows them; `none` when the
bytes end before the last entry is complete (R14). -/
def readRoster : Nat → List Byte → Option (List RosterEntry × List Byte)
  | 0, p => some ([], p)
  | n + 1, p =>
    let size := 5 + byteAt p 4
    if p.length < 5 ∨ p.length < size then none
    else
      let e : RosterEntry :=
        { studentId := BitVec.ofNat 32 (be32 p 0), caption := (p.drop 5).take (byteAt p 4) }
      (readRoster n (p.drop size)).map fun (es, rest) => (e :: es, rest)

/-- A staged glyph entry (R117). -/
structure GlyphEntry where
  code : Nat
  glyph : Glyph
  deriving DecidableEq, Repr

/-- Bytes of one bitmap line of a glyph: ceil(advance / 8) (R117). -/
def lineBytes (advance : Nat) : Nat := (advance + 7) / 8

/-- The coverage bits of one bitmap line: column 0 is the most significant bit of the first byte, and bits beyond
the advance are padding (R118, section 12.4). -/
def coverageLine (p : List Byte) (advance : Nat) : List Bool :=
  (List.range advance).map fun c => (byteAt p (c / 8)).testBit (7 - c % 8)

/-- The coverage bitmap of a glyph, top line first (section 12.4). -/
def coverage (p : List Byte) (height advance : Nat) : List (List Bool) :=
  (List.range height).map fun g => coverageLine (p.drop (g * lineBytes advance)) advance

/-- The given number of glyph entries from the front of the staged bytes, with what follows them; `none` when the
bytes end before the last entry is complete (R117, R118). -/
def readGlyphs (height : Nat) : Nat → List Byte → Option (List GlyphEntry × List Byte)
  | 0, p => some ([], p)
  | n + 1, p =>
    let advance := byteAt p 1
    let size := 2 + height * lineBytes advance
    if p.length < 2 ∨ p.length < size then none
    else
      let e : GlyphEntry :=
        { code := byteAt p 0, glyph := { advance := advance, bitmap := coverage (p.drop 2) height advance } }
      (readGlyphs height n (p.drop size)).map fun (es, rest) => (e :: es, rest)

/-- The tone table that stands at an offset of the staged bytes (section 12.4). -/
def toneTable (p : List Byte) (n : Nat) : Vector Byte 256 := Vector.ofFn fun i => p.getD (n + i.val) 0

/-- A staged tone set: 256 red, 256 green and 256 blue values (section 12.4). -/
def readTone (p : List Byte) : ToneSet :=
  { red := toneTable p 0, green := toneTable p 256, blue := toneTable p 512 }

/-! ## Exchange pages -/

/-- Bytes of an exchange page (section 12.6). -/
def pageLength : Nat := 8

/-- A page type of 0 is an ability page, any other value a next page (R188). -/
def isAbility (p : List Byte) : Bool := byteAt p 0 == 0

/-- Where the flags byte of a page stands (section 12.6). -/
def flagsOffset (p : List Byte) : Nat := if isAbility p then 6 else 1

/-- The flags byte of a page (section 12.6). -/
def pageFlags (p : List Byte) : Nat := byteAt p (flagsOffset p)

/-- The next-page flag of a page (section 12.6). -/
def pageNext (p : List Byte) : Bool := (pageFlags p).testBit 0

/-- The message flag of a next page (section 12.6). -/
def pageMessage (p : List Byte) : Bool := (pageFlags p).testBit 2

/-- The toggle of a next page (section 12.6). -/
def pageToggle (p : List Byte) : Bool := (pageFlags p).testBit 4

/-- The bytes of a page that the twice-running comparison reads: all but the reserved ones, which stand as 0
(section 12.6). -/
def comparedBytes (p : List Byte) : List Byte :=
  if isAbility p then p.set 7 0 else ((p.set 3 0).set 6 0).set 7 0

/-- The same page with its acknowledge flag set (R149). -/
def withAcknowledge (p : List Byte) : List Byte := p.set (flagsOffset p) (p.getD (flagsOffset p) 0 ||| 2)

end Sys2Proof.Machine
end

