-- ==== Sys2Proof/Machine/Memory.lean ====
section
/-!
DEFINITION. The contents of tile memory: a list of address and byte pairs in one canonical form, addresses
strictly rising and no entry equal to what an unwritten address reads as.
-/

namespace Sys2Proof.Machine

/-- The byte at an address; an unlisted address reads as the unwritten byte (log entry 2). -/
def readByte : List Host.Cell → Nat → Byte
  | [], _ => Config.unwrittenByte
  | (k, v) :: m, a => if k = a then v else readByte m a

/-- The memory with one byte written, in canonical form again. -/
def writeByte : List Host.Cell → Nat → Byte → List Host.Cell
  | [], a, b => if b = Config.unwrittenByte then [] else [(a, b)]
  | (k, v) :: m, a, b =>
    if a < k then (if b = Config.unwrittenByte then (k, v) :: m else (a, b) :: (k, v) :: m)
    else if a = k then (if b = Config.unwrittenByte then m else (a, b) :: m)
    else (k, v) :: writeByte m a b

/-- Every address of the list is above the bound, and they rise strictly. -/
def risingFrom : Nat → List Host.Cell → Bool
  | _, [] => true
  | n, (k, _) :: m => decide (n ≤ k) && risingFrom (k + 1) m

/-- The canonical form of a memory. -/
def Memory.wf (m : List Host.Cell) : Bool :=
  risingFrom 0 m && m.all fun c => c.2 != Config.unwrittenByte

/-- The address in tile memory of byte `n` of a version, counting across its block list (R52). A number past the
block list has no address. -/
def tileAddress (blocks : List Nat) (n : Nat) : Option Nat :=
  (blocks[n / Config.blockBytes]?).map fun b => b * Config.blockBytes + n % Config.blockBytes

/-- The bytes are written from byte number `n` of a version on (R52). -/
def writeVersion (blocks : List Nat) (m : List Host.Cell) (n : Nat) : List Byte → List Host.Cell
  | [] => m
  | b :: bs =>
    match tileAddress blocks n with
    | some a => writeVersion blocks (writeByte m a b) (n + 1) bs
    | none => writeVersion blocks m (n + 1) bs

/-- Byte `n` of a version (R52). -/
def readVersion (blocks : List Nat) (m : List Host.Cell) (n : Nat) : Byte :=
  match tileAddress blocks n with
  | some a => readByte m a
  | none => Config.unwrittenByte

/-- The stored pixel p(x, y) of a version (R28, R52). -/
def storedPixel (m : List Host.Cell) (v : Version) (x y : Nat) : Pixel :=
  let n := (y * v.width + x) * 3
  { r := readVersion v.blocks m n, g := readVersion v.blocks m (n + 1), b := readVersion v.blocks m (n + 2) }

end Sys2Proof.Machine
end

