-- ==== Sys2Proof/Machine/TileMemory.lean ====
section
/-!
DEFINITION. The Tile Memory Manager: blocks and the free list (R51 to R54), the Arrival List (R55, R56), reclaim
(R57 to R60) and free-after-use (R63).
-/

namespace Sys2Proof.Machine

/-- The blocks that a version of this size occupies: ceil(Ws·Hs·3 / 65536) (R52). -/
def blocksNeeded (width height : Nat) : Nat :=
  (width * height * 3 + (Config.blockBytes - 1)) / Config.blockBytes

/-- One block number joins the free list, which is kept in ascending order. -/
def insertBlock (b : Nat) : List Nat → List Nat
  | [] => [b]
  | c :: cs => if b ≤ c then b :: c :: cs else c :: insertBlock b cs

/-- Blocks return to the free list together, and the free count rises by their number (R54). -/
def returnBlocks (bs : List Nat) (s : State) : State :=
  { s with
    store.freeList := bs.foldl (fun fl b => insertBlock b fl) s.store.freeList
    store.freeCount := s.store.freeCount + bs.length }

/-- A held version leaves the Arrival List (R56). -/
def leaveArrival (i : RosterIndex) (s : State) : State :=
  { s with store.arrival := s.store.arrival.filter fun j => decide (j ≠ i) }

/-- The held version of an entry is freed, if there is one: it leaves the Arrival List, the slot is emptied and its
blocks return (R54, R56). -/
def freeHeld (i : RosterIndex) (s : State) : State :=
  match (entryOf s i).held with
  | none => s
  | some h =>
    returnBlocks h.version.blocks
      (leaveArrival i (setEntry i { entryOf s i with held := none } s))

/-- The incoming version of an entry is freed, if there is one: the slot is emptied and its blocks return (R54). -/
def freeIncoming (i : RosterIndex) (s : State) : State :=
  match (entryOf s i).incoming with
  | none => s
  | some v =>
    returnBlocks v.version.blocks (setEntry i { entryOf s i with incoming := none } s)

/-- A version becomes the held version of its entry with lock count 0, the incoming slot is left empty, and it
joins the Arrival List at the back (R43, R55). The held slot was empty before. -/
def becomeHeld (i : RosterIndex) (st : HeldState) (v : Version) (s : State) : State :=
  let s1 := setEntry i { held := some { version := v, state := st, lock := 0 }, incoming := none } s
  { s1 with store.arrival := s1.store.arrival ++ [i] }

/-- A held version is a reclaim candidate when it is unlocked and its record has no pending use (R57). -/
def isCandidate (i : RosterIndex) (s : State) : Bool :=
  match (entryOf s i).held with
  | some h => decide (h.lock = 0) && decide ((recordOf s i).uses = 0)
  | none => false

/-- The walk of a reclaim along the Arrival List: it stops once the free count has reached its target, frees each
candidate it meets before that, and passes the others by (R58). -/
def reclaimWalk (target : Nat) : List RosterIndex → State → State
  | [], s => s
  | i :: rest, s =>
    if target ≤ s.store.freeCount then s
    else if isCandidate i s then reclaimWalk target rest (freeHeld i s)
    else reclaimWalk target rest s

/-- A reclaim from the front of the Arrival List (R58). -/
def reclaim (target : Nat) (s : State) : State := reclaimWalk target s.store.arrival s

/-- STORE_LOW is latched while the free count is below low-water (R59, R60, R61). -/
def latchStoreLow (s : State) : State :=
  if s.store.freeCount < s.tables.settings.lowWater then latchKind .storeLow s else s

/-- The low-water test: a free count below low-water starts a reclaim, and STORE_LOW is latched when it is still
below at the end (R60). -/
def lowWaterTest (s : State) : State :=
  if s.store.freeCount < s.tables.settings.lowWater then
    latchStoreLow (reclaim s.tables.settings.lowWater s)
  else s

/-- The `n` lowest-numbered free blocks leave the free list (R53). -/
def takeBlocks (n : Nat) (s : State) : State :=
  { s with store.freeList := s.store.freeList.drop n, store.freeCount := s.store.freeCount - n }

/-- Reclaim at open runs when the free count is below the blocks asked for (R59). -/
def reclaimAtOpen (n : Nat) (s : State) : State :=
  if s.store.freeCount < n then reclaim n s else s

/-- Free-after-use: the held versions of the indices whose pending uses are now 0 are freed (R63). -/
def freeAfterUse (is : List RosterIndex) (s : State) : State :=
  is.foldl (fun s i => if (recordOf s i).uses = 0 then freeHeld i s else s) s

end Sys2Proof.Machine
end

