-- ==== Sys2Proof/Machine/Intake.lean ====
section
/-!
DEFINITION. Tile Intake: tile heads and bodies (R23 to R32), the closing and filing of trains (R33 to R37), trains
that are voided (R38 to R41), locks and promotion (R43, R44, R46) and the Delivery Log (R49, R50).
-/

namespace Sys2Proof.Machine

/-! ## The Delivery Log -/

/-- The slot of a sequence number: the number modulo 256 (R49). -/
def logSlot (q : BitVec 32) : Fin 256 := Fin.ofNat 256 q.toNat

/-- A new record takes the slot of the next sequence number, which then rises by 1 (R49). -/
def writeRecord (r : DeliveryRecord) (s : State) : State :=
  { s with
    intake.log := s.intake.log.set (logSlot s.intake.nextSequence) (some r)
    intake.nextSequence := s.intake.nextSequence + 1 }

/-- The record of a sequence number is changed, if its slot still holds that number (R50). -/
def changeRecord (q : BitVec 32) (f : DeliveryRecord → DeliveryRecord) (s : State) : State :=
  match s.intake.log[logSlot q] with
  | some r =>
    if r.sequence = q then { s with intake.log := s.intake.log.set (logSlot q) (some (f r)) } else s
  | none => s

/-- A train's record is completed with the mark of this moment (R50). -/
def completeRecord (q : BitVec 32) (rows : Nat) (o : Delivery) (late called : Bool) (s : State) : State :=
  changeRecord q
    (fun r => { r with
      closed := true, closeMark := some s.timeMark, rows := rows, outcome := some o, late := late,
      called := called }) s

/-! ## Voiding -/

/-- The rows received by the incoming version of an entry. -/
def incomingRows (s : State) (i : RosterIndex) : Nat :=
  match (entryOf s i).incoming with
  | some v => v.version.rows
  | none => 0

/-- The open train of a link, if there is one, is voided: its FILLING version is freed, the train state becomes
IDLE, its record is completed with the outcome, or left open for a train lost with its link, and TRAIN_FAULT is
latched (R38, R41). -/
def voidTrain (l : Link) (o : Option Delivery) (s : State) : State :=
  match trainOf s l with
  | none => s
  | some t =>
    let rows := incomingRows s t.index
    let s1 := setTrain l none (freeIncoming t.index s)
    let s2 :=
      match o with
      | some o => completeRecord t.record rows o false false s1
      | none => changeRecord t.record (fun r => { r with rows := rows }) s1
    latchKind .trainFault s2

/-- The open train of a link is voided when it is the train of this roster index. -/
def voidTrainIf (i : RosterIndex) (o : Delivery) (l : Link) (s : State) : State :=
  match trainOf s l with
  | some t => if t.index = i then voidTrain l (some o) s else s
  | none => s

/-- The open train of a roster index, on whichever link, is voided (R16, R27, R45, R47). -/
def voidTrainOf (i : RosterIndex) (o : Delivery) (s : State) : State :=
  voidTrainIf i o .b (voidTrainIf i o .a s)

/-- The entry of an index loses its incoming version: a FILLING one by the voiding of its train, a WAITING one
directly (R16, R27, R45, R47). -/
def dropIncoming (i : RosterIndex) (o : Delivery) (s : State) : State := freeIncoming i (voidTrainOf i o s)

/-! ## Tile heads -/

/-- The roster index whose LISTED record holds a student id (R25 check 2). -/
def indexOfStudent (s : State) (id : BitVec 32) : Option RosterIndex :=
  if id = 0 then none
  else s.tables.roster.findFinIdx? fun r => r.listed && r.studentId == id

/-- The geometry check of a tile head (R25 check 5). -/
def geometryFits (h : TileHead) : Bool :=
  decide (64 ≤ h.width ∧ h.width ≤ 1024 ∧ 64 ≤ h.height ∧ h.height ≤ 1280 ∧ h.eyeRow < h.height
    ∧ h.centreColumn < h.width ∧ 16 ≤ h.headHeight ∧ h.headHeight ≤ h.height)

/-- What the first five checks of a tile head find: the refusal with the student id and index its record holds, or
the index and session of the train to open (R25). -/
inductive HeadCheck where
  | refused (o : Delivery) (studentId : BitVec 32) (index : Option RosterIndex)
  | passed (index : RosterIndex) (session : Fin 16)
  deriving DecidableEq, Repr

/-- Checks 1 to 5 of a tile head, in their order (R25). -/
def checkHead (p : List Byte) (s : State) : HeadCheck :=
  if p.length ≠ tileHeadLength then .refused .badHead 0 none
  else
    let h := readTileHead p
    match indexOfStudent s h.studentId with
    | none => .refused .notListed h.studentId none
    | some i =>
      if (recordOf s i).withheld then .refused .withheld h.studentId (some i)
      else
        match sessionNumber h.session with
        | none => .refused .noSession h.studentId (some i)
        | some n =>
          if s.tables.tones[n].isNone then .refused .noSession h.studentId (some i)
          else if geometryFits h then .passed i n
          else .refused .badHead h.studentId (some i)

/-- A head is refused: its record is written complete at once and TRAIN_FAULT is latched (R24, R49). -/
def refuseHead (l : Link) (o : Delivery) (id : BitVec 32) (i : Option RosterIndex) (s : State) : State :=
  latchKind .trainFault
    (writeRecord
      { sequence := s.intake.nextSequence, index := i, studentId := id, link := l, opened := true, closed := true,
        openMark := s.timeMark, closeMark := some s.timeMark, rows := 0, outcome := some o, late := false,
        called := false } s)

/-- The version that a head opens, on the blocks reserved for it (R27). -/
def newVersion (l : Link) (h : TileHead) (n : Fin 16) (blocks : List Nat) (s : State) : Version :=
  { width := h.width, height := h.height, eyeRow := h.eyeRow, centreColumn := h.centreColumn,
    headHeight := h.headHeight, session := n, blocks := blocks, rows := 0, origin := l, openMark := s.timeMark,
    closeMark := none, retake := false, late := false, poisonedSeen := false }

/-- A head whose reservation has succeeded opens its train: an incoming version of the entry is superseded, the new
one stands in the slot as FILLING, and the record is written open (R27, R49). -/
def openTrain (l : Link) (h : TileHead) (i : RosterIndex) (n : Fin 16) (blocks : List Nat) (s : State) : State :=
  let s1 := dropIncoming i .superseded s
  let s2 := setEntry i
    { entryOf s1 i with incoming := some { version := newVersion l h n blocks s, state := .filling } } s1
  let s3 := setTrain l
    (some { index := i, studentId := h.studentId, record := s2.intake.nextSequence, lastRow := none, gapTimer := 0 })
    s2
  writeRecord
    { sequence := s3.intake.nextSequence, index := some i, studentId := h.studentId, link := l, opened := true,
      closed := false, openMark := s3.timeMark, closeMark := none, rows := 0, outcome := none, late := false,
      called := false } s3

/-- Check 6 of a head and what follows: reclaim at open if it is needed, then the reservation with its low-water
test and the opening of the train, or the refusal NO_ROOM (R26, R53, R59, R60). -/
def reserveAndOpen (l : Link) (h : TileHead) (i : RosterIndex) (n : Fin 16) (s : State) : State :=
  let need := blocksNeeded h.width h.height
  let s1 := reclaimAtOpen need s
  if s1.store.freeCount < need then latchStoreLow (refuseHead l .noRoom h.studentId (some i) s1)
  else openTrain l h i n (s1.store.freeList.take need) (lowWaterTest (takeBlocks need s1))

/-- A TILE_HEAD parcel reaches Tile Intake (R24 to R27). -/
def takeTileHead (l : Link) (w : Wire) (s : State) : State :=
  let s1 := voidTrain l (some .superseded) s
  match checkHead w.payload s1 with
  | .refused o id i => refuseHead l o id i s1
  | .passed i n => reserveAndOpen l (readTileHead w.payload) i n s1

/-! ## Closing and filing -/

/-- The entry's incoming slot is emptied without freeing blocks: its version moves or is freed by the caller. -/
def emptyIncoming (i : RosterIndex) (s : State) : State := setEntry i { entryOf s i with incoming := none } s

/-- A READY result is filed (R34). -/
def fileReady (i : RosterIndex) (v : Version) (s : State) : State × Delivery :=
  match (entryOf s i).held with
  | none => (becomeHeld i .ready v (emptyIncoming i s), .accepted)
  | some h =>
    let v1 := { v with retake := true }
    if h.lock = 0 then (becomeHeld i .ready v1 (freeHeld i (emptyIncoming i s)), .retake)
    else (setEntry i { entryOf s i with incoming := some { version := v1, state := .waiting } } s, .retake)

/-- A DAMAGED result is filed, and TRAIN_FAULT is latched (R35). -/
def fileDamaged (i : RosterIndex) (v : Version) (s : State) : State × Delivery :=
  let filed :=
    match (entryOf s i).held with
    | none => becomeHeld i .damaged v (emptyIncoming i s)
    | some h =>
      match h.state with
      | .damaged => becomeHeld i .damaged v (freeHeld i (emptyIncoming i s))
      | .ready => returnBlocks v.blocks (emptyIncoming i s)
  (latchKind .trainFault filed, .damaged)

/-- The calls for an index leave the Call List as answered; whether there was one (R36, R89). -/
def answerCalls (i : RosterIndex) (s : State) : State × Bool :=
  ({ s with seats.calls := s.seats.calls.filter fun c => decide (c.index ≠ i) },
    s.seats.calls.any fun c => decide (c.index = i))

/-- The seat for which a close of this index's train is late: one that the printing order has decided ABSENT
(R37). -/
def lateSeat (s : State) (i : RosterIndex) : Option Nat :=
  match printingOrder s with
  | none => none
  | some o =>
    match decisionFor s o i with
    | some (n, .absent) => some n
    | some (_, .undecided) | some (_, .placed) | some (_, .withheld) | none => none

/-- A late close latches TILE_LATE and enters its seat in the late seats set (R37, R74). -/
def noteLate (seat : Option Nat) (s : State) : State :=
  match seat with
  | none => s
  | some n => modImpression (fun c => { c with lateSeats := addSeat n c.lateSeats }) (latchKind .tileLate s)

/-- A train closes: its version is filed as READY or DAMAGED, calls are answered, the LATE test is made and the
record is completed (R33 to R37, R50). `byLast` says that it closed by a LAST marker. -/
def closeTrain (l : Link) (byLast : Bool) (s : State) : State :=
  match trainOf s l with
  | none => s
  | some t =>
    let s1 := setTrain l none s
    match (entryOf s1 t.index).incoming with
    | none => s1
    | some inc =>
      let late := lateSeat s1 t.index
      let v := { inc.version with
        closeMark := some s1.timeMark, late := inc.version.late || late.isSome }
      let ready := byLast && decide (v.rows = v.height) && !v.poisonedSeen
      let (s2, o) := if ready then fileReady t.index v s1 else fileDamaged t.index v s1
      let (s3, called) := if ready then answerCalls t.index s2 else (s2, false)
      completeRecord t.record v.rows o late.isSome called (noteLate late s3)

/-! ## Tile bodies -/

/-- A received channel value through a lookup table (R18). -/
def tone (t : Vector Byte 256) (x : Byte) : Byte := t[x.toNat]'x.isLt

/-- The bytes of a row toned channel by channel, red first (R18, R28). -/
def toneRow (t : ToneSet) : List Byte → List Byte
  | r :: g :: b :: rest => tone t.red r :: tone t.green g :: tone t.blue b :: toneRow t rest
  | rest => rest

/-- The toned bytes of a received row; a session that a train was opened on is LOADED (R18, R25). -/
def tonedBytes (s : State) (n : Fin 16) (bs : List Byte) : List Byte :=
  match s.tables.tones[n] with
  | some t => toneRow t bs
  | none => bs

/-- The expected row is stored, rows received rises, and a POISONED marker sets POISONED-SEEN (R28, R31). -/
def storeRow (i : RosterIndex) (v : Version) (w : Wire) (s : State) : State :=
  let bytes := writeVersion v.blocks s.store.bytes (v.rows * v.width * 3)
    (tonedBytes s v.session (bodyBytes w.payload))
  let v1 := { v with rows := v.rows + 1, poisonedSeen := v.poisonedSeen || w.poisoned }
  setEntry i { entryOf s i with incoming := some { version := v1, state := .filling } }
    { s with store.bytes := bytes }

/-- What a body parcel is to the open train it meets (R28 to R30). -/
inductive BodyKind where
  | expected
  | duplicate
  | outOfSequence
  deriving DecidableEq, Repr

/-- The test of a body parcel against the train (R28 to R30). -/
def bodyKind (v : Version) (lastRow : Option Nat) (p : List Byte) : BodyKind :=
  if p.length ≠ 2 + v.width * 3 then .outOfSequence
  else if v.rows < v.height ∧ bodyRow p = v.rows then .expected
  else if lastRow = some (bodyRow p) then .duplicate
  else .outOfSequence

/-- A TILE_BODY parcel reaches Tile Intake (R28 to R33). -/
def takeTileBody (l : Link) (w : Wire) (s : State) : State :=
  match trainOf s l with
  | none => countReceive l .stray s
  | some t =>
    match (entryOf s t.index).incoming with
    | none => countReceive l .stray s
    | some inc =>
      match bodyKind inc.version t.lastRow w.payload with
      | .expected =>
        let s1 := setTrain l (some { t with lastRow := some (bodyRow w.payload), gapTimer := 0 })
          (storeRow t.index inc.version w s)
        if w.last then closeTrain l true s1 else s1
      | .duplicate =>
        if w.last then closeTrain l true s else setTrain l (some { t with gapTimer := 0 }) s
      | .outOfSequence => closeTrain l false s

/-- The gap timer of the link's open tile train has reached the train gap (R39). -/
def trainGapDue (l : Link) (s : State) : Bool :=
  match trainOf s l with
  | some t => decide (s.tables.settings.trainGap ≤ t.gapTimer)
  | none => false

/-- The tile train of a link expires if its gap timer has reached the train gap (R39). -/
def expireTrain (l : Link) (s : State) : State :=
  if trainGapDue l s then voidTrain l (some .abandoned) s else s

/-! ## Locks -/

/-- A held version gains a lock (R43, R93). -/
def lockEntry (i : RosterIndex) (s : State) : State :=
  match (entryOf s i).held with
  | none => s
  | some h => setEntry i { entryOf s i with held := some { h with lock := h.lock + 1 } } s

/-- A WAITING version is promoted over the held version, which is freed (R44). -/
def promote (i : RosterIndex) (s : State) : State :=
  match (entryOf s i).incoming with
  | some { version := v, state := .waiting } => becomeHeld i .ready v (freeHeld i (emptyIncoming i s))
  | some { version := _, state := .filling } | none => s

/-- A held version gives back one lock; at 0 it is freed if its student is withheld, and otherwise gives way to a
WAITING successor (R43, R44, R46). -/
def unlockEntry (i : RosterIndex) (s : State) : State :=
  match (entryOf s i).held with
  | none => s
  | some h =>
    let s1 := setEntry i { entryOf s i with held := some { h with lock := h.lock - 1 } } s
    if h.lock = 1 then
      if (recordOf s i).withheld then freeHeld i s1 else promote i s1
    else s1

/-! ## Withhold, drop, purge and clearing -/

/-- WITHHOLD acts on the entry: its train is voided WITHHELD, a WAITING version is freed, and so is an unlocked
held version (R45). -/
def withholdEntry (i : RosterIndex) (s : State) : State :=
  let s1 := dropIncoming i .withheld s
  match (entryOf s1 i).held with
  | some h => if h.lock = 0 then freeHeld i s1 else s1
  | none => s1

/-- Both versions of an entry are freed, a FILLING one by voiding its train ABANDONED (R16, R47). -/
def clearEntry (i : RosterIndex) (s : State) : State := freeHeld i (dropIncoming i .abandoned s)

/-- PURGE STORE at one entry: the incoming version is freed, and an unlocked held version (R48). -/
def purgeEntry (i : RosterIndex) (s : State) : State :=
  let s1 := freeIncoming i s
  match (entryOf s1 i).held with
  | some h => if h.lock = 0 then freeHeld i s1 else s1
  | none => s1

/-- Every open train is voided ABANDONED and every entry is purged (R48). -/
def purgeStore (s : State) : State :=
  (List.finRange 1024).foldl (fun s i => purgeEntry i s)
    (voidTrain .b (some .abandoned) (voidTrain .a (some .abandoned) s))

end Sys2Proof.Machine
end

