-- ==== Sys2Proof/Machine/Seats.lean ====
section
/-!
DEFINITION. The Seat Decision Unit: seat line tables (R83), call points and tile calls (R86 to R88), seat decisions
and band freezes (R92, R93).
-/

namespace Sys2Proof.Machine

/-- The number of bands of an impression: ceil(Hp / Hb) (R127). -/
def bandCount (height bandHeight : Nat) : Nat := (height + bandHeight - 1) / bandHeight

/-- The line at which band `k` of an impression freezes: Sp + k·Hb − band lead, modulo 2^48 (R84). -/
def freezeLineOf (start : LineValue) (snap : Snapshot) (k : Nat) : LineValue :=
  start + BitVec.ofNat 48 (k * snap.bandHeight) - BitVec.ofNat 48 snap.bandLead

/-- The seat line table entry of a seat whose row has this top line (R83). -/
def seatLinesOf (start : LineValue) (snap : Snapshot) (top : Nat) : SeatLines :=
  let f := top / snap.bandHeight
  let line := freezeLineOf start snap f
  { firstBand := f, freezeLine := line
    callLine := if snap.callLead = 0 then none else some (line - BitVec.ofNat 48 snap.callLead)
    callTaken := false }

/-- The top line of the row a seat belongs to (R5). -/
def rowTop (p : Plan) (x : Seat) : Nat :=
  match p.rows[x.row]? with
  | some r => r.top
  | none => 0

/-- The seat line table of a plan, one entry per seat number (R83). -/
def seatLineTable (p : Plan) (start : LineValue) (snap : Snapshot) : List SeatLines :=
  p.seats.map fun x => seatLinesOf start snap (rowTop p x)

/-! ## Decisions -/

/-- The head order's entry for a seat number takes a decision and a lock mark. -/
def setDecision (n : Nat) (e : SeatEntry) (s : State) : State :=
  modHead (fun o => { o with decisions := o.decisions.set n e }) s

/-- The decision that the roster record and the held slot of an index give (R93, R94). -/
def decisionNow (s : State) (i : RosterIndex) : Decision :=
  if (recordOf s i).withheld then .withheld
  else
    match (entryOf s i).held with
    | some h =>
      match h.state with
      | .ready => .placed
      | .damaged => .absent
    | none => .absent

/-- The calls of an order for an index leave the Call List unanswered (R90). -/
def dropCallsFor (tag : BitVec 16) (i : RosterIndex) (s : State) : State :=
  { s with seats.calls := s.seats.calls.filter fun c => decide (¬(c.tag = tag ∧ c.index = i)) }

/-- A seat of the head order is decided: PLACED takes a lock, and its call leaves unanswered (R92, R93). -/
def decideSeat (tag : BitVec 16) (n : Nat) (i : RosterIndex) (s : State) : State :=
  let d := decisionNow s i
  let s1 := setDecision n { decision := d, lockMark := decide (d = .placed) } s
  let s2 := if d = .placed then lockEntry i s1 else s1
  dropCallsFor tag i s2

/-- The head order, if the queue has one. -/
def headOrder (s : State) : Option Order := s.scheduler.queue.head?

/-- A seat of the head order is UNDECIDED. -/
def isUndecided (s : State) (n : Nat) : Bool :=
  match headOrder s with
  | some o =>
    match o.decisions[n]? with
    | some e => decide (e.decision = .undecided)
    | none => false
  | none => false

/-- The seat line table entry of a seat of the head order. -/
def seatLinesAt (s : State) (n : Nat) : Option SeatLines :=
  match headOrder s with
  | some o => o.seatLines[n]?
  | none => none

/-- Seat `n`, which names index `i`, is decided at the freeze of band `k` when it is UNDECIDED and `k` is its first
band (R92). -/
def freezeSeat (tag : BitVec 16) (k : Nat) (s : State) (x : Seat × Nat) : State :=
  match seatLinesAt s x.2 with
  | some l => if isUndecided s x.2 ∧ l.firstBand = k then decideSeat tag x.2 x.1.index s else s
  | none => s

/-- The freeze of the impression's next band: its seats are decided in ascending seat number, and the band is frozen
(R92). -/
def freezeBand (s : State) : State :=
  match s.scheduler.impression with
  | none => s
  | some c =>
    match planOf s c.plan with
    | none => s
    | some p =>
      modImpression (fun c => { c with nextFreeze := c.nextFreeze + 1 })
        (p.seats.zipIdx.foldl (freezeSeat c.tag c.nextFreeze) s)

/-! ## Calls -/

/-- The place of a new call in the Call List: behind every call whose due line is the same or nearer, judged by
distance ahead of L (R88). -/
def callRank (l due : LineValue) (cs : List Call) : Nat :=
  (cs.takeWhile fun c => decide (linesAhead c.due l ≤ linesAhead due l)).length

/-- A tile call that cannot be carried is dropped (R87). -/
def dropCall (s : State) : State :=
  latchKind .callDropped { s with seats.dropped := bump s.seats.dropped }

/-- A tile call for an index is issued: its record joins the Call List and its parcel the call queue that R160
chooses, or it is dropped (R87, R88). -/
def issueCall (tag : BitVec 16) (i : RosterIndex) (due : LineValue) (s : State) : State :=
  let l := routeLink s.tables.settings.callLink s
  if s.seats.calls.length < Config.callPlaces ∧ (portOf s l).calls.length < Config.callPlaces then
    let rank := callRank s.press.lineCount due s.seats.calls
    let id := (recordOf s i).studentId
    let call : Call := { tag := tag, index := i, studentId := id, due := due, mark := s.timeMark }
    let parcel : CallParcel :=
      { studentId := id, index := i, tag := tag, due := due, remaining := due - s.press.lineCount,
        mark := s.timeMark, rank := rank }
    modPort l (fun p => { p with calls := p.calls ++ [parcel] })
      { s with seats.calls := s.seats.calls.insertIdx rank call }
  else dropCall s

/-- The conditions of R86 for a tile call. -/
def callWanted (tag : BitVec 16) (n : Nat) (i : RosterIndex) (s : State) : Bool :=
  isUndecided s n
    && !(recordOf s i).withheld
    && (match (entryOf s i).held with
        | none => true
        | some h => decide (h.state = .damaged))
    && (match (entryOf s i).incoming with
        | none => true
        | some v => decide (v.state = .waiting))
    && s.seats.calls.all fun c => decide (¬(c.tag = tag ∧ c.index = i))

/-- The call point of a seat of the head order is taken, once (R84, R86). -/
def takeCallPoint (tag : BitVec 16) (n : Nat) (i : RosterIndex) (due : LineValue) (s : State) : State :=
  let s1 := modHead (fun o => { o with seatLines := o.seatLines.modify n fun l => { l with callTaken := true } }) s
  if callWanted tag n i s1 then issueCall tag i due s1 else s1

/-- At a new value of L: the call point of a seat whose call line equals it is taken (R84). -/
def callSeatAt (tag : BitVec 16) (s : State) (x : Seat × Nat) : State :=
  match seatLinesAt s x.2 with
  | some l =>
    if l.callLine = some s.press.lineCount ∧ !l.callTaken then takeCallPoint tag x.2 x.1.index l.freezeLine s else s
  | none => s

/-- At a beginning: the call point of an UNDECIDED seat whose call line has been reached is taken (R85). -/
def callSeatReached (tag : BitVec 16) (s : State) (x : Seat × Nat) : State :=
  match seatLinesAt s x.2 with
  | some l =>
    match l.callLine with
    | some c =>
      if isReached c s.press.lineCount ∧ !l.callTaken ∧ isUndecided s x.2 then
        takeCallPoint tag x.2 x.1.index l.freezeLine s
      else s
    | none => s
  | none => s

/-- A step over every seat of the impression's plan in ascending seat number, in a first impression only. -/
def overFirstSeats (f : BitVec 16 → State → Seat × Nat → State) (s : State) : State :=
  match s.scheduler.impression with
  | some c =>
    match c.first, planOf s c.plan with
    | true, some p => p.seats.zipIdx.foldl (f c.tag) s
    | false, _ | true, none => s
  | none => s

/-! ## Lines reached -/

/-- The freeze line of the impression's next band to freeze, while it has one (R84). -/
def nextFreezeLine (s : State) : Option LineValue :=
  match s.scheduler.impression with
  | none => none
  | some c =>
    match planOf s c.plan with
    | none => none
    | some p =>
      if c.nextFreeze < bandCount p.height c.snapshot.bandHeight then
        some (freezeLineOf c.start c.snapshot c.nextFreeze)
      else none

/-- Bands whose freeze line has been reached are frozen one after another, at most `n` of them (R85). -/
def freezeReached : Nat → State → State
  | 0, s => s
  | n + 1, s =>
    match nextFreezeLine s with
    | some line => if isReached line s.press.lineCount then freezeReached n (freezeBand s) else s
    | none => s

/-- The lines that a beginning has already reached: freezes first, then call points (R85). -/
def takeReached (bands : Nat) (s : State) : State := overFirstSeats callSeatReached (freezeReached bands s)

/-- A new value of L is offered to the Scheduler: a freeze line equal to it first, then the call lines equal to it
(R84). -/
def offerLine (s : State) : State :=
  let s1 := if nextFreezeLine s = some s.press.lineCount then freezeBand s else s
  overFirstSeats callSeatAt s1

end Sys2Proof.Machine
end

