-- ==== Sys2Proof/Machine/Orders.lean ====
section
/-!
DEFINITION. The Order Scheduler: taking orders (R67 to R69), beginning and ending impressions (R70 to R78), ending
and withdrawing orders (R79 to R81), WITHHOLD (R17, R45, R73) and the Page Log (R82).
-/

namespace Sys2Proof.Machine

/-! ## Beginning an impression -/

/-- The snapshot of the Unit Settings (R21). -/
def snapshotOf (x : Settings) : Snapshot :=
  { bandHeight := x.bandHeight, bandLead := x.bandLead, callLead := x.callLead, pageGap := x.pageGap }

/-- The start line: L + band lead, unless prevEnd + page gap is ahead of L by more than band lead (R71). -/
def startLine (l prevEnd : LineValue) (snap : Snapshot) : LineValue :=
  let other := prevEnd + BitVec.ofNat 48 snap.pageGap
  if isAhead other l ∧ snap.bandLead < linesAhead other l then other
  else l + BitVec.ofNat 48 snap.bandLead

/-- The context of an impression that the order begins now (R70). -/
def newImpression (o : Order) (p : Plan) (snap : Snapshot) (start : LineValue) : Impression :=
  { tag := o.tag, plan := o.plan, copy := o.done + 1, snapshot := snap, start := start,
    endLine := start + BitVec.ofNat 48 p.height - 1, first := decide (o.done = 0), nextFreeze := 0,
    lateSeats := [], clampedSet := [], marginSet := [], captionSet := [], clamped := 0, margins := 0,
    truncated := 0, missing := 0, filled := 0, heldBands := 0, withholdPending := false }

/-- A PLACED entry whose student is withheld becomes WITHHELD, its lock mark left as it is (R72). -/
def switchEntry (s : State) (x : Seat) (e : SeatEntry) : SeatEntry :=
  if e.decision = .placed ∧ (recordOf s x.index).withheld then { e with decision := .withheld } else e

/-- The head order as it begins an impression: ACTIVE, its entries switched in a later copy, its seat lines computed
where they are not yet fixed (R70, R72, R83). -/
def beginOrder (s : State) (p : Plan) (start : LineValue) (snap : Snapshot) (o : Order) : Order :=
  { o with
    state := .active
    decisions := if o.done = 0 then o.decisions else List.zipWith (switchEntry s) p.seats o.decisions
    linesFixed := true
    seatLines := if o.linesFixed then o.seatLines else seatLineTable p start snap }

/-- The head order begins an impression; the lines already reached are taken as part of the beginning (R70 to R72,
R83, R85, R129, R134). -/
def beginImpression (s : State) : State :=
  match headOrder s with
  | none => s
  | some o =>
    match planOf s o.plan with
    | none => s
    | some p =>
      let snap := snapshotOf s.tables.settings
      let start := startLine s.press.lineCount s.scheduler.prevEnd snap
      let s1 := modHead (beginOrder s p start snap) s
      let s2 : State :=
        { s1 with
          scheduler.impression := some (newImpression o p snap start)
          renderer.nextBand := 0
          press.blankWidth := p.width
          press.mode := none }
      takeReached (bandCount p.height snap.bandHeight) s2

/-! ## Removing an order -/

/-- A lock is given back for an entry whose lock mark is set (R79 step 1). -/
def giveBackLock (s : State) (x : Seat × SeatEntry) : State :=
  if x.2.lockMark then unlockEntry x.1.index s else s

/-- The pending uses of an index fall by 1 (R12). -/
def lowerUse (s : State) (x : Seat) : State :=
  setRecord x.index { recordOf s x.index with uses := (recordOf s x.index).uses - 1 } s

/-- The pending uses of an index rise by 1 (R12). -/
def raiseUse (s : State) (x : Seat) : State :=
  setRecord x.index { recordOf s x.index with uses := (recordOf s x.index).uses + 1 } s

/-- The seats of an order's plan; the plan of a queued order is LOADED (R10). -/
def seatsOf (s : State) (o : Order) : List Seat :=
  match planOf s o.plan with
  | some p => p.seats
  | none => []

/-- The order of this tag leaves the queue (R79 step 4). -/
def leaveQueue (tag : BitVec 16) (s : State) : State :=
  { s with scheduler.queue := s.scheduler.queue.filter fun o => decide (o.tag ≠ tag) }

/-- The calls of an order leave the Call List (R79 step 3). -/
def dropCallsOf (tag : BitVec 16) (s : State) : State :=
  { s with seats.calls := s.seats.calls.filter fun c => decide (c.tag ≠ tag) }

/-- An order is removed: steps 1 to 5 of R79, in their order (R79, R81). -/
def removeOrder (o : Order) (s : State) : State :=
  let seats := seatsOf s o
  let s1 := (seats.zip o.decisions).foldl giveBackLock s
  let s2 := seats.foldl lowerUse s1
  let s3 := leaveQueue o.tag (dropCallsOf o.tag s2)
  let s4 := if s3.tables.settings.freeAfterUse then freeAfterUse (seats.map Seat.index) s3 else s3
  lowWaterTest s4

/-! ## The boundary -/

/-- The slot of a page sequence number (R82). -/
def pageSlot (q : BitVec 32) : Fin 64 := Fin.ofNat 64 q.toNat

/-- The entries of a Decision Table that hold a decision (R65, R82). -/
def countDecision (d : Decision) (es : List SeatEntry) : Nat := es.countP fun e => decide (e.decision = d)

/-- The Page Log record of an impression that ends now (R82). -/
def pageRecord (s : State) (c : Impression) (o : Order) : PageRecord :=
  { sequence := s.scheduler.nextSequence, tag := c.tag, plan := c.plan, copy := c.copy, start := c.start,
    endLine := c.endLine, placed := countDecision .placed o.decisions, absent := countDecision .absent o.decisions,
    withheld := countDecision .withheld o.decisions, late := c.lateSeats.length, clamped := c.clamped,
    margins := c.margins, truncated := c.truncated, missing := c.missing, filled := c.filled,
    heldBands := c.heldBands, withholdPending := c.withholdPending, mark := s.timeMark }

/-- A Page Log record is written in the slot of the next page sequence number, which rises by 1 (R82). -/
def writePage (r : PageRecord) (s : State) : State :=
  { s with
    scheduler.log := s.scheduler.log.set (pageSlot s.scheduler.nextSequence) (some r)
    scheduler.nextSequence := s.scheduler.nextSequence + 1 }

/-- A QUEUED rush order. -/
def isQueuedRush (o : Order) : Bool := decide (o.state = .queued) && o.rush

/-- An order placed directly behind the run of QUEUED rush orders at the front of a queue (R68, R77). -/
def behindRushes (o : Order) : List Order → List Order
  | [] => [o]
  | x :: xs => if isQueuedRush x then x :: behindRushes o xs else o :: x :: xs

/-- The order whose impression has ended meets its fate: it ends, is suspended, or stays at the head (R76, R77,
R79). -/
def settleFate (s : State) : State :=
  match s.scheduler.queue with
  | [] => s
  | o :: rest =>
    if o.done = o.copies ∨ o.state = .ending then latchKind .orderDone (removeOrder o s)
    else
      match rest with
      | next :: _ =>
        if !o.rush ∧ isQueuedRush next then
          { s with scheduler.queue := behindRushes { o with state := .suspended } rest }
        else s
      | [] => s

/-- The impression in progress ends: copies done rises, the Page Log record is written, PAGE_DEFICIENT is latched
for absent seats or filled bands, prevEnd is set and the context released (R75); then the fate of its order, and the
next beginning (R76, R78). -/
def endImpression (s : State) : State :=
  match s.scheduler.impression, headOrder s with
  | some c, some o =>
    let r := pageRecord s c o
    let s1 := writePage r (modHead (fun o => { o with done := o.done + 1 }) s)
    let s2 := if 0 < r.absent + r.filled then latchKind .pageDeficient s1 else s1
    let s3 : State :=
      { s2 with scheduler.prevEnd := c.endLine + 1, scheduler.impression := none }
    beginImpression (settleFate s3)
  | _, _ => s

/-! ## Taking orders -/

/-- The arguments of QUEUE ORDER and RUSH ORDER. -/
structure OrderArgs where
  tag : BitVec 16
  plan : Fin 8
  copies : Nat
  deriving DecidableEq, Repr

/-- The checks of R67, in their order: the arguments and the plan, or the cause of the refusal. -/
def checkOrder (p : List Byte) (s : State) : Except ControlOutcome (OrderArgs × Plan) :=
  let tag := BitVec.ofNat 16 (be16 p 0)
  let copies := byteAt p 3
  match planArgument p 2 with
  | none => .error .badArgument
  | some id =>
    if tag = 0 ∨ copies = 0 then .error .badArgument
    else if Config.queuePlaces ≤ s.scheduler.queue.length then .error .queueFull
    else if s.scheduler.queue.any fun o => decide (o.tag = tag) then .error .duplicateTag
    else
      match planOf s id with
      | none => .error .noSuch
      | some plan =>
        if plan.seats.any fun x => !(recordOf s x.index).listed then .error .noSuch
        else .ok ({ tag := tag, plan := id, copies := copies }, plan)

/-- A new order, QUEUED with every seat UNDECIDED (R66, R67). -/
def newOrder (a : OrderArgs) (p : Plan) (rush : Bool) : Order :=
  { tag := a.tag, plan := a.plan, copies := a.copies, done := 0, rush := rush, state := .queued
    decisions := p.seats.map fun _ => { decision := .undecided, lockMark := false }
    linesFixed := false, seatLines := [] }

/-- The place of a rush order: behind an ACTIVE or ENDING head and the rush run behind it (R65, R68). -/
def placeRush (o : Order) : List Order → List Order
  | [] => [o]
  | x :: xs =>
    if x.state = .active ∨ x.state = .ending then x :: behindRushes o xs else behindRushes o (x :: xs)

/-- An order is taken at its place in the queue: it claims its pending uses, and begins an impression if the
Scheduler is IDLE (R67, R68, R69). -/
def takeOrder (queue : List Order) (p : Plan) (s : State) : State :=
  let s1 := p.seats.foldl raiseUse { s with scheduler.queue := queue }
  if s1.scheduler.impression.isNone then beginImpression s1 else s1

/-! ## Withdrawing and withholding -/

/-- The order of a tag, if one in the queue holds it. -/
def orderOfTag (s : State) (tag : BitVec 16) : Option Order :=
  s.scheduler.queue.find? fun o => decide (o.tag = tag)

/-- WITHDRAW ORDER acts on the order it names: a QUEUED or SUSPENDED one is removed at once, an ACTIVE one becomes
ENDING, an ENDING one is not changed (R80, R81). -/
def withdraw (o : Order) (s : State) : State :=
  match o.state with
  | .queued | .suspended => removeOrder o s
  | .active =>
    { s with
      scheduler.queue := s.scheduler.queue.map fun x => if x.tag = o.tag then { x with state := .ending } else x }
  | .ending => s

/-- WITHHOLD_PENDING is set when the order printing the impression in progress has placed the index (R73). -/
def markWithheldPending (i : RosterIndex) (s : State) : State :=
  match printingOrder s with
  | none => s
  | some o =>
    match decisionFor s o i with
    | some (_, .placed) => modImpression (fun c => { c with withholdPending := true }) s
    | some (_, .undecided) | some (_, .absent) | some (_, .withheld) | none => s

/-- WITHHOLD for an index: the flag is set, its entry is dealt with and the impression in progress is marked (R17,
R45, R73). -/
def withholdIndex (i : RosterIndex) (s : State) : State :=
  markWithheldPending i (withholdEntry i (setRecord i { recordOf s i with withheld := true } s))

/-- RELEASE for an index: the flag is cleared (R17). -/
def releaseIndex (i : RosterIndex) (s : State) : State :=
  setRecord i { recordOf s i with withheld := false } s

end Sys2Proof.Machine
end

