-- ==== Sys2Proof/Machine/Render.lean ====
section
/-!
DEFINITION. The Band Renderer: placement arithmetic (R101 to R111), captions (R120 to R125), the pixels of a band
(R131), and the start, completion and abandonment of renders (R129 to R132, R113 to R115, R126).
-/

namespace Sys2Proof.Machine

/-! ## Placement arithmetic -/

/-- The raw scale step: Hh·4096 / Ht rounded half up (R102). -/
def rawScaleStep (headHeight headTarget : Nat) : Nat := (headHeight * 4096 + headTarget / 2) / headTarget

/-- The scale step: the raw step held within the row's limits (R103). -/
def scaleStep (raw sMin sMax : Nat) : Nat := min (max raw sMin) sMax

/-- The origin across: Cs·4096 − floor(Wc/2)·s (R104). -/
def originX (centre width step : Nat) : Int := (centre * 4096 : Int) - ((width / 2 * step : Nat) : Int)

/-- The origin down: Es·4096 − Ec·s (R104). -/
def originY (eyeRow eyeOffset step : Nat) : Int := (eyeRow * 4096 : Int) - ((eyeOffset * step : Nat) : Int)

/-- The placement record of a seat, its margin mark clear (R101 to R104). -/
def placementOf (n : Nat) (x : Seat) (r : Row) (v : Version) : Placement :=
  let raw := rawScaleStep v.headHeight r.headTarget
  let s := scaleStep raw r.sMin r.sMax
  { seat := n, rawStep := raw, step := s, clamped := decide (s ≠ raw), x0 := originX v.centreColumn x.width s,
    y0 := originY v.eyeRow r.eyeOffset s, margin := false }

/-- The sample point of cell column `i` on cell line `j` (R106). -/
def samplePoint (p : Placement) (i j : Nat) : Int × Int :=
  (p.x0 + (i : Int) * (p.step : Int), p.y0 + (j : Int) * (p.step : Int))

/-- The margin test of a sample point (R107, R109). -/
def isMargin (v : Version) (pt : Int × Int) : Bool :=
  decide (pt.1 < 0 ∨ pt.2 < 0 ∨ (v.width : Int) ≤ pt.1 / 4096 ∨ (v.height : Int) ≤ pt.2 / 4096)

/-- One channel of a sample: the mean of four stored values weighted in sixteenths, rounded half up (R111). -/
def blend (wx wy a b c d : Nat) : Nat :=
  ((16 - wx) * (16 - wy) * a + wx * (16 - wy) * b + (16 - wx) * wy * c + wx * wy * d + 128) / 256

/-- The same over the three channels of four pixels (R111). -/
def blendPixels (wx wy : Nat) (a b c d : Pixel) : Pixel :=
  { r := BitVec.ofNat 8 (blend wx wy a.r.toNat b.r.toNat c.r.toNat d.r.toNat)
    g := BitVec.ofNat 8 (blend wx wy a.g.toNat b.g.toNat c.g.toNat d.g.toNat)
    b := BitVec.ofNat 8 (blend wx wy a.b.toNat b.b.toNat c.b.toNat d.b.toNat) }

/-- The weight of a coordinate: the sixteenth of a source pixel its remainder falls in (R107, R108). -/
def weightOf (x : Int) : Nat := ((x % 4096) / 256).toNat

/-- The sample of a point that is no margin, from the four stored pixels around it (R107 to R111). -/
def samplePixel (m : List Host.Cell) (v : Version) (pt : Int × Int) : Pixel :=
  let xi := (pt.1 / 4096).toNat
  let yi := (pt.2 / 4096).toNat
  let x1 := min (xi + 1) (v.width - 1)
  let y1 := min (yi + 1) (v.height - 1)
  blendPixels (weightOf pt.1) (weightOf pt.2) (storedPixel m v xi yi) (storedPixel m v x1 yi)
    (storedPixel m v xi y1) (storedPixel m v x1 y1)

/-- A pixel of the cell of a placed seat (R105 to R111). -/
def placedPixel (m : List Host.Cell) (v : Version) (r : Row) (p : Placement) (i j : Nat) : Pixel :=
  let pt := samplePoint p i j
  if isMargin v pt then r.margin else samplePixel m v pt

/-! ## Captions -/

/-- The glyph of a code, if it has one (R116). -/
def glyphOf (g : GlyphSet) (code : Nat) : Option Glyph := (g.glyphs.find? fun e => decide (e.1 = code)).map (·.2)

/-- A code resolved to a glyph, with whether it is a substitute use: its own glyph, else that of code 127, else that
of code 32 (R121). -/
def resolveCode (g : Option GlyphSet) (code : Byte) : Option (Glyph × Bool) :=
  match g with
  | none => none
  | some g =>
    match glyphOf g code.toNat, glyphOf g 127, glyphOf g 32 with
    | some x, _, _ => some (x, false)
    | none, some x, _ => some (x, true)
    | none, none, some x => some (x, true)
    | none, none, none => none

/-- A whole caption resolved in text order; `none` omits it (R121). -/
def resolveText (g : Option GlyphSet) : List Byte → Option (List (Glyph × Bool))
  | [] => some []
  | c :: cs =>
    match resolveCode g c, resolveText g cs with
    | some x, some xs => some (x :: xs)
    | some _, none | none, _ => none

/-- The width of a run of glyphs: its advances, and the tracking between them (R122). -/
def runWidth (tracking : Nat) (gs : List Glyph) : Nat :=
  (gs.map Glyph.advance).sum + tracking * (gs.length - 1)

/-- The length of the longest run from the front whose width is at most `avail`, given the width of the run before
it and its length (R122). -/
def fitFrom (tracking avail : Nat) : Nat → Nat → List Glyph → Nat
  | n, _, [] => n
  | n, width, g :: gs =>
    let w := width + g.advance + (if n = 0 then 0 else tracking)
    if w ≤ avail then fitFrom tracking avail (n + 1) w gs else n

/-- The available width of a seat's strip: Wc − 2 · side margin (R122). -/
def availableWidth (x : Seat) (r : Row) : Nat := x.width - 2 * r.sideMargin

/-- The caption record of a seat (R120 to R124). DESIGN CHOICE (log entry 28): under an EMPTY Glyph Set, which has no set
height, the top line is that of a height of 0; no pixel depends on it. -/
def captionOf (g : Option GlyphSet) (n : Nat) (x : Seat) (r : Row) (text : List Byte) : CaptionRecord :=
  let avail := availableWidth x r
  let height := match g with
    | some g => g.height
    | none => 0
  let top := if height ≤ r.captionHeight then (r.captionHeight - height) / 2 else 0
  match resolveText g text with
  | none =>
    { seat := n, resolved := [], omitted := true, setCount := 0, setWidth := 0, truncated := true, missing := 0,
      leftStart := x.left + r.sideMargin + avail / 2, topLine := top }
  | some xs =>
    let gs := xs.map (·.1)
    let count := fitFrom r.tracking avail 0 0 gs
    let width := runWidth r.tracking (gs.take count)
    { seat := n, resolved := gs, omitted := false, setCount := count, setWidth := width,
      truncated := decide (count < gs.length), missing := (xs.take count).countP (·.2),
      leftStart := x.left + r.sideMargin + (avail - width) / 2, topLine := top }

/-- The coverage bit of a run of glyphs at a column counted from the run's left start and a glyph line: clear
between glyphs and past the last (R123, R125). -/
def inkAt (tracking line : Nat) : Nat → List Glyph → Bool
  | _, [] => false
  | col, g :: gs =>
    if col < g.advance then ((g.bitmap.getD line []).getD col false)
    else if col < g.advance + tracking then false
    else inkAt tracking line (col - (g.advance + tracking)) gs

/-- A pixel of the caption strip of a seat that has a caption record: `col` is its page column and `t` its strip
line (R123 to R125). -/
def captionPixel (g : Option GlyphSet) (r : Row) (c : CaptionRecord) (col t : Nat) : Pixel :=
  match g with
  | none => r.paper
  | some g =>
    if c.topLine ≤ t ∧ t < c.topLine + g.height ∧ c.leftStart ≤ col
        ∧ inkAt r.tracking (t - c.topLine) (col - c.leftStart) (c.resolved.take c.setCount) then r.ink
    else r.paper

/-! ## The seats of a band -/

/-- The decision that a seat renders in the impression in progress (R66, R130). -/
def renderedDecision (s : State) (n : Nat) : Decision :=
  match headOrder s with
  | some o =>
    match o.decisions[n]? with
    | some e => e.decision
    | none => .undecided
  | none => .undecided

/-- First page line of band `k` (R127). -/
def bandFirst (bandHeight k : Nat) : Nat := k * bandHeight

/-- Page line after the last of band `k` (R127). -/
def bandEnd (height bandHeight k : Nat) : Nat := min ((k + 1) * bandHeight) height

/-- A run of page lines, given by its first line and its length, has a line in the band. -/
def meetsBand (first len : Nat) (lo hi : Nat) : Bool := decide (first < hi ∧ lo < first + len ∧ 0 < len)

/-- The placement records of a band's render: one for every seat that renders PLACED and has a cell line in the band
(R101). -/
def placementsOf (s : State) (p : Plan) (lo hi : Nat) : List Placement :=
  p.seats.zipIdx.filterMap fun (x, n) =>
    match p.rows[x.row]?, (entryOf s x.index).held with
    | some r, some h =>
      if renderedDecision s n = .placed ∧ meetsBand r.top r.cellHeight lo hi then
        some (placementOf n x r h.version)
      else none
    | some _, none | none, _ => none

/-- The caption records of a band's render: one for every seat that renders PLACED or ABSENT and has a strip line in
the band (R120). -/
def captionsOf (s : State) (p : Plan) (lo hi : Nat) : List CaptionRecord :=
  p.seats.zipIdx.filterMap fun (x, n) =>
    match p.rows[x.row]? with
    | some r =>
      if (renderedDecision s n = .placed ∨ renderedDecision s n = .absent)
          ∧ meetsBand (r.top + r.cellHeight) r.captionHeight lo hi then
        some (captionOf s.tables.glyphs n x r (recordOf s x.index).caption)
      else none
    | none => none

/-! ## Pixels of a band -/

/-- The seat whose columns hold a page column on a page line of its row's box, with its row and number (R5). -/
def seatAtPixel (p : Plan) (col y : Nat) : Option (Seat × Nat × Row) :=
  p.seats.zipIdx.findSome? fun (x, n) =>
    match p.rows[x.row]? with
    | some r =>
      if x.left ≤ col ∧ col < x.left + x.width ∧ r.top ≤ y ∧ y < r.top + r.cellHeight + r.captionHeight then
        some (x, n, r)
      else none
    | none => none

/-- A pixel of a cell (R131). -/
def cellPixel (s : State) (g : Render) (x : Seat) (n : Nat) (r : Row) (col y : Nat) : Pixel :=
  match g.placements.find? (fun q => decide (q.seat = n)), (entryOf s x.index).held with
  | some q, some h => placedPixel s.store.bytes h.version r q (col - x.left) (y - r.top)
  | some _, none | none, _ => r.absentFill

/-- A pixel of a caption strip (R131). -/
def stripPixel (g : Render) (n : Nat) (r : Row) (col y : Nat) : Pixel :=
  match g.captions.find? fun q => decide (q.seat = n) with
  | some q => captionPixel g.glyphs r q col (y - (r.top + r.cellHeight))
  | none => r.paper

/-- A pixel of a page line (R131). -/
def pagePixel (s : State) (g : Render) (p : Plan) (col y : Nat) : Pixel :=
  match seatAtPixel p col y with
  | none => p.background
  | some (x, n, r) => if y < r.top + r.cellHeight then cellPixel s g x n r col y else stripPixel g n r col y

/-- The lines of a band (R131). -/
def bandLines (s : State) (g : Render) (p : Plan) (lo hi : Nat) : List (List Pixel) :=
  (List.range (hi - lo)).map fun t => (List.range p.width).map fun col => pagePixel s g p col (lo + t)

/-- The margin mark that a seat's placement record has at the end of a band's render (R109). -/
def hasMargin (v : Version) (x : Seat) (r : Row) (q : Placement) (lo hi : Nat) : Bool :=
  (List.range (hi - lo)).any fun t =>
    decide (r.top ≤ lo + t ∧ lo + t < r.top + r.cellHeight)
      && (List.range x.width).any fun i => isMargin v (samplePoint q i (lo + t - r.top))

/-- A placement record with the margin mark that its render's pixels set (R109). -/
def markMargin (s : State) (p : Plan) (lo hi : Nat) (q : Placement) : Placement :=
  match p.seats[q.seat]? with
  | some x =>
    match p.rows[x.row]?, (entryOf s x.index).held with
    | some r, some h => { q with margin := hasMargin h.version x r q lo hi }
    | some _, none | none, _ => q
  | none => q

/-! ## Start, completion, abandonment -/

/-- The lowest-numbered FREE buffer (R129). -/
def freeBuffer (s : State) : Option (Fin 4) := s.renderer.buffers.findFinIdx? fun b => decide (b = .free)

/-- The render that starts now, if the three conditions of R129 hold: the next band to render is frozen, a buffer is
FREE and no render is in progress. -/
def dueRender (s : State) : Option Render :=
  match s.scheduler.impression, s.renderer.current, freeBuffer s with
  | some c, none, some buf =>
    match planOf s c.plan with
    | some p =>
      let k := s.renderer.nextBand
      let lo := bandFirst c.snapshot.bandHeight k
      let hi := bandEnd p.height c.snapshot.bandHeight k
      if k < c.nextFreeze ∧ k < bandCount p.height c.snapshot.bandHeight then
        some
          { work := s.renderer.works, band := k, buffer := buf, glyphs := s.tables.glyphs,
            placements := placementsOf s p lo hi, captions := captionsOf s p lo hi }
      else none
    | none => none
  | _, _, _ => none

/-- A render that is due starts in its buffer (R129). -/
def startRender (s : State) : State :=
  match dueRender s with
  | some g =>
    { s with
      renderer.buffers := s.renderer.buffers.set g.buffer (.rendering g.band)
      renderer.nextBand := g.band + 1
      renderer.current := some g
      renderer.works := s.renderer.works + 1 }
  | none => s

/-- Seat numbers that are not yet in a set join it, and a count rises by 1 for each (R113, R114). -/
def countNew (set : List Nat) (count : Nat) (ns : List Nat) : List Nat × Nat :=
  ns.foldl (fun (acc : List Nat × Nat) n => if n ∈ acc.1 then acc else (acc.1 ++ [n], acc.2 + 1)) (set, count)

/-- A caption record whose seat is not yet in the caption set is counted (R126). -/
def countCaption (c : Impression) (q : CaptionRecord) : Impression :=
  if q.seat ∈ c.captionSet then c
  else
    { c with
      captionSet := c.captionSet ++ [q.seat]
      truncated := c.truncated + q.truncated.toNat
      missing := c.missing + q.missing }

/-- The marks of a completed render are handed to the impression context (R113, R114, R126, R132). -/
def handOver (qs : List Placement) (cs : List CaptionRecord) (c : Impression) : Impression :=
  let cl := countNew c.clampedSet c.clamped ((qs.filter (·.clamped)).map (·.seat))
  let ma := countNew c.marginSet c.margins ((qs.filter (·.margin)).map (·.seat))
  cs.foldl countCaption { c with clampedSet := cl.1, clamped := cl.2, marginSet := ma.1, margins := ma.2 }

/-- The lines that a render has written, and its placement records with their margin marks (R105 to R111, R131). -/
def finishedBand (s : State) (g : Render) : List (List Pixel) × List Placement :=
  match s.scheduler.impression with
  | some c =>
    match planOf s c.plan with
    | some p =>
      let lo := bandFirst c.snapshot.bandHeight g.band
      let hi := bandEnd p.height c.snapshot.bandHeight g.band
      (bandLines s g p lo hi, g.placements.map (markMargin s p lo hi))
    | none => ([], g.placements)
  | none => ([], g.placements)

/-- The completion of the held band's render ends the hold with verdict BUFFER, and the band counts as held
(R140). -/
def endHold (band : Nat) (s : State) : State :=
  match s.press.hold with
  | .holding k _ =>
    if k = band then
      modImpression (fun c => { c with heldBands := c.heldBands + 1 })
        { s with press.hold := .awaiting k .buffer }
    else s
  | .clear | .awaiting _ _ => s

/-- The render in progress completes (R132). -/
def completeRender (g : Render) (s : State) : State :=
  let done := finishedBand s g
  let s1 : State :=
    { s with
      renderer.buffers := s.renderer.buffers.set g.buffer (.complete g.band done.1)
      renderer.current := none }
  endHold g.band (modImpression (handOver done.2 g.captions) s1)

/-- The render of a band is abandoned: it stops, its buffer returns to FREE, nothing is handed over, and the next
band may start (R132). -/
def abandonRender (band : Nat) (s : State) : State :=
  let s1 : State :=
    match s.renderer.current with
    | some g =>
      if g.band = band then
        { s with
          renderer.buffers := s.renderer.buffers.set g.buffer .free
          renderer.current := none }
      else s
    | none => s
  { s1 with renderer.nextBand := max s1.renderer.nextBand (band + 1) }

end Sys2Proof.Machine
end

