-- ==== Sys2Proof/Machine/PressPort.lean ====
section
/-!
DEFINITION. The Press Port: the answer to a line sync (R133 to R136), underrun (R137 to R139), the end of a hold
(R140 to R142), and the Time Base's tick (R186).
-/

namespace Sys2Proof.Machine

/-! ## Lines -/

/-- A line of one colour. -/
def plainLine (width : Nat) (c : Pixel) : List Pixel := List.replicate width c

/-- The pixel of a blank line (conventions of the manual's introduction). -/
def blankPixel : Pixel := { r := 255, g := 255, b := 255 }

/-- The page line of L, when L lies within the impression in progress (R134). -/
def pageLine (s : State) : Option (Impression × Plan × Nat) :=
  match s.scheduler.impression with
  | none => none
  | some c =>
    match planOf s c.plan with
    | none => none
    | some p =>
      let y := (s.press.lineCount - c.start).toNat
      if y < p.height then some (c, p, y) else none

/-- A line is put on the pixel bus and the line sync is answered: L rises by 1 (R133). -/
def emitLine (line : List Pixel) (s : State) : State :=
  { s with press.pixelBus := line, press.lineCount := s.press.lineCount + 1 }

/-- The COMPLETE buffer that holds band `k` (R135). -/
def completeBuffer (s : State) (k : Nat) : Option (Fin 4) :=
  s.renderer.buffers.findFinIdx? fun b =>
    match b with
    | .complete band _ => decide (band = k)
    | .free | .rendering _ => false

/-- The lines in a buffer. -/
def bufferLines (b : Buffer) : List (List Pixel) :=
  match b with
  | .complete _ lines => lines
  | .free | .rendering _ => []

/-- The line that a page line of band `k` is emitted as, in the band's emission mode (R135, R138). -/
def lineFor (s : State) (c : Impression) (p : Plan) (mode : BandMode) (k y : Nat) : List Pixel :=
  match mode, completeBuffer s k with
  | .buffer, some i => (bufferLines s.renderer.buffers[i]).getD (y - k * c.snapshot.bandHeight) []
  | .buffer, none | .fill, _ => plainLine p.width p.background

/-- The buffer of a band whose last line has been emitted returns to FREE, and the band's emission mode is over
(R135). -/
def endBand (k : Nat) (s : State) : State :=
  let s1 : State := { s with press.mode := none }
  match completeBuffer s1 k with
  | some i => { s1 with renderer.buffers := s1.renderer.buffers.set i .free }
  | none => s1

/-- A page line is emitted in its band's mode: at the band's last line the band ends, at the end line the impression
ends, and otherwise the new value of L is offered to the Scheduler (R133, R135, R136). -/
def emitPageLine (c : Impression) (p : Plan) (mode : BandMode) (y : Nat) (s : State) : State :=
  let k := y / c.snapshot.bandHeight
  let s1 := emitLine (lineFor s c p mode k y) { s with press.mode := some mode }
  let s2 := if y + 1 = bandEnd p.height c.snapshot.bandHeight k then endBand k s1 else s1
  if y + 1 = p.height then endImpression s2 else offerLine s2

/-- A blank line is emitted, and the new value of L is offered to the Scheduler (R134, R133). -/
def emitBlank (s : State) : State := offerLine (emitLine (plainLine s.press.blankWidth blankPixel) s)

/-! ## Underrun -/

/-- A band is emitted as fill: its render is abandoned, the filled bands count rises and UNDERRUN is latched (R138,
R141). -/
def fillBand (k : Nat) (s : State) : State :=
  latchKind .underrun
    (modImpression (fun c => { c with filled := c.filled + 1 }) (abandonRender k s))

/-- The line sync for the first line of band `k` makes the underrun test (R137): a COMPLETE band is emitted; an
underrun is met by FILL policy (R138) or HOLD policy (R139). DESIGN CHOICE (log entry 30): under FILL policy UNDERRUN is
latched before the new value of L is offered to the Scheduler. -/
def firstLine (c : Impression) (p : Plan) (k y : Nat) (s : State) : State :=
  if (completeBuffer s k).isSome then emitPageLine c p .buffer y s
  else if s.tables.settings.holdLimit = 0 then
    let s1 := fillBand k s
    emitPageLine c p .fill y s1
  else { s with press.hold := .holding k 0 }

/-- A line sync while the port is CLEAR (R134 to R139). -/
def clearSync (s : State) : State :=
  match pageLine s with
  | none => emitBlank s
  | some (c, p, y) =>
    let k := y / c.snapshot.bandHeight
    if y % c.snapshot.bandHeight = 0 then firstLine c p k y s
    else
      match s.press.mode with
      | some m => emitPageLine c p m y s
      | none => emitPageLine c p .fill y s

/-- The reissued line sync is answered with the held band's first line in the mode of the verdict, and the port is
CLEAR again (R142). -/
def reissuedSync (m : BandMode) (s : State) : State :=
  let s1 : State := { s with press.hold := .clear }
  match pageLine s1 with
  | none => emitBlank s1
  | some (c, p, y) => emitPageLine c p m y s1

/-- A line sync on LINE (R134 to R139, R142). A line sync while the port is HOLDING is not answered. A render that is
due has started before it (R129, log entry 5). -/
def takeLineSync (s : State) : State :=
  let s1 := startRender s
  match s1.press.hold with
  | .holding _ _ => s1
  | .awaiting _ m => reissuedSync m s1
  | .clear => clearSync s1

/-! ## Hold expiry -/

/-- The hold timer of a hold in progress has reached the hold limit as it stands (R141). -/
def holdDue (s : State) : Option Nat :=
  match s.press.hold with
  | .holding k t => if s.tables.settings.holdLimit ≤ t then some k else none
  | .clear | .awaiting _ _ => none

/-- A hold that is due expires: the port awaits the reissued line sync with verdict FILL, and the band is filled
(R141). -/
def expireHold (s : State) : State :=
  match holdDue s with
  | some k => fillBand k { startRender s with press.hold := .awaiting k .fill }
  | none => s

/-! ## The millisecond tick -/

/-- The gap timer of an open tile train counts on (R23). -/
def tickTrain (t : Train) : Train := { t with gapTimer := t.gapTimer + 1 }

/-- The gap timer of a STAGING slot counts on (R161). -/
def tickSlot (x : Slot) : Slot :=
  { x with staging := x.staging.map fun g => { g with gapTimer := g.gapTimer + 1 } }

/-- The SENSING timer and the exchange progress timer of a link count on (R144, R152). -/
def tickPort (p : Port) : Port :=
  { p with
    sensingTimer := if p.state = .sensing then p.sensingTimer + 1 else p.sensingTimer
    exchange := p.exchange.map fun x => { x with timer := x.timer + 1 } }

/-- The hold timer of a hold in progress counts on (R139, R143). -/
def tickHold (h : HoldState) : HoldState :=
  match h with
  | .holding k t => .holding k (t + 1)
  | .clear => .clear
  | .awaiting k m => .awaiting k m

/-- One millisecond passes: the time mark rises by 1 and every millisecond timer that runs counts on (R186). -/
def tick (s : State) : State :=
  { s with
    timeMark := s.timeMark + 1
    intake.trains := ⟨s.intake.trains.a.map tickTrain, s.intake.trains.b.map tickTrain⟩
    control.slots := ⟨tickSlot s.control.slots.a, tickSlot s.control.slots.b⟩
    ports := ⟨tickPort s.ports.a, tickPort s.ports.b⟩
    press.hold := tickHold s.press.hold }

end Sys2Proof.Machine
end

