-- ==== Sys2Proof/Machine/Expiries.lean ====
section
/-!
DEFINITION. What happens at once when the train gap changes (R22, R39, R171), and the expiry of table trains.
-/

namespace Sys2Proof.Machine

/-- The gap timer of the link's table train has reached the train gap (R171). -/
def tableTrainDue (l : Link) (s : State) : Bool :=
  match (slotOf s l).staging with
  | some g => decide (s.tables.settings.trainGap ≤ g.gapTimer)
  | none => false

/-- The staging of a link is discarded and its slot becomes EMPTY (R146, R171). -/
def discardStaging (l : Link) (s : State) : State := setSlot l { slotOf s l with staging := none } s

/-- The table train of a link expires if its gap timer has reached the train gap (R171). -/
def expireTable (l : Link) (s : State) : State := if tableTrainDue l s then discardStaging l s else s

/-- Every open train, of either kind and on either link, whose gap timer has reached the train gap expires at once
(R22, R39, R171). -/
def expireTrains (s : State) : State :=
  expireTable .b (expireTable .a (expireTrain .b (expireTrain .a s)))

end Sys2Proof.Machine
end

