-- ==== Sys2Proof/Machine/Exchange.lean ====
section
/-!
DEFINITION. The bring-up exchange (R147 to R153): link states, the taking in of pages, rounds, answers and the fault.
-/

namespace Sys2Proof.Machine

/-- A fresh exchange: round 0 with the unit's ability page, its acknowledge flag clear, and the progress timer at
zero (R147). -/
def newExchange : Exchange :=
  { round := 0, previous := none, takenIn := none, lastToggle := none, page := .ability false, timer := 0 }

/-- A link enters EXCHANGE (R147). -/
def enterExchange (l : Link) (s : State) : State :=
  modPort l
    (fun p => { p with
      state := .exchange, sensingTimer := 0, threshold := Config.payloadLimit, exchange := some newExchange }) s

/-- A link goes to FAULT: its exchange is dropped, its return direction stops and LINK_CHANGE is latched (R153); its
waiting calls and notice are routed as for a link that is not UP (R160). -/
def enterFault (l : Link) (s : State) : State :=
  rerouteWaiting
    (latchKind .linkChange (modPort l (fun p => { p with state := .fault, exchange := none, sending := [] }) s))

/-- The exchange ends: the link is UP and LINK_CHANGE is latched (R149); what waits on a link that is not open moves
to it (R160). -/
def enterUp (l : Link) (s : State) : State :=
  rerouteWaiting (latchKind .linkChange (modPort l (fun p => { p with state := .up, exchange := none }) s))

/-- A value held within limits. -/
def clampTo (lo hi x : Nat) : Nat := min (max x lo) hi

/-- The exchange of a link is replaced. -/
def setExchange (l : Link) (x : Exchange) (s : State) : State := modPort l (fun p => { p with exchange := some x }) s

/-- The exchange after a page has been taken in: the acknowledge flag is set in the unit's page, and the progress timer
restarts (R148). -/
def takenInExchange (x : Exchange) (page : List Byte) (unit : UnitPage) : Exchange :=
  { x with previous := none, takenIn := some page, page := unit, timer := 0 }

/-- The server's ability page is taken in: role and revision are tested, and its payload limit, clamped, becomes the
oversize threshold (R150). -/
def takeAbility (l : Link) (x : Exchange) (page : List Byte) (s : State) : State :=
  if byteAt page 1 = 1 ∨ byteAt page 3 = 0 ∨ 2 < byteAt page 3 then enterFault l s
  else
    modPort l
      (fun p => { p with
        threshold := clampTo 256 4096 (be16 page 4)
        exchange := some (takenInExchange x page (.ability true)) }) s

/-- The toggle of the unit's next answer: alternated from its previous one, or 0 for the first (R151). -/
def nextToggle (p : UnitPage) : Bool :=
  match p with
  | .ability _ => false
  | .answer _ _ t _ _ => !t

/-- The unit's answer to a server's next page (R151). -/
def answerTo (x : Exchange) (page : List Byte) : UnitPage :=
  let t := nextToggle x.page
  if pageMessage page then
    match byteAt page 2 with
    | 1 => .answer true true t 1 (clampTo 1 100 (be16 page 4))
    | 2 => .answer true true t 2 (clampTo 256 4096 (be16 page 4))
    | _ => .answer true false t (page.getD 2 0) 0
  else .answer false false t 0 0

/-- A train gap or payload limit that the answer adopts takes effect, a train gap on the open trains of both links at
once (R22, R151). -/
def adoptMessage (l : Link) (page : List Byte) (s : State) : State :=
  if pageMessage page then
    match byteAt page 2 with
    | 1 => expireTrains { s with tables.settings.trainGap := clampTo 1 100 (be16 page 4) }
    | 2 => modPort l (fun p => { p with threshold := clampTo 256 4096 (be16 page 4) }) s
    | _ => s
  else s

/-- A server's next page is taken in and answered (R151). -/
def takeNext (l : Link) (x : Exchange) (page : List Byte) (s : State) : State :=
  adoptMessage l page (setExchange l (takenInExchange x page (answerTo x page)) s)

/-- A round is complete: the next one begins if the server's page announced one, and otherwise the exchange ends
(R149). -/
def completeRound (l : Link) (x : Exchange) (page : List Byte) (s : State) : State :=
  if pageNext page then
    setExchange l
      { x with
        round := x.round + 1, previous := none, takenIn := none, timer := 0
        lastToggle := if isAbility page then none else some (pageToggle page) } s
  else enterUp l s

/-- A page belongs to the current round: an ability page in round 0, and later a next page whose toggle differs from
that of the page taken in the round before (R148). -/
def belongs (x : Exchange) (page : List Byte) : Bool :=
  if x.round = 0 then isAbility page
  else !isAbility page && decide (x.lastToggle ≠ some (pageToggle page))

/-- A page of the current round, as compared, meets the exchange: twice running it is taken in, or, once the round's
page is taken in, completes the round with its acknowledge flag set (R148, R149). -/
def takeRoundPage (l : Link) (x : Exchange) (page : List Byte) (s : State) : State :=
  let twice := decide (x.previous = some page)
  match x.takenIn with
  | none =>
    if twice then (if isAbility page then takeAbility l x page s else takeNext l x page s)
    else setExchange l { x with previous := some page } s
  | some taken =>
    if withAcknowledge page = withAcknowledge taken then
      if twice ∧ page = withAcknowledge taken then completeRound l x taken s
      else setExchange l { x with previous := some page } s
    else s

/-- An EXCHANGE parcel that passed the receive tests on a link in EXCHANGE (R148). A repeat is ignored. -/
def takePage (l : Link) (w : Wire) (s : State) : State :=
  match (portOf s l).exchange with
  | none => s
  | some x =>
    let page := comparedBytes w.payload
    if belongs x page then takeRoundPage l x page s else s

/-- The progress timer has reached 50 ms (R152). -/
def exchangeDue (l : Link) (s : State) : Bool :=
  match (portOf s l).state, (portOf s l).exchange with
  | .exchange, some x => decide (Config.exchangeLimit ≤ x.timer)
  | _, _ => false

/-- The exchange is dropped, the link returns to SENSING and its restart counter rises (R152). -/
def restartExchange (l : Link) (s : State) : State :=
  modPort l
    (fun p => { p with
      state := .sensing, sensingTimer := 0, exchange := none, sending := []
      counters := { p.counters with restarts := bump p.counters.restarts } }) s

/-- The signal of a link becomes present: a DOWN link of a unit with an address enters SENSING (R144, R145). -/
def takeSignal (l : Link) (s : State) : State :=
  let p := portOf s l
  if p.state = .down ∧ s.straps ≠ Config.hallAddress then
    setPort l { p with signal := true, state := .sensing, sensingTimer := 0 } s
  else setPort l { p with signal := true } s

/-- The signal has been present for 1 ms in SENSING (R144, R147). -/
def sensingDue (l : Link) (s : State) : Bool :=
  decide ((portOf s l).state = .sensing ∧ 1 ≤ (portOf s l).sensingTimer)

/-- A link loses its signal, steps 1 to 8 of R146. -/
def loseSignal (l : Link) (s : State) : State :=
  let wasDown := decide ((portOf s l).state = .down)
  let s1 := modPort l
    (fun p => { p with
      state := .down, signal := false, sensingTimer := 0, exchange := none, sending := [], reply := none
      heldBack := [] }) s
  let s2 := discardStaging l (voidTrain l none s1)
  let s3 := rerouteWaiting s2
  if wasDown then s3 else latchKind .linkChange s3

end Sys2Proof.Machine
end

