-- ==== Sys2Proof/Machine/Flags.lean ====
section
/-!
DEFINITION. The fields of the Unit Status, each from the state of its owner (R180), and the status byte
(section 12.5).
-/

namespace Sys2Proof.Machine

/-- ATTENTION: a latched kind is enabled and attention is not inhibited (R185). -/
def attention (s : State) : Bool :=
  s.notices.latched &&& s.notices.enabled != 0 && !s.notices.inhibit

/-- RUNNING: an impression is in progress (R69). -/
def running (s : State) : Bool := s.scheduler.impression.isSome

/-- STORE_LOW: the free count is below low-water (R61). -/
def storeLow (s : State) : Bool := decide (s.store.freeCount < s.tables.settings.lowWater)

/-- HOLDING, and the HOLD output: the Press Port is holding the press (R139). -/
def holding (s : State) : Bool :=
  match s.press.hold with
  | .holding _ _ => true
  | .clear | .awaiting _ _ => false

/-- The Unit Status byte, CONTROL_ERROR in bit 0 up to HOLDING in bit 7 (R180, section 12.5). -/
def unitStatus (s : State) : Byte :=
  BitVec.ofNat 8
    (s.control.controlError.toNat + s.control.hallReceived.toNat * 2 + (attention s).toNat * 4
      + s.ports.a.quiet.toNat * 8 + s.ports.b.quiet.toNat * 16 + (running s).toNat * 32
      + (storeLow s).toNat * 64 + (holding s).toNat * 128)

end Sys2Proof.Machine
end

