-- ==== Sys2Proof/Machine/TableLoads.lean ====
section
/-!
DEFINITION. The checks that a staged table meets at its LAST parcel and its application: plans (R6 to R8), the roster
(R13 to R16), tone sets (R19) and the Glyph Set (R117 to R119).
-/

namespace Sys2Proof.Machine

/-! ## Plans -/

/-- The row fields are in their ranges and the row's box lies within the page (R4, R7 check 5). -/
def rowInRange (pageHeight : Nat) (r : Row) : Bool :=
  decide (r.top ≤ 8191 ∧ 32 ≤ r.cellHeight ∧ r.cellHeight ≤ 2048 ∧ r.captionHeight ≤ 128 ∧ 16 ≤ r.headTarget
    ∧ r.headTarget ≤ 2047 ∧ r.eyeOffset < r.cellHeight ∧ 256 ≤ r.sMin ∧ r.sMin ≤ r.sMax ∧ r.sMax ≤ 65535
    ∧ r.tracking ≤ 8 ∧ r.sideMargin ≤ 32 ∧ r.top + r.cellHeight + r.captionHeight ≤ pageHeight)

/-- Every row but the first starts at or below the end of the previous row's box (R7 check 6). -/
def rowsInOrder : List Row → Bool
  | [] => true
  | [_] => true
  | r :: q :: rest => decide (r.top + r.cellHeight + r.captionHeight ≤ q.top) && rowsInOrder (q :: rest)

/-- A seat's fields are in their ranges (R5, R7 check 7). -/
def seatInRange (p : RawPlan) (x : RawSeat) : Bool :=
  match p.rows[x.row]? with
  | some r =>
    decide (32 ≤ x.width ∧ x.width ≤ 1024 ∧ x.left + x.width ≤ p.width ∧ x.index ≤ 1023
      ∧ 2 * r.sideMargin < x.width)
  | none => false

/-- Two seats of the same row share a column (R7 check 8). -/
def seatsOverlap (x y : RawSeat) : Bool :=
  decide (x.row = y.row ∧ x.left < y.left + y.width ∧ y.left < x.left + x.width)

/-- No two of the items are related. -/
def noPair {α : Type} (rel : α → α → Bool) : List α → Bool
  | [] => true
  | x :: xs => xs.all (fun y => !rel x y) && noPair rel xs

/-- Rows and seats of a plan slot, 0 when it is EMPTY (R8). -/
def slotTotals (s : State) (id : Fin 8) : Nat × Nat :=
  match planOf s id with
  | some p => (p.rows.length, p.seats.length)
  | none => (0, 0)

/-- The checks of a staged plan, in the order of R7; the first to fail names the refusal. -/
def checkPlan (id : Fin 8) (bytes : List Byte) (overflow : Bool) (s : State) : ControlOutcome :=
  let p := readPlan bytes
  let need := planLength p.rowCount p.seatCount
  if planPinned s id then .pinned
  else if bytes.length < 10 ∨ bytes.length < need then .short
  else if need < bytes.length ∨ overflow then .long
  else if p.width < 256 ∨ 4096 < p.width ∨ p.height < 256 ∨ 8192 < p.height then .pageRange
  else if p.rowCount < 1 ∨ 16 < p.rowCount ∨ !p.rows.all (rowInRange p.height) then .rowRange
  else if !rowsInOrder p.rows then .rowOrder
  else if p.seatCount < 1 ∨ 256 < p.seatCount ∨ !p.seats.all (seatInRange p) then .seatRange
  else if !noPair seatsOverlap p.seats then .seatOverlap
  else if !noPair (fun x y => decide (x.index = y.index)) p.seats then .duplicateStudent
  else if 64 < s.tables.planRows - (slotTotals s id).1 + p.rowCount
      ∨ 1024 < s.tables.planSeats - (slotTotals s id).2 + p.seatCount then .planSpace
  else .taken

/-- A checked plan as the table holds it. -/
def planFrom (p : RawPlan) : Plan :=
  { width := p.width, height := p.height, background := p.background, rows := p.rows
    seats := p.seats.map fun x =>
      { row := x.row, left := x.left, width := x.width, index := Fin.ofNat 1024 x.index } }

/-- The contents of a plan slot are replaced and the totals follow (R8, R9). -/
def setPlan (id : Fin 8) (p : Option Plan) (s : State) : State :=
  let new : Nat × Nat := match p with
    | some p => (p.rows.length, p.seats.length)
    | none => (0, 0)
  { s with
    tables.plans := s.tables.plans.set id p
    tables.planRows := s.tables.planRows - (slotTotals s id).1 + new.1
    tables.planSeats := s.tables.planSeats - (slotTotals s id).2 + new.2 }

/-! ## The roster -/

/-- A staged caption is too long or holds a code below 32 (R14 check 3). -/
def entryBad (e : RosterEntry) : Bool := decide (40 < e.caption.length) || e.caption.any fun c => decide (c.toNat < 32)

/-- The roster records of a range (R14). -/
def recordsIn (s : State) (first count : Nat) : List RosterRecord := (s.tables.roster.toList.drop first).take count

/-- The student ids that the roster would hold after the load, those of EMPTY records left out (R14 check 5). -/
def idsAfter (s : State) (first : Nat) (es : List RosterEntry) : List (BitVec 32) :=
  let listed (rs : List RosterRecord) := (rs.filter (·.listed)).map (·.studentId)
  listed (s.tables.roster.toList.take first)
    ++ (es.map (·.studentId)).filter (fun id => decide (id ≠ 0))
    ++ listed (s.tables.roster.toList.drop (first + es.length))

/-- The checks of a staged roster, in the order of R14. -/
def checkRoster (first count : Nat) (bytes : List Byte) (overflow : Bool) (s : State) : ControlOutcome :=
  match readRoster count bytes with
  | none => .short
  | some (es, rest) =>
    if rest ≠ [] ∨ overflow then .long
    else if es.any entryBad then .badArgument
    else if (recordsIn s first count).any fun r => decide (0 < r.uses) then .pinned
    else if !noPair (fun x y => decide (x = y)) (idsAfter s first es) then .duplicateId
    else .taken

/-- A record takes its staged entry; where the student id changes, the directory entry is cleared (R15, R16). -/
def applyEntry (i : RosterIndex) (e : RosterEntry) (s : State) : State :=
  let r := recordOf s i
  let r1 :=
    if e.studentId = 0 then { r with listed := false, studentId := 0, caption := [] }
    else { r with listed := true, studentId := e.studentId, caption := e.caption }
  let s1 := setRecord i r1 s
  if r.studentId = r1.studentId then s1 else clearEntry i s1

/-- Each record of the range takes its entry (R15). -/
def applyRoster : Nat → List RosterEntry → State → State
  | _, [], s => s
  | i, e :: es, s => applyRoster (i + 1) es (applyEntry (Fin.ofNat 1024 i) e s)

/-! ## Tone sets and the Glyph Set -/

/-- An open train fills a version on this session (R19). -/
def trainOnSession (s : State) (n : Fin 16) (l : Link) : Bool :=
  match trainOf s l with
  | some t =>
    match (entryOf s t.index).incoming with
    | some v => decide (v.version.session = n)
    | none => false
  | none => false

/-- A session is busy while an open tile train on either link fills a version on it (R19). -/
def sessionBusy (s : State) (n : Fin 16) : Bool := trainOnSession s n .a || trainOnSession s n .b

/-- The checks of a staged tone set, in the order of R19. -/
def checkTone (n : Fin 16) (bytes : List Byte) (overflow : Bool) (s : State) : ControlOutcome :=
  if bytes.length < 768 then .short
  else if overflow then .long
  else if sessionBusy s n then .busySession
  else .taken

/-- A glyph entry is out of its ranges (R118 check 3). -/
def glyphBad (e : GlyphEntry) : Bool :=
  decide (e.code < 32 ∨ 255 < e.code ∨ e.glyph.advance < 1 ∨ 32 < e.glyph.advance)

/-- The checks of a staged Glyph Set, in the order of R118. -/
def checkGlyphs (bytes : List Byte) (overflow : Bool) : ControlOutcome :=
  if bytes.length < 2 then .short
  else
    match readGlyphs (byteAt bytes 0) (byteAt bytes 1) (bytes.drop 2) with
    | none => .short
    | some (es, rest) =>
      if rest ≠ [] ∨ overflow then .long
      else if byteAt bytes 0 < 8 ∨ 48 < byteAt bytes 0 ∨ byteAt bytes 1 < 1 ∨ 224 < byteAt bytes 1
          ∨ es.any glyphBad ∨ !noPair (fun x y => decide (x.code = y.code)) es then .badArgument
      else .taken

/-- The Glyph Set that checked staged bytes hold (R119). -/
def glyphsFrom (bytes : List Byte) : GlyphSet :=
  { height := byteAt bytes 0
    glyphs :=
      match readGlyphs (byteAt bytes 0) (byteAt bytes 1) (bytes.drop 2) with
      | some (es, _) => es.map fun e => (e.code, e.glyph)
      | none => [] }

/-! ## Any table -/

/-- The most bytes that a link's staging keeps for a table (R6, R13, R19, R117; section 12.4). -/
def stagingLimit : TableTarget → Nat
  | .plan _ => 2234
  | .roster _ _ => 46080
  | .tone _ => 768
  | .glyphs => 43458

/-- The checks of a table train at its LAST parcel (R1, R169). -/
def checkTable (g : Staging) (s : State) : ControlOutcome :=
  match g.target with
  | .plan id => checkPlan id g.bytes g.overflow s
  | .roster first count => checkRoster first count g.bytes g.overflow s
  | .tone n => checkTone n g.bytes g.overflow s
  | .glyphs => checkGlyphs g.bytes g.overflow

/-- A checked table replaces its part of the live tables (R1, R8, R15, R19, R119). A render that is due takes the old
Glyph Set (R129, log entry 5). -/
def applyTable (g : Staging) (s : State) : State :=
  match g.target with
  | .plan id => setPlan id (some (planFrom (readPlan g.bytes))) s
  | .roster first count =>
    match readRoster count g.bytes with
    | some (es, _) => applyRoster first es s
    | none => s
  | .tone n => { s with tables.tones := s.tables.tones.set n (some (readTone g.bytes)) }
  | .glyphs =>
    let s1 := startRender s
    { s1 with tables.glyphs := some (glyphsFrom g.bytes) }

end Sys2Proof.Machine
end

