-- ==== Sys2Proof/Machine/Layouts.lean ====
section
/-!
DEFINITION. The layouts of what the unit sends: outcome and data bytes of replies (section 12.5), calls, notices and
exchange pages (section 12.6), and whole parcels with header and check (sections 12.1, R154).
-/

namespace Sys2Proof.Machine

/-- One byte of a number. -/
def byteOf (n : Nat) : Byte := BitVec.ofNat 8 n

/-- A run of zero bytes. -/
def zeroBytes (n : Nat) : List Byte := List.replicate n 0

/-- A list of bytes made up with zeros, or cut, to a length. -/
def padTo (n : Nat) (bs : List Byte) : List Byte := (bs ++ zeroBytes n).take n

/-- A link field: 0 for A, 1 for B. -/
def linkByte : Link → Byte
  | .a => 0
  | .b => 1

/-- The outcome byte (section 12.5). -/
def outcomeByte : ControlOutcome → Byte
  | .taken => 0
  | .unknownControl => 1
  | .long => 2
  | .short => 3
  | .badArgument => 4
  | .notHall => 5
  | .pinned => 6
  | .queueFull => 7
  | .duplicateTag => 8
  | .noSuch => 9
  | .busySession => 10
  | .pageRange => 11
  | .rowRange => 12
  | .rowOrder => 13
  | .seatRange => 14
  | .seatOverlap => 15
  | .duplicateStudent => 16
  | .planSpace => 17
  | .duplicateId => 18

/-- The link state byte of READ COUNTERS (section 12.5). -/
def linkStateByte : LinkState → Byte
  | .down => 0
  | .sensing => 1
  | .exchange => 2
  | .up => 3
  | .fault => 4

/-- The counters that READ COUNTERS returns for one link (section 12.5). -/
def linkCounterBytes (s : State) (l : Link) : List Byte :=
  let c := (portOf s l).counters
  [c.oversize, c.checkError, c.unknownKind, c.misaddressed, c.stray, c.restarts, (slotOf s l).superseded].flatMap
    fun x => bytesBE 2 x.toNat

/-- The data of READ COUNTERS: 36 bytes (R187, section 12.5). -/
def counterData (s : State) : List Byte :=
  linkCounterBytes s .a ++ linkCounterBytes s .b ++ bytesBE 2 s.seats.dropped.toNat
    ++ bytesBE 2 s.store.freeCount ++ bytesBE 2 s.store.arrival.length
    ++ [linkStateByte (portOf s .a).state, linkStateByte (portOf s .b).state]

/-- The order state code (section 12.5). -/
def orderStateCode : OrderState → Nat
  | .queued => 0
  | .active => 1
  | .suspended => 2
  | .ending => 3

/-- An order entry of READ QUEUE: 14 bytes (section 12.5). -/
def orderEntry (o : Order) : List Byte :=
  bytesBE 2 o.tag.toNat ++ [byteOf o.plan.val, byteOf (orderStateCode o.state + o.rush.toNat * 16),
    byteOf o.copies, byteOf o.done]
    ++ bytesBE 2 (countDecision .undecided o.decisions) ++ bytesBE 2 (countDecision .placed o.decisions)
    ++ bytesBE 2 (countDecision .absent o.decisions) ++ bytesBE 2 (countDecision .withheld o.decisions)

/-- The data of READ QUEUE: 240 bytes (R65, section 12.5). -/
def queueData (s : State) : List Byte :=
  let lead :=
    match s.scheduler.impression with
    | some c =>
      [1, byteOf s.scheduler.queue.length, byteOf c.copy, 0] ++ bytesBE 6 c.start.toNat ++ bytesBE 6 c.endLine.toNat
    | none => [0, byteOf s.scheduler.queue.length, 0, 0] ++ zeroBytes 12
  padTo 240 (lead ++ s.scheduler.queue.flatMap orderEntry)

/-- A time mark that may be absent: 0 then (section 12.5). -/
def markBytes (m : Option Mark) : List Byte :=
  match m with
  | some m => bytesBE 4 m.toNat
  | none => zeroBytes 4

/-- A version of a directory entry: 146 bytes (section 12.5). -/
def versionBytes (state lock : Nat) (v : Version) : List Byte :=
  [byteOf state, byteOf (v.retake.toNat + v.late.toNat * 2 + v.poisonedSeen.toNat * 4), byteOf lock,
    byteOf v.session.val]
    ++ bytesBE 2 v.width ++ bytesBE 2 v.height ++ bytesBE 2 v.eyeRow ++ bytesBE 2 v.centreColumn
    ++ bytesBE 2 v.headHeight ++ bytesBE 2 v.rows ++ [linkByte v.origin, byteOf v.blocks.length]
    ++ bytesBE 4 v.openMark.toNat ++ markBytes v.closeMark ++ padTo 120 (v.blocks.flatMap (bytesBE 2))

/-- The held slot of an entry: 146 bytes, READY 1 or DAMAGED 2 (section 12.5). -/
def heldBytes (h : Option Held) : List Byte :=
  match h with
  | some { version := v, state := .ready, lock := n } => versionBytes 1 n v
  | some { version := v, state := .damaged, lock := n } => versionBytes 2 n v
  | none => zeroBytes 146

/-- The incoming slot of an entry: 146 bytes, FILLING 3 or WAITING 4 (section 12.5). DESIGN CHOICE (log entry 27): the lock
count byte is 0, since R42 and R43 give a lock count to held versions only. -/
def incomingBytes (x : Option Incoming) : List Byte :=
  match x with
  | some { version := v, state := .filling } => versionBytes 3 0 v
  | some { version := v, state := .waiting } => versionBytes 4 0 v
  | none => zeroBytes 146

/-- The data of READ DIRECTORY for an index: 298 bytes (R42, section 12.5). -/
def directoryData (s : State) (i : RosterIndex) : List Byte :=
  bytesBE 2 i.val ++ bytesBE 4 (recordOf s i).studentId.toNat ++ heldBytes (entryOf s i).held
    ++ incomingBytes (entryOf s i).incoming

/-- The delivery outcome code (section 12.5). -/
def deliveryCode : Option Delivery → Byte
  | none => 0
  | some .accepted => 1
  | some .retake => 2
  | some .damaged => 3
  | some .superseded => 4
  | some .abandoned => 5
  | some .notListed => 6
  | some .withheld => 7
  | some .noSession => 8
  | some .badHead => 9
  | some .noRoom => 10

/-- A Delivery Log record: 24 bytes (section 12.5). -/
def deliveryBytes (r : DeliveryRecord) : List Byte :=
  bytesBE 4 r.sequence.toNat
    ++ bytesBE 2 (match r.index with
      | some i => i.val
      | none => 65535)
    ++ bytesBE 4 r.studentId.toNat
    ++ [linkByte r.link, byteOf (r.opened.toNat + r.closed.toNat * 2 + r.late.toNat * 4 + r.called.toNat * 8)]
    ++ bytesBE 4 r.openMark.toNat ++ markBytes r.closeMark ++ bytesBE 2 r.rows ++ [deliveryCode r.outcome, 0]

/-- A Page Log record: 46 bytes (section 12.5). -/
def pageBytes (r : PageRecord) : List Byte :=
  bytesBE 4 r.sequence.toNat ++ bytesBE 2 r.tag.toNat ++ [byteOf r.plan.val, byteOf r.copy]
    ++ bytesBE 6 r.start.toNat ++ bytesBE 6 r.endLine.toNat
    ++ [r.placed, r.absent, r.withheld, r.late, r.clamped, r.margins, r.truncated, r.missing, r.filled,
        r.heldBands].flatMap (bytesBE 2)
    ++ [byteOf r.withholdPending.toNat, 0] ++ bytesBE 4 r.mark.toNat

/-- The Delivery Log record of a sequence number, when it exists (R177). -/
def deliveryAt (s : State) (q : BitVec 32) : Option DeliveryRecord :=
  match s.intake.log[logSlot q] with
  | some r => if r.sequence = q then some r else none
  | none => none

/-- The Page Log record of a sequence number, when it exists (R177). -/
def pageAt (s : State) (q : BitVec 32) : Option PageRecord :=
  match s.scheduler.log[pageSlot q] with
  | some r => if r.sequence = q then some r else none
  | none => none

/-- Consecutive existing records from a sequence number on, at most `n` (R178). -/
def recordsFrom {α : Type} (at_ : BitVec 32 → Option α) : Nat → BitVec 32 → List α
  | 0, _ => []
  | n + 1, q =>
    match at_ q with
    | some r => r :: recordsFrom at_ n (q + 1)
    | none => []

/-- The data of READ DELIVERY LOG: 193 bytes (section 12.5). -/
def deliveryData (rs : List DeliveryRecord) : List Byte :=
  padTo 193 (byteOf rs.length :: rs.flatMap deliveryBytes)

/-- The data of READ PAGE LOG: 185 bytes (section 12.5). -/
def pageData (rs : List PageRecord) : List Byte := padTo 185 (byteOf rs.length :: rs.flatMap pageBytes)

/-- The data of REPORT LAST CONTROL: 5 bytes (section 12.5). -/
def lastControlData (r : LastControl) : List Byte :=
  [r.code] ++ bytesBE 2 r.tag.toNat ++ [linkByte r.link, outcomeByte r.outcome]

/-- The payload of a reply: Unit Status, control code, outcome, a reserved byte and the data (R164, section 12.5). -/
def replyPayload (s : State) (code : Byte) (o : ControlOutcome) (data : List Byte) : List Byte :=
  [unitStatus s, code, outcomeByte o, 0] ++ data

/-- The payload of a CALL parcel: 26 bytes (section 12.6). -/
def callPayload (c : CallParcel) : List Byte :=
  bytesBE 4 c.studentId.toNat ++ bytesBE 2 c.index.val ++ bytesBE 2 c.tag.toNat ++ bytesBE 6 c.due.toNat
    ++ bytesBE 6 c.remaining.toNat ++ bytesBE 4 c.mark.toNat ++ [byteOf c.rank, 0]

/-- The payload of a NOTICE parcel: 6 bytes (section 12.6). -/
def noticePayload (n : Notice) : List Byte := bytesBE 2 n.kinds.toNat ++ bytesBE 4 n.mark.toNat

/-- The payload of the unit's exchange page: 8 bytes (R147, R151, section 12.6). -/
def unitPagePayload (straps : BitVec 4) (p : UnitPage) : List Byte :=
  match p with
  | .ability ack => [0, 1, byteOf straps.toNat, 2] ++ bytesBE 2 4096 ++ [byteOf (ack.toNat * 2), 0]
  | .answer message comply toggle code argument =>
    [1, byteOf (2 + message.toNat * 4 + comply.toNat * 8 + toggle.toNat * 16), code, 0] ++ bytesBE 2 argument
      ++ [0, 0]

/-- A parcel that the unit sends, from its own address, with its check (R154, section 12.1). -/
def sentParcel (kind : Byte) (straps : BitVec 4) (response poisoned : Bool) (tag : BitVec 16)
    (payload : List Byte) : List Byte :=
  let w : Wire :=
    { address := straps, last := false, response := response, poisoned := poisoned, nocheck := false, reserved := 0,
      tag := tag, lengthField := BitVec.ofNat 16 payload.length, payload := payload, check := 0 }
  headerBytes kind 0 w ++ payload ++ bytesBE 2 (properCheck kind 0 w).toNat

/-- The bytes of a REPLY parcel (R164). -/
def replyParcel (straps : BitVec 4) (r : Reply) : List Byte := sentParcel 5 straps true r.poisoned r.tag r.payload

/-- The bytes of a CALL parcel (R87). -/
def callParcel (straps : BitVec 4) (c : CallParcel) : List Byte := sentParcel 6 straps false false 0 (callPayload c)

/-- The bytes of a NOTICE parcel (R183). -/
def noticeParcel (straps : BitVec 4) (n : Notice) : List Byte := sentParcel 7 straps false false 0 (noticePayload n)

/-- The bytes of an EXCHANGE parcel (R147). -/
def exchangeParcel (straps : BitVec 4) (p : UnitPage) : List Byte :=
  sentParcel 8 straps false false 0 (unitPagePayload straps p)

end Sys2Proof.Machine
end

