-- ==== Sys2Proof/Machine/Controls.lean ====
section
/-!
DEFINITION. The Control Unit: how a control is tested, concluded and answered (R161 to R164), and the effect and the
refusals of each control (R166).
-/

namespace Sys2Proof.Machine

/-! ## Conclusion and reply -/

/-- The update at a conclusion: CONTROL_ERROR, HALL_RECEIVED and the Last Control record, in one step; the
conclusions of REPORT STATUS and REPORT LAST CONTROL change none of them (R163). -/
def recordConclusion (l : Link) (code : Byte) (tag : BitVec 16) (hall : Bool) (o : ControlOutcome) (s : State) :
    State :=
  if code = controlCode .reportStatus ∨ code = controlCode .reportLastControl then s
  else
    { s with
      control.controlError := decide (o ≠ .taken)
      control.hallReceived := hall
      control.last := some { code := code, tag := tag, link := l, outcome := o } }

/-- A reply is placed in the link's reply queue with the Unit Status as it now stands; on a link that is quiet or not
UP it is discarded (R158, R159, R164). -/
def makeReply (l : Link) (code : Byte) (tag : BitVec 16) (o : ControlOutcome) (data : List Byte) (poisoned : Bool)
    (s : State) : State :=
  if isOpen (portOf s l) then
    modPort l
      (fun p => { p with reply := some { tag := tag, poisoned := poisoned, payload := replyPayload s code o data } }) s
  else s

/-- A control is concluded with its outcome; one addressed to the hall makes no reply (R163, R164). -/
def conclude (l : Link) (code : Byte) (tag : BitVec 16) (hall : Bool) (o : ControlOutcome) (data : List Byte)
    (poisoned : Bool) (s : State) : State :=
  let s1 := recordConclusion l code tag hall o s
  if hall then s1 else makeReply l code tag o data poisoned s1

/-- A table train staged on the link is superseded by a new control (R162, R170). -/
def supersede (l : Link) (s : State) : State :=
  let x := slotOf s l
  match x.staging with
  | some _ => setSlot l { staging := none, superseded := bump x.superseded } s
  | none => s

/-- What the rule of a control answers: a refusal with its cause, the state it leaves with the reply's data and
POISONED marker, or the opening of staging for a table. -/
inductive Ruling where
  | refuse (cause : ControlOutcome)
  | take (s : State) (data : List Byte) (poisoned : Bool)
  | stage (target : TableTarget)

/-- Staging opens in the link's control slot (R167). -/
def openStaging (l : Link) (tag : BitVec 16) (t : TableTarget) (s : State) : State :=
  setSlot l
    { slotOf s l with staging := some { target := t, tag := tag, bytes := [], overflow := false, gapTimer := 0 } } s

/-- The hall address is the one a parcel carries (R154). -/
def toHall (w : Wire) : Bool := decide (w.address = Config.hallAddress)

/-- A CONTROL parcel of a known control reaches the Control Unit: a staged train is superseded, the tests of R162 are
made in their order, and the control's own rule decides. `after` is what a taken control does once it is concluded. -/
def takeControl (c : Control) (l : Link) (w : Wire) (rule : List Byte → State → Ruling) (after : State → State)
    (s : State) : State :=
  let s1 := supersede l s
  let ends (o : ControlOutcome) : State := conclude l (controlCode c) w.tag (toHall w) o [] false s1
  if toHall w ∧ !hallControl c then ends .notHall
  else if w.payload.length < controlLength c then ends .short
  else if controlLength c < w.payload.length then ends .long
  else
    match rule w.payload s1 with
    | .refuse cause => ends cause
    | .take s2 data poisoned =>
      after (conclude l (controlCode c) w.tag (toHall w) .taken data poisoned s2)
    | .stage t => openStaging l w.tag t s1

/-- A CONTROL parcel whose code names no control is refused UNKNOWN_CONTROL (R162 test 1). -/
def takeUnknownControl (l : Link) (code : Byte) (w : Wire) (s : State) : State :=
  conclude l code w.tag (toHall w) .unknownControl [] false (supersede l s)

/-- Nothing follows the conclusion. -/
def nothingAfter (s : State) : State := s

/-! ## Status, reset and quiet -/

/-- REPORT STATUS returns the Unit Status alone (R173). -/
def reportStatusRule (_p : List Byte) (s : State) : Ruling := .take s [] false

/-- REPORT LAST CONTROL returns the Last Control record, poisoned when it is empty (R174, R177). -/
def reportLastControlRule (_p : List Byte) (s : State) : Ruling :=
  match s.control.last with
  | some r => .take s (lastControlData r) false
  | none => .take s (zeroBytes 5) true

/-- UNIT RESET does nothing before it is concluded (R175). -/
def unitResetRule (_p : List Byte) (s : State) : Ruling := .take s [] false

/-- What UNIT RESET clears once it is concluded: CONTROL_ERROR, HALL_RECEIVED, the attention inhibit and both quiet
states; what waits on a link that is not open moves (R175, R160). -/
def clearForUnitReset (s : State) : State :=
  rerouteWaiting
    { s with
      control.controlError := false
      control.hallReceived := false
      notices.inhibit := false
      ports := ⟨{ s.ports.a with quiet := false }, { s.ports.b with quiet := false }⟩ }

/-- A link becomes quiet: a reply waiting on it is discarded, and what waits on it moves if the other is open (R159,
R160). -/
def makeQuiet (l : Link) (s : State) : State :=
  rerouteWaiting (modPort l (fun p => { p with quiet := true, reply := none }) s)

/-- The quiet state of a link is cleared (R159, R160). -/
def makeUnquiet (l : Link) (s : State) : State := rerouteWaiting (modPort l (fun p => { p with quiet := false }) s)

/-- QUIET OTHER, taken on link `l` (R176). -/
def quietOtherRule (l : Link) (_p : List Byte) (s : State) : Ruling := .take (makeQuiet l.other s) [] false

/-- UNQUIET OTHER, taken on link `l` (R176). -/
def unquietOtherRule (l : Link) (_p : List Byte) (s : State) : Ruling := .take (makeUnquiet l.other s) [] false

/-! ## Notices, time and counters -/

/-- INHIBIT ATTENTION (R179, R185). -/
def inhibitAttentionRule (_p : List Byte) (s : State) : Ruling := .take { s with notices.inhibit := true } [] false

/-- RESTORE ATTENTION (R179, R185). -/
def restoreAttentionRule (_p : List Byte) (s : State) : Ruling := .take { s with notices.inhibit := false } [] false

/-- SET TIME (R179, R186). -/
def setTimeRule (p : List Byte) (s : State) : Ruling :=
  .take { s with timeMark := BitVec.ofNat 32 (be32 p 0) } [] false

/-- SET NOTICE ENABLES (R179, R182). -/
def setNoticeEnablesRule (p : List Byte) (s : State) : Ruling :=
  match kindSetArgument (be16 p 0), kindSetArgument (be16 p 2) with
  | some select, some value =>
    .take { s with notices.enabled := (s.notices.enabled &&& ~~~select) ||| (value &&& select) } [] false
  | none, _ | some _, none => .refuse .badArgument

/-- READ NOTICES copies the latch into the reply and clears it (R184). -/
def readNoticesRule (_p : List Byte) (s : State) : Ruling :=
  .take { s with notices.latched := 0 } (bytesBE 2 s.notices.latched.toNat) false

/-- Every counter set to 0 (R187). -/
def clearCounters (s : State) : State :=
  { s with
    ports := ⟨{ s.ports.a with counters := Counters.zero }, { s.ports.b with counters := Counters.zero }⟩
    control.slots := ⟨{ s.control.slots.a with superseded := 0 }, { s.control.slots.b with superseded := 0 }⟩
    seats.dropped := 0 }

/-- READ COUNTERS returns the counters and may clear them (R179, R187). -/
def readCountersRule (p : List Byte) (s : State) : Ruling :=
  match flagArgument (byteAt p 0) with
  | some clear => .take (if clear then clearCounters s else s) (counterData s) false
  | none => .refuse .badArgument

/-! ## Settings -/

/-- What acts at once when the Unit Settings change: open trains that are past the train gap expire, a hold past the
hold limit expires, and the free count meets the new low-water (R22, R60). -/
def settleSettings (s : State) : State := lowWaterTest (expireHold (expireTrains s))

/-- SETTINGS carries a whole record, which is taken or refused as one (R20, R22). -/
def settingsRule (p : List Byte) (s : State) : Ruling :=
  match settingsArgument p with
  | some x => .take (settleSettings { s with tables.settings := x }) [] false
  | none => .refuse .badArgument

/-! ## Orders -/

/-- QUEUE ORDER: the order joins the back of the queue (R67). -/
def queueOrderRule (p : List Byte) (s : State) : Ruling :=
  match checkOrder p s with
  | .error cause => .refuse cause
  | .ok (a, plan) => .take (takeOrder (s.scheduler.queue ++ [newOrder a plan false]) plan s) [] false

/-- RUSH ORDER: the order takes the place that the head gives it (R68). -/
def rushOrderRule (p : List Byte) (s : State) : Ruling :=
  match checkOrder p s with
  | .error cause => .refuse cause
  | .ok (a, plan) => .take (takeOrder (placeRush (newOrder a plan true) s.scheduler.queue) plan s) [] false

/-- WITHDRAW ORDER (R80). -/
def withdrawOrderRule (p : List Byte) (s : State) : Ruling :=
  let tag := BitVec.ofNat 16 (be16 p 0)
  if tag = 0 then .refuse .badArgument
  else
    match orderOfTag s tag with
    | some o => .take (withdraw o s) [] false
    | none => .refuse .noSuch

/-- READ QUEUE (R65). -/
def readQueueRule (_p : List Byte) (s : State) : Ruling := .take s (queueData s) false

/-! ## Students and tiles -/

/-- WITHHOLD (R17, R45, R73). -/
def withholdRule (p : List Byte) (s : State) : Ruling :=
  match indexArgument p with
  | some i => .take (withholdIndex i s) [] false
  | none => .refuse .badArgument

/-- RELEASE (R17). -/
def releaseRule (p : List Byte) (s : State) : Ruling :=
  match indexArgument p with
  | some i => .take (releaseIndex i s) [] false
  | none => .refuse .badArgument

/-- The held version of an entry is locked. -/
def isLocked (i : RosterIndex) (s : State) : Bool :=
  match (entryOf s i).held with
  | some h => decide (0 < h.lock)
  | none => false

/-- DROP TILE (R47). -/
def dropTileRule (p : List Byte) (s : State) : Ruling :=
  match indexArgument p with
  | some i => if isLocked i s then .refuse .pinned else .take (clearEntry i s) [] false
  | none => .refuse .badArgument

/-- PURGE STORE (R48). -/
def purgeStoreRule (_p : List Byte) (s : State) : Ruling := .take (purgeStore s) [] false

/-- CLEAR PLAN (R9). -/
def clearPlanRule (p : List Byte) (s : State) : Ruling :=
  match planArgument p 0 with
  | some id => if planPinned s id then .refuse .pinned else .take (setPlan id none s) [] false
  | none => .refuse .badArgument

/-! ## Reads -/

/-- READ DIRECTORY, poisoned when the roster record is EMPTY (R42, R177). -/
def readDirectoryRule (p : List Byte) (s : State) : Ruling :=
  match indexArgument p with
  | some i =>
    if (recordOf s i).listed then .take s (directoryData s i) false else .take s (zeroBytes 298) true
  | none => .refuse .badArgument

/-- READ DELIVERY LOG: up to 8 records (R177, R178). -/
def readDeliveryLogRule (p : List Byte) (s : State) : Ruling :=
  let count := byteAt p 4
  if count < 1 ∨ 8 < count then .refuse .badArgument
  else
    match recordsFrom (deliveryAt s) count (BitVec.ofNat 32 (be32 p 0)) with
    | [] => .take s (zeroBytes 193) true
    | r :: rs => .take s (deliveryData (r :: rs)) false

/-- READ PAGE LOG: up to 4 records (R177, R178). -/
def readPageLogRule (p : List Byte) (s : State) : Ruling :=
  let count := byteAt p 4
  if count < 1 ∨ 4 < count then .refuse .badArgument
  else
    match recordsFrom (pageAt s) count (BitVec.ofNat 32 (be32 p 0)) with
    | [] => .take s (zeroBytes 185) true
    | r :: rs => .take s (pageData (r :: rs)) false

/-! ## Table loads -/

/-- LOAD PLAN (R6). -/
def loadPlanRule (p : List Byte) (s : State) : Ruling :=
  match planArgument p 0 with
  | some id => if planPinned s id then .refuse .pinned else .stage (.plan id)
  | none => .refuse .badArgument

/-- LOAD ROSTER (R13). -/
def loadRosterRule (p : List Byte) (_s : State) : Ruling :=
  let first := be16 p 0
  let count := be16 p 2
  if 1023 < first ∨ count = 0 ∨ 1024 < count ∨ 1024 < first + count then .refuse .badArgument
  else .stage (.roster first count)

/-- LOAD TONE (R19). -/
def loadToneRule (p : List Byte) (s : State) : Ruling :=
  match sessionNumber (byteAt p 0) with
  | some n => if sessionBusy s n then .refuse .busySession else .stage (.tone n)
  | none => .refuse .badArgument

/-- LOAD GLYPHS (R117). -/
def loadGlyphsRule (_p : List Byte) (_s : State) : Ruling := .stage .glyphs

/-! ## Table trains -/

/-- The code of the control that opens a table train. -/
def tableCode : TableTarget → Byte
  | .plan _ => controlCode .loadPlan
  | .roster _ _ => controlCode .loadRoster
  | .tone _ => controlCode .loadTone
  | .glyphs => controlCode .loadGlyphs

/-- The staging with a body's payload appended: bytes beyond the table's limit are not kept and set the overflow mark,
and the gap timer restarts (R168). -/
def appendBody (g : Staging) (payload : List Byte) : Staging :=
  let room := stagingLimit g.target - g.bytes.length
  { g with
    bytes := g.bytes ++ payload.take room
    overflow := g.overflow || decide (room < payload.length)
    gapTimer := 0 }

/-- A table train closes: its content is checked and applied or refused, the slot is emptied and the opening control
is concluded and answered (R1, R169). -/
def closeTable (l : Link) (g : Staging) (s : State) : State :=
  let o := checkTable g s
  let s1 := if o = .taken then applyTable g s else s
  conclude l (tableCode g.target) g.tag false o [] false (discardStaging l s1)

/-- A TABLE_BODY parcel reaches the Control Unit (R168, R169). -/
def takeTableBody (l : Link) (w : Wire) (s : State) : State :=
  if toHall w then s
  else
    match (slotOf s l).staging with
    | none => countReceive l .stray s
    | some g =>
      let g1 := appendBody g w.payload
      if w.last then closeTable l g1 s else setSlot l { slotOf s l with staging := some g1 } s

end Sys2Proof.Machine
end

