-- ==== Sys2Proof/Machine/Links.lean ====
section
/-!
DEFINITION. The Link Ports' receive side and the Parcel Router (R155, R156), the parcels held back behind a waiting
reply (R158), what each kind of parcel and each control does on arrival, and the return direction's arbiter (R158 to
R160).
-/

namespace Sys2Proof.Machine

/-! ## The receive tests -/

/-- How a Link Port disposes of an arriving parcel (R155). -/
inductive Disposal where
  /-- The link is DOWN or SENSING: the parcel is not read. -/
  | notRead
  /-- The link is in FAULT: the parcel is discarded, untested (R153). -/
  | discarded
  /-- The parcel is discarded and a receive counter rises. -/
  | counted (k : ReceiveCounter)
  /-- The parcel is taken by the exchange. -/
  | exchange
  /-- The link goes to FAULT. -/
  | toFault
  /-- The parcel is passed to the Parcel Router. -/
  | routed
  deriving DecidableEq, Repr

/-- The kinds that travel on the forward direction and are routed: TILE_HEAD, TILE_BODY, CONTROL and TABLE_BODY
(R154, R188). -/
def isForwardKind (kind : Byte) : Bool := decide (1 ≤ kind.toNat ∧ kind.toNat ≤ 4)

/-- The kind is EXCHANGE (section 12.1). -/
def isExchangeKind (kind : Byte) : Bool := decide (kind.toNat = 8)

/-- The check of the parcel is not read: a TILE_BODY with NOCHECK set (R154, R155 test 2). -/
def sparesCheck (kind : Byte) (w : Wire) : Bool := decide (kind.toNat = 2) && w.nocheck

/-- Test 2 of R155 fails: a payload of another length than its field says, or a check that does not match. -/
def failsCheck (kind code : Byte) (w : Wire) : Bool :=
  decide (w.payload.length ≠ w.lengthField.toNat)
    || (!sparesCheck kind w && decide (w.check ≠ properCheck kind code w))

/-- The receive tests of R155, in their order, on a port whose unit reads these straps. -/
def disposal (p : Port) (straps : BitVec 4) (kind code : Byte) (w : Wire) : Disposal :=
  match p.state with
  | .down | .sensing => .notRead
  | .fault => .discarded
  | .exchange | .up =>
    if p.threshold < w.payload.length then .counted .oversize
    else if failsCheck kind code w then .counted .checkError
    else if !isForwardKind kind && !isExchangeKind kind then .counted .unknownKind
    else if isExchangeKind kind then
      if p.state = .up ∨ w.payload.length ≠ pageLength then .counted .unknownKind else .exchange
    else if p.state = .exchange then .toFault
    else if w.address ≠ straps ∧ w.address ≠ Config.hallAddress then .counted .misaddressed
    else .routed

/-- Parcels are held back on an UP link: a CONTROL parcel waits there for a reply to be sent (R158). -/
def holdsBack (p : Port) : Bool := p.state == .up && !p.heldBack.isEmpty

/-- A parcel joins those held back on its link, behind them (R158). -/
def holdBack (l : Link) (i : Instr) (s : State) : State := modPort l (fun p => { p with heldBack := p.heldBack ++ [i] }) s

/-- A parcel is disposed of as the receive tests say; `body` is what the block it is routed to does with it. A CONTROL
that would be routed while a reply of its link waits is held back (R155, R156, R158). -/
def dispose (l : Link) (kind code : Byte) (w : Wire) (body : State → State) (s : State) : State :=
  match disposal (portOf s l) s.straps kind code w with
  | .notRead | .discarded => s
  | .counted k => countReceive l k s
  | .exchange => takePage l w s
  | .toFault => enterFault l s
  | .routed =>
    if kind.toNat = 3 ∧ (portOf s l).reply.isSome then holdBack l (parcelCommand l kind code w) s else body s

/-- A parcel arrives on a link. Behind a parcel held back it is held back untested (R158, log entry 7). -/
def arrive (l : Link) (kind code : Byte) (w : Wire) (body : State → State) (s : State) : State :=
  if holdsBack (portOf s l) then holdBack l (parcelCommand l kind code w) s else dispose l kind code w body s

/-! ## What each parcel does on arrival -/

/-- TILE_HEAD (R24 to R27). -/
def tileHeadStep (l : Link) (code : Byte) (w : Wire) (s : State) : State := arrive l 1 code w (takeTileHead l w) s

/-- TILE_BODY (R28 to R33). -/
def tileBodyStep (l : Link) (code : Byte) (w : Wire) (s : State) : State := arrive l 2 code w (takeTileBody l w) s

/-- TABLE_BODY (R168, R169). -/
def tableBodyStep (l : Link) (code : Byte) (w : Wire) (s : State) : State := arrive l 4 code w (takeTableBody l w) s

/-- EXCHANGE (R148 to R151). -/
def exchangePageStep (l : Link) (code : Byte) (w : Wire) (s : State) : State := arrive l 8 code w id s

/-- REPORT STATUS (R173). -/
def reportStatusStep (l : Link) (w : Wire) (s : State) : State :=
  arrive l 3 (controlCode .reportStatus) w (takeControl .reportStatus l w reportStatusRule nothingAfter) s

/-- REPORT LAST CONTROL (R174). -/
def reportLastControlStep (l : Link) (w : Wire) (s : State) : State :=
  arrive l 3 (controlCode .reportLastControl) w (takeControl .reportLastControl l w reportLastControlRule nothingAfter) s

/-- UNIT RESET (R175). -/
def unitResetStep (l : Link) (w : Wire) (s : State) : State :=
  arrive l 3 (controlCode .unitReset) w (takeControl .unitReset l w unitResetRule clearForUnitReset) s

/-- QUIET OTHER (R176). -/
def quietOtherStep (l : Link) (w : Wire) (s : State) : State :=
  arrive l 3 (controlCode .quietOther) w (takeControl .quietOther l w (quietOtherRule l) nothingAfter) s

/-- UNQUIET OTHER (R176). -/
def unquietOtherStep (l : Link) (w : Wire) (s : State) : State :=
  arrive l 3 (controlCode .unquietOther) w (takeControl .unquietOther l w (unquietOtherRule l) nothingAfter) s

/-- INHIBIT ATTENTION (R179, R185). -/
def inhibitAttentionStep (l : Link) (w : Wire) (s : State) : State :=
  arrive l 3 (controlCode .inhibitAttention) w (takeControl .inhibitAttention l w inhibitAttentionRule nothingAfter) s

/-- RESTORE ATTENTION (R179, R185). -/
def restoreAttentionStep (l : Link) (w : Wire) (s : State) : State :=
  arrive l 3 (controlCode .restoreAttention) w (takeControl .restoreAttention l w restoreAttentionRule nothingAfter) s

/-- SET TIME (R179, R186). -/
def setTimeStep (l : Link) (w : Wire) (s : State) : State :=
  arrive l 3 (controlCode .setTime) w (takeControl .setTime l w setTimeRule nothingAfter) s

/-- SET NOTICE ENABLES (R179, R182). -/
def setNoticeEnablesStep (l : Link) (w : Wire) (s : State) : State :=
  arrive l 3 (controlCode .setNoticeEnables) w (takeControl .setNoticeEnables l w setNoticeEnablesRule nothingAfter) s

/-- READ NOTICES (R179, R184). -/
def readNoticesStep (l : Link) (w : Wire) (s : State) : State :=
  arrive l 3 (controlCode .readNotices) w (takeControl .readNotices l w readNoticesRule nothingAfter) s

/-- READ COUNTERS (R179, R187). -/
def readCountersStep (l : Link) (w : Wire) (s : State) : State :=
  arrive l 3 (controlCode .readCounters) w (takeControl .readCounters l w readCountersRule nothingAfter) s

/-- SETTINGS (R20, R22). -/
def settingsStep (l : Link) (w : Wire) (s : State) : State :=
  arrive l 3 (controlCode .settings) w (takeControl .settings l w settingsRule nothingAfter) s

/-- QUEUE ORDER (R67). -/
def queueOrderStep (l : Link) (w : Wire) (s : State) : State :=
  arrive l 3 (controlCode .queueOrder) w (takeControl .queueOrder l w queueOrderRule nothingAfter) s

/-- RUSH ORDER (R68). -/
def rushOrderStep (l : Link) (w : Wire) (s : State) : State :=
  arrive l 3 (controlCode .rushOrder) w (takeControl .rushOrder l w rushOrderRule nothingAfter) s

/-- WITHDRAW ORDER (R80). -/
def withdrawOrderStep (l : Link) (w : Wire) (s : State) : State :=
  arrive l 3 (controlCode .withdrawOrder) w (takeControl .withdrawOrder l w withdrawOrderRule nothingAfter) s

/-- READ QUEUE (R65). -/
def readQueueStep (l : Link) (w : Wire) (s : State) : State :=
  arrive l 3 (controlCode .readQueue) w (takeControl .readQueue l w readQueueRule nothingAfter) s

/-- WITHHOLD (R17, R45). -/
def withholdStep (l : Link) (w : Wire) (s : State) : State :=
  arrive l 3 (controlCode .withhold) w (takeControl .withhold l w withholdRule nothingAfter) s

/-- RELEASE (R17). -/
def releaseStep (l : Link) (w : Wire) (s : State) : State :=
  arrive l 3 (controlCode .release) w (takeControl .release l w releaseRule nothingAfter) s

/-- DROP TILE (R47). -/
def dropTileStep (l : Link) (w : Wire) (s : State) : State :=
  arrive l 3 (controlCode .dropTile) w (takeControl .dropTile l w dropTileRule nothingAfter) s

/-- PURGE STORE (R48). -/
def purgeStoreStep (l : Link) (w : Wire) (s : State) : State :=
  arrive l 3 (controlCode .purgeStore) w (takeControl .purgeStore l w purgeStoreRule nothingAfter) s

/-- CLEAR PLAN (R9). -/
def clearPlanStep (l : Link) (w : Wire) (s : State) : State :=
  arrive l 3 (controlCode .clearPlan) w (takeControl .clearPlan l w clearPlanRule nothingAfter) s

/-- READ DIRECTORY (R42, R177). -/
def readDirectoryStep (l : Link) (w : Wire) (s : State) : State :=
  arrive l 3 (controlCode .readDirectory) w (takeControl .readDirectory l w readDirectoryRule nothingAfter) s

/-- READ DELIVERY LOG (R178). -/
def readDeliveryLogStep (l : Link) (w : Wire) (s : State) : State :=
  arrive l 3 (controlCode .readDeliveryLog) w (takeControl .readDeliveryLog l w readDeliveryLogRule nothingAfter) s

/-- READ PAGE LOG (R178). -/
def readPageLogStep (l : Link) (w : Wire) (s : State) : State :=
  arrive l 3 (controlCode .readPageLog) w (takeControl .readPageLog l w readPageLogRule nothingAfter) s

/-- LOAD PLAN (R6, R167). -/
def loadPlanStep (l : Link) (w : Wire) (s : State) : State :=
  arrive l 3 (controlCode .loadPlan) w (takeControl .loadPlan l w loadPlanRule nothingAfter) s

/-- LOAD ROSTER (R13, R167). -/
def loadRosterStep (l : Link) (w : Wire) (s : State) : State :=
  arrive l 3 (controlCode .loadRoster) w (takeControl .loadRoster l w loadRosterRule nothingAfter) s

/-- LOAD TONE (R19, R167). -/
def loadToneStep (l : Link) (w : Wire) (s : State) : State :=
  arrive l 3 (controlCode .loadTone) w (takeControl .loadTone l w loadToneRule nothingAfter) s

/-- LOAD GLYPHS (R117, R167). -/
def loadGlyphsStep (l : Link) (w : Wire) (s : State) : State :=
  arrive l 3 (controlCode .loadGlyphs) w (takeControl .loadGlyphs l w loadGlyphsRule nothingAfter) s

/-- The step of a control. -/
def controlStep (c : Control) (l : Link) (w : Wire) (s : State) : State :=
  match c with
  | .reportStatus => reportStatusStep l w s
  | .reportLastControl => reportLastControlStep l w s
  | .unitReset => unitResetStep l w s
  | .quietOther => quietOtherStep l w s
  | .unquietOther => unquietOtherStep l w s
  | .inhibitAttention => inhibitAttentionStep l w s
  | .restoreAttention => restoreAttentionStep l w s
  | .setTime => setTimeStep l w s
  | .setNoticeEnables => setNoticeEnablesStep l w s
  | .readNotices => readNoticesStep l w s
  | .readCounters => readCountersStep l w s
  | .settings => settingsStep l w s
  | .queueOrder => queueOrderStep l w s
  | .rushOrder => rushOrderStep l w s
  | .withdrawOrder => withdrawOrderStep l w s
  | .readQueue => readQueueStep l w s
  | .withhold => withholdStep l w s
  | .release => releaseStep l w s
  | .dropTile => dropTileStep l w s
  | .purgeStore => purgeStoreStep l w s
  | .clearPlan => clearPlanStep l w s
  | .readDirectory => readDirectoryStep l w s
  | .readDeliveryLog => readDeliveryLogStep l w s
  | .readPageLog => readPageLogStep l w s
  | .loadPlan => loadPlanStep l w s
  | .loadRoster => loadRosterStep l w s
  | .loadTone => loadToneStep l w s
  | .loadGlyphs => loadGlyphsStep l w s

/-- A CONTROL parcel: the control that its code names, or UNKNOWN_CONTROL where it names none (R162 test 1). -/
def controlParcelStep (l : Link) (code : Byte) (w : Wire) (s : State) : State :=
  match controlOfCode code with
  | some c => controlStep c l w s
  | none => arrive l 3 code w (takeUnknownControl l code w) s

/-- A parcel of any kind (R155, R156). A kind without a row of its own is never routed. -/
def parcelStep (l : Link) (kind code : Byte) (w : Wire) (s : State) : State :=
  match kind.toNat with
  | 1 => tileHeadStep l code w s
  | 2 => tileBodyStep l code w s
  | 3 => controlParcelStep l code w s
  | 4 => tableBodyStep l code w s
  | 8 => exchangePageStep l code w s
  | _ => arrive l kind code w id s

/-! ## Release of parcels held back -/

/-- A parcel that was held back arrives again; a command that is no parcel is never held back. -/
def receiveParcel (s : State) (i : Instr) : State :=
  match parcelParts i with
  | some (l, kind, code, w) => parcelStep l kind code w s
  | none => s

/-- The parcels held back on a link are let through in arrival order; a CONTROL among them whose reply waits holds
back those behind it again (R158). -/
def releaseHeld (l : Link) (s : State) : State :=
  (portOf s l).heldBack.foldl receiveParcel (modPort l (fun p => { p with heldBack := [] }) s)

/-- Parcels are held back on a link and no reply waits there. -/
def releaseDue (l : Link) (s : State) : Bool :=
  !(portOf s l).heldBack.isEmpty && (portOf s l).reply.isNone

/-- Releases on either link, Link A first, at most the given number of them. -/
def releaseSome : Nat → State → State
  | 0, s => s
  | n + 1, s =>
    if releaseDue .a s then releaseSome n (releaseHeld .a s)
    else if releaseDue .b s then releaseSome n (releaseHeld .b s)
    else s

/-- Every parcel that a reply begun or discarded lets through is taken (R158). Each release lets at least one parcel
through, so as many releases as parcels are enough. -/
def releaseAll (s : State) : State :=
  releaseSome ((portOf s .a).heldBack.length + (portOf s .b).heldBack.length) s

/-! ## The return direction -/

/-- A place has been freed in the call queue of an open link: the call at the front of the queue of a link that is not
open moves to its back (R160). -/
def refillCalls (l : Link) (s : State) : State :=
  match isOpen (portOf s l.other), (portOf s l.other).calls with
  | false, c :: cs =>
    if (portOf s l).calls.length < Config.callPlaces then
      modPort l (fun p => { p with calls := p.calls ++ [c] }) (modPort l.other (fun p => { p with calls := cs }) s)
    else s
  | false, [] | true, _ => s

/-- The arbiter of an open link starts the waiting reply, else the call at the front of its queue, else the waiting
notice; what begins to be sent leaves its queue (R158). -/
def startWaiting (l : Link) (s : State) : State :=
  let p := portOf s l
  match p.reply, p.calls, p.notice with
  | some r, _, _ => setPort l { p with reply := none, sending := replyParcel s.straps r } s
  | none, c :: cs, _ => refillCalls l (setPort l { p with calls := cs, sending := callParcel s.straps c } s)
  | none, [], some n => setPort l { p with notice := none, sending := noticeParcel s.straps n } s
  | none, [], none => setPort l { p with sending := [] } s

/-- The return direction of a link has become free: the port starts its current exchange page in EXCHANGE, a waiting
parcel in UP, and nothing on a quiet link or in another state (R147, R158, R159). -/
def freeReturn (l : Link) (s : State) : State :=
  let p := portOf s l
  if p.quiet then setPort l { p with sending := [] } s
  else
    match p.state, p.exchange with
    | .up, _ => startWaiting l s
    | .exchange, some x => setPort l { p with sending := exchangeParcel s.straps x.page } s
    | .exchange, none | .down, _ | .sensing, _ | .fault, _ => setPort l { p with sending := [] } s

end Sys2Proof.Machine
end

