-- ==== Sys2Proof/Machine/Events.lean ====
section
/-!
DEFINITION. The commands that are events of the part: reset, the line sync, the millisecond tick, the links' signals and
timers, the expiries of trains, the renders, the hold and the return directions. A timer's event has its effect when the
timer has reached its limit, and none otherwise (log entry 4).
-/

namespace Sys2Proof.Machine

/-- The outcome type of every command. -/
abbrev Result := Host.Outcome State Fault Refusal

/-- The part after a power-on reset with these straps (R145). The commands waiting, the bytes of tile memory and the
model's own count of renders stand (log entry 8). -/
def powerOn (straps : BitVec 4) (s : State) : State :=
  { State.reset with
    pending := s.pending
    straps := straps
    store.bytes := s.store.bytes
    renderer.works := s.renderer.works }

/-- The completion that the work of a render with this number reports: it is taken when it is the render in progress,
and otherwise discarded as that of an abandoned one (R132, log entry 6). -/
def takeCompletion (work : Nat) (s : State) : State :=
  match s.renderer.current with
  | some g => if g.work = work then completeRender g s else s
  | none => s

/-- POWER_ON_RESET (R145). -/
def execPowerOnReset (straps : BitVec 4) (s : State) : Result := .next (powerOn straps s)

/-- LINE_SYNC (R134). -/
def execLineSync (s : State) : Result := .next (takeLineSync s)

/-- TIME_TICK (R186). -/
def execTimeTick (s : State) : Result := .next (tick s)

/-- SIGNAL_PRESENT (R144). -/
def execSignalPresent (l : Link) (s : State) : Result := .next (takeSignal l s)

/-- SENSING_TIMEOUT (R144, R147). -/
def execSensingTimeout (l : Link) (s : State) : Result := .next (if sensingDue l s then enterExchange l s else s)

/-- SIGNAL_LOST (R146). -/
def execSignalLost (l : Link) (s : State) : Result := .next (loseSignal l s)

/-- EXCHANGE_TIMEOUT (R152). -/
def execExchangeTimeout (l : Link) (s : State) : Result := .next (if exchangeDue l s then restartExchange l s else s)

/-- TRAIN_GAP_EXPIRY (R39). -/
def execTrainGapExpiry (l : Link) (s : State) : Result := .next (expireTrain l s)

/-- TABLE_TRAIN_EXPIRY (R171). -/
def execTableTrainExpiry (l : Link) (s : State) : Result := .next (expireTable l s)

/-- RENDER_START (R129). -/
def execRenderStart (s : State) : Result := .next (startRender s)

/-- RENDER_COMPLETE (R132). A render that is due has started before it (R129, log entry 5). -/
def execRenderComplete (work : Nat) (s : State) : Result := .next (takeCompletion work (startRender s))

/-- HOLD_EXPIRY (R141). -/
def execHoldExpiry (s : State) : Result := .next (expireHold s)

/-- RETURN_DIRECTION_FREE (R147, R158). A reply that begins lets through the parcels held back behind it. -/
def execReturnDirectionFree (l : Link) (s : State) : Result := .next (releaseAll (freeReturn l s))

end Sys2Proof.Machine
end

