-- ==== Sys2Proof/Machine/Parcels.lean ====
section
/-!
DEFINITION. The commands that are parcels other than known controls: tile heads and bodies, table bodies, exchange
pages, parcels of an unknown kind and controls of an unknown code.
-/

namespace Sys2Proof.Machine

/-- EXCHANGE_PAGE (R148). -/
def execExchangePage (l : Link) (code : Byte) (w : Wire) (s : State) : Result := .next (exchangePageStep l code w s)

/-- UNKNOWN_KIND_PARCEL (R155). A kind that has a row of its own acts as that row does. -/
def execUnknownKindParcel (l : Link) (kind code : Byte) (w : Wire) (s : State) : Result :=
  .next (releaseAll (parcelStep l kind code w s))

/-- TILE_HEAD (R25). -/
def execTileHead (l : Link) (code : Byte) (w : Wire) (s : State) : Result := .next (tileHeadStep l code w s)

/-- TILE_BODY (R28). -/
def execTileBody (l : Link) (code : Byte) (w : Wire) (s : State) : Result := .next (tileBodyStep l code w s)

/-- TABLE_BODY (R168). -/
def execTableBody (l : Link) (code : Byte) (w : Wire) (s : State) : Result := .next (tableBodyStep l code w s)

/-- UNKNOWN_CONTROL (R162). A code that names a control acts as that control does. -/
def execUnknownControl (l : Link) (code : Byte) (w : Wire) (s : State) : Result :=
  .next (releaseAll (controlParcelStep l code w s))

end Sys2Proof.Machine
end

