-- ==== Sys2Proof/Machine/ControlCommands.lean ====
section
/-!
DEFINITION. The commands that are known controls, in the order of their codes (R166).
-/

namespace Sys2Proof.Machine

/-- REPORT STATUS (R173). -/
def execReportStatus (l : Link) (w : Wire) (s : State) : Result := .next (reportStatusStep l w s)

/-- REPORT LAST CONTROL (R174). -/
def execReportLastControl (l : Link) (w : Wire) (s : State) : Result := .next (reportLastControlStep l w s)

/-- UNIT RESET (R175). -/
def execUnitReset (l : Link) (w : Wire) (s : State) : Result := .next (unitResetStep l w s)

/-- QUIET OTHER (R176). A reply that it discards lets through the parcels held back behind it (R158, R159). -/
def execQuietOther (l : Link) (w : Wire) (s : State) : Result := .next (releaseAll (quietOtherStep l w s))

/-- UNQUIET OTHER (R176). -/
def execUnquietOther (l : Link) (w : Wire) (s : State) : Result := .next (unquietOtherStep l w s)

/-- INHIBIT ATTENTION (R179, R185). -/
def execInhibitAttention (l : Link) (w : Wire) (s : State) : Result := .next (inhibitAttentionStep l w s)

/-- RESTORE ATTENTION (R179, R185). -/
def execRestoreAttention (l : Link) (w : Wire) (s : State) : Result := .next (restoreAttentionStep l w s)

/-- SET TIME (R179, R186). -/
def execSetTime (l : Link) (w : Wire) (s : State) : Result := .next (setTimeStep l w s)

/-- SET NOTICE ENABLES (R179, R182). -/
def execSetNoticeEnables (l : Link) (w : Wire) (s : State) : Result := .next (setNoticeEnablesStep l w s)

/-- READ NOTICES (R179, R184). -/
def execReadNotices (l : Link) (w : Wire) (s : State) : Result := .next (readNoticesStep l w s)

/-- READ COUNTERS (R179, R187). -/
def execReadCounters (l : Link) (w : Wire) (s : State) : Result := .next (readCountersStep l w s)

/-- SETTINGS (R20, R22). -/
def execSettings (l : Link) (w : Wire) (s : State) : Result := .next (settingsStep l w s)

/-- QUEUE ORDER (R67). -/
def execQueueOrder (l : Link) (w : Wire) (s : State) : Result := .next (queueOrderStep l w s)

/-- RUSH ORDER (R68). -/
def execRushOrder (l : Link) (w : Wire) (s : State) : Result := .next (rushOrderStep l w s)

/-- WITHDRAW ORDER (R80). -/
def execWithdrawOrder (l : Link) (w : Wire) (s : State) : Result := .next (withdrawOrderStep l w s)

/-- READ QUEUE (R65). -/
def execReadQueue (l : Link) (w : Wire) (s : State) : Result := .next (readQueueStep l w s)

/-- WITHHOLD (R17, R45). -/
def execWithhold (l : Link) (w : Wire) (s : State) : Result := .next (withholdStep l w s)

/-- RELEASE (R17). -/
def execRelease (l : Link) (w : Wire) (s : State) : Result := .next (releaseStep l w s)

/-- DROP TILE (R47). -/
def execDropTile (l : Link) (w : Wire) (s : State) : Result := .next (dropTileStep l w s)

/-- PURGE STORE (R48). -/
def execPurgeStore (l : Link) (w : Wire) (s : State) : Result := .next (purgeStoreStep l w s)

/-- CLEAR PLAN (R9). -/
def execClearPlan (l : Link) (w : Wire) (s : State) : Result := .next (clearPlanStep l w s)

/-- READ DIRECTORY (R42, R177). -/
def execReadDirectory (l : Link) (w : Wire) (s : State) : Result := .next (readDirectoryStep l w s)

/-- READ DELIVERY LOG (R178). -/
def execReadDeliveryLog (l : Link) (w : Wire) (s : State) : Result := .next (readDeliveryLogStep l w s)

/-- READ PAGE LOG (R178). -/
def execReadPageLog (l : Link) (w : Wire) (s : State) : Result := .next (readPageLogStep l w s)

/-- LOAD PLAN (R6, R167). -/
def execLoadPlan (l : Link) (w : Wire) (s : State) : Result := .next (loadPlanStep l w s)

/-- LOAD ROSTER (R13, R167). -/
def execLoadRoster (l : Link) (w : Wire) (s : State) : Result := .next (loadRosterStep l w s)

/-- LOAD TONE (R19, R167). -/
def execLoadTone (l : Link) (w : Wire) (s : State) : Result := .next (loadToneStep l w s)

/-- LOAD GLYPHS (R117, R167). -/
def execLoadGlyphs (l : Link) (w : Wire) (s : State) : Result := .next (loadGlyphsStep l w s)

end Sys2Proof.Machine
end

