-- ==== Sys2Proof/Machine/Dispatch.lean ====
section
/-!
DEFINITION. The meaning of each command: one arm per constructor of `Instr`.
-/

namespace Sys2Proof.Machine

def exec (i : Instr) (s : State) : Host.Outcome State Fault Refusal :=
  match i with
  | .powerOnReset straps => Sys2Proof.Machine.execPowerOnReset straps s
  | .lineSync => Sys2Proof.Machine.execLineSync s
  | .timeTick => Sys2Proof.Machine.execTimeTick s
  | .signalPresent l => Sys2Proof.Machine.execSignalPresent l s
  | .sensingTimeout l => Sys2Proof.Machine.execSensingTimeout l s
  | .signalLost l => Sys2Proof.Machine.execSignalLost l s
  | .exchangePage l code w => Sys2Proof.Machine.execExchangePage l code w s
  | .exchangeTimeout l => Sys2Proof.Machine.execExchangeTimeout l s
  | .unknownKindParcel l kind code w => Sys2Proof.Machine.execUnknownKindParcel l kind code w s
  | .tileHead l code w => Sys2Proof.Machine.execTileHead l code w s
  | .tileBody l code w => Sys2Proof.Machine.execTileBody l code w s
  | .tableBody l code w => Sys2Proof.Machine.execTableBody l code w s
  | .trainGapExpiry l => Sys2Proof.Machine.execTrainGapExpiry l s
  | .tableTrainExpiry l => Sys2Proof.Machine.execTableTrainExpiry l s
  | .renderStart => Sys2Proof.Machine.execRenderStart s
  | .renderComplete work => Sys2Proof.Machine.execRenderComplete work s
  | .holdExpiry => Sys2Proof.Machine.execHoldExpiry s
  | .returnDirectionFree l => Sys2Proof.Machine.execReturnDirectionFree l s
  | .unknownControl l code w => Sys2Proof.Machine.execUnknownControl l code w s
  | .reportStatus l w => Sys2Proof.Machine.execReportStatus l w s
  | .reportLastControl l w => Sys2Proof.Machine.execReportLastControl l w s
  | .unitReset l w => Sys2Proof.Machine.execUnitReset l w s
  | .quietOther l w => Sys2Proof.Machine.execQuietOther l w s
  | .unquietOther l w => Sys2Proof.Machine.execUnquietOther l w s
  | .inhibitAttention l w => Sys2Proof.Machine.execInhibitAttention l w s
  | .restoreAttention l w => Sys2Proof.Machine.execRestoreAttention l w s
  | .setTime l w => Sys2Proof.Machine.execSetTime l w s
  | .setNoticeEnables l w => Sys2Proof.Machine.execSetNoticeEnables l w s
  | .readNotices l w => Sys2Proof.Machine.execReadNotices l w s
  | .readCounters l w => Sys2Proof.Machine.execReadCounters l w s
  | .settings l w => Sys2Proof.Machine.execSettings l w s
  | .queueOrder l w => Sys2Proof.Machine.execQueueOrder l w s
  | .rushOrder l w => Sys2Proof.Machine.execRushOrder l w s
  | .withdrawOrder l w => Sys2Proof.Machine.execWithdrawOrder l w s
  | .readQueue l w => Sys2Proof.Machine.execReadQueue l w s
  | .withhold l w => Sys2Proof.Machine.execWithhold l w s
  | .release l w => Sys2Proof.Machine.execRelease l w s
  | .dropTile l w => Sys2Proof.Machine.execDropTile l w s
  | .purgeStore l w => Sys2Proof.Machine.execPurgeStore l w s
  | .clearPlan l w => Sys2Proof.Machine.execClearPlan l w s
  | .readDirectory l w => Sys2Proof.Machine.execReadDirectory l w s
  | .readDeliveryLog l w => Sys2Proof.Machine.execReadDeliveryLog l w s
  | .readPageLog l w => Sys2Proof.Machine.execReadPageLog l w s
  | .loadPlan l w => Sys2Proof.Machine.execLoadPlan l w s
  | .loadRoster l w => Sys2Proof.Machine.execLoadRoster l w s
  | .loadTone l w => Sys2Proof.Machine.execLoadTone l w s
  | .loadGlyphs l w => Sys2Proof.Machine.execLoadGlyphs l w s

end Sys2Proof.Machine
end

