-- ==== Sys2Proof/Safety.lean ====
section
/-!
DEFINITION. The terms in which claims are made: the laws that the state of the part keeps, and the conditions under which
a parcel or a control reaches the block that acts on it.
-/

namespace Sys2Proof.Machine

/-! ## Laws of the state -/

/-- The block numbers listed in a directory entry, those of its held version first. -/
def entryBlocks (e : DirEntry) : List Nat :=
  (match e.held with
    | some h => h.version.blocks
    | none => [])
  ++ (match e.incoming with
    | some v => v.version.blocks
    | none => [])

/-- The block numbers listed in all directory versions. -/
def listedBlocks (s : State) : List Nat := s.intake.directory.toList.flatMap entryBlocks

/-- The law of R51: the free count is the number of blocks in the free list, and every block 0..8191 is in the free
list or in the block list of exactly one directory version. -/
def BlockLaw (s : State) : Prop :=
  s.store.freeCount = s.store.freeList.length
    ∧ (s.store.freeList ++ listedBlocks s).Perm (List.range Config.blockCount)

/-- The model keeps the free list in ascending order, so that the front of the list is the lowest-numbered blocks
(R53). -/
def FreeListAscends (s : State) : Prop := s.store.freeList.Pairwise (· ≤ ·)

/-- The law of R55: the Arrival List holds every index with a held version, once each, and no other. -/
def ArrivalLaw (s : State) : Prop :=
  s.store.arrival.Nodup ∧ ∀ i : RosterIndex, i ∈ s.store.arrival ↔ (entryOf s i).held.isSome = true

/-- The law of R23: an OPEN train fills a FILLING incoming version, no student is the target of two open trains, and
every FILLING version is filled by an open train. -/
structure TrainLaw (s : State) : Prop where
  fills : ∀ (l : Link) (t : Train), trainOf s l = some t →
    ∃ v : Incoming, (entryOf s t.index).incoming = some v ∧ v.state = .filling
  apart : ∀ t u : Train, trainOf s .a = some t → trainOf s .b = some u → t.index ≠ u.index
  filled : ∀ (i : RosterIndex) (v : Incoming), (entryOf s i).incoming = some v → v.state = .filling →
    ∃ (l : Link) (t : Train), trainOf s l = some t ∧ t.index = i

/-- Rows of a plan slot, 0 when it is EMPTY. -/
def slotRows (p : Option Plan) : Nat :=
  match p with
  | some p => p.rows.length
  | none => 0

/-- Seats of a plan slot, 0 when it is EMPTY. -/
def slotSeats (p : Option Plan) : Nat :=
  match p with
  | some p => p.seats.length
  | none => 0

/-- The law of R8: the totals are the rows and the seats over all LOADED plans. -/
def TotalsLaw (s : State) : Prop :=
  s.tables.planRows = (s.tables.plans.toList.map slotRows).sum
    ∧ s.tables.planSeats = (s.tables.plans.toList.map slotSeats).sum

/-- The plan of an order names a roster index. -/
def orderNames (s : State) (o : Order) (i : RosterIndex) : Bool :=
  match planOf s o.plan with
  | some p => p.seats.any fun x => decide (x.index = i)
  | none => false

/-- An order holds a lock on a roster index: its Decision Table entry for the index has its lock mark set. -/
def orderLocks (s : State) (o : Order) (i : RosterIndex) : Bool :=
  match planOf s o.plan with
  | some p => (p.seats.zip o.decisions).any fun x => decide (x.1.index = i) && x.2.lockMark
  | none => false

/-- The law of R65, with R10 and R69: every queued order's plan is LOADED, tags differ, the Scheduler is IDLE exactly
while the queue is empty, the impression in progress is one of the head, the head alone is ACTIVE or ENDING, and behind it
stand a run of QUEUED rush orders, then a SUSPENDED ordinary order at most, then the QUEUED ordinary orders. A SUSPENDED
order stands behind a rush order only. -/
structure QueueLaw (s : State) : Prop where
  loaded : ∀ o ∈ s.scheduler.queue, planOf s o.plan ≠ none
  tags : (s.scheduler.queue.map Order.tag).Nodup
  idle : s.scheduler.impression = none ↔ s.scheduler.queue = []
  printing : ∀ (c : Impression) (o : Order) (rest : List Order), s.scheduler.impression = some c →
    s.scheduler.queue = o :: rest → c.tag = o.tag ∧ c.plan = o.plan
  places : ∀ (o : Order) (rest : List Order), s.scheduler.queue = o :: rest →
    (o.state = .active ∨ o.state = .ending)
    ∧ ∃ rushes suspended others : List Order, rest = rushes ++ suspended ++ others
      ∧ (∀ x ∈ rushes, x.state = .queued ∧ x.rush = true)
      ∧ (∀ x ∈ suspended, x.state = .suspended ∧ x.rush = false)
      ∧ (∀ x ∈ others, x.state = .queued ∧ x.rush = false)
      ∧ suspended.length ≤ 1 ∧ (suspended ≠ [] → o.rush = true)

/-- The laws of the roster and of pending uses (R11, R12): a record is LISTED exactly when its student id is not 0, no two
LISTED records have the same id, a plan names an index at most once (R7 check 9), a staged roster load has its range within
the roster (R13), and the pending uses of an index are the queued orders whose plan names it. -/
structure RosterLaw (s : State) : Prop where
  listed : ∀ i : RosterIndex, (recordOf s i).listed = true ↔ (recordOf s i).studentId ≠ 0
  unique : ∀ i j : RosterIndex, (recordOf s i).listed = true → (recordOf s j).listed = true →
    (recordOf s i).studentId = (recordOf s j).studentId → i = j
  once : ∀ (id : Fin 8) (p : Plan), planOf s id = some p → (p.seats.map Seat.index).Nodup
  range : ∀ (l : Link) (g : Staging) (first count : Nat), (slotOf s l).staging = some g →
    g.target = .roster first count → first + count ≤ 1024
  uses : ∀ i : RosterIndex, (recordOf s i).uses = s.scheduler.queue.countP fun o => orderNames s o i

/-- The law of the locks (R42, R43, R45): the lock count of an index's held version, or 0 without one, is the number of
queued orders that hold a lock on it; a DAMAGED version is not locked; a WAITING version stands only beside a locked held
one; a withheld student has no incoming version and no unlocked held one; and a Decision Table has an entry for every seat
of its plan, with the lock mark set where it is PLACED and clear where it is UNDECIDED or ABSENT (R66). -/
structure LockLaw (s : State) : Prop where
  entries : ∀ o ∈ s.scheduler.queue, ∀ p : Plan, planOf s o.plan = some p → o.decisions.length = p.seats.length
  marks : ∀ o ∈ s.scheduler.queue, ∀ e ∈ o.decisions, (e.decision = .placed → e.lockMark = true)
    ∧ (e.decision = .undecided ∨ e.decision = .absent → e.lockMark = false)
  held : ∀ (i : RosterIndex) (h : Held), (entryOf s i).held = some h →
    h.lock = s.scheduler.queue.countP fun o => orderLocks s o i
  free : ∀ i : RosterIndex, (entryOf s i).held = none → ∀ o ∈ s.scheduler.queue, orderLocks s o i = false
  damaged : ∀ (i : RosterIndex) (h : Held), (entryOf s i).held = some h → h.state = .damaged → h.lock = 0
  waiting : ∀ (i : RosterIndex) (v : Incoming), (entryOf s i).incoming = some v → v.state = .waiting →
    ∃ h : Held, (entryOf s i).held = some h ∧ 0 < h.lock
  withheld : ∀ i : RosterIndex, (recordOf s i).withheld = true →
    (entryOf s i).incoming = none ∧ ∀ h : Held, (entryOf s i).held = some h → 0 < h.lock

/-! ## Parcels that pass -/

/-- A parcel that passes every receive test on an UP link behind which nothing is held back, so that it is routed
(R155 tests 1 to 8, R156, R158). -/
structure Passes (s : State) (l : Link) (kind code : Byte) (w : Wire) : Prop where
  up : (portOf s l).state = .up
  notHeld : (portOf s l).heldBack = []
  fits : w.payload.length ≤ (portOf s l).threshold
  length : w.lengthField.toNat = w.payload.length
  check : sparesCheck kind w = true ∨ w.check = properCheck kind code w
  address : w.address = s.straps ∨ w.address = Config.hallAddress

/-- A CONTROL parcel that passes the receive tests with no reply waiting, so that it reaches the Control Unit (R156,
R158). -/
structure Reaches (s : State) (l : Link) (code : Byte) (w : Wire) : Prop where
  passes : Passes s l 3 code w
  free : (portOf s l).reply = none

/-- A CONTROL parcel of a known control that reaches the Control Unit and passes tests 1 to 4 of R162. -/
structure Asked (s : State) (l : Link) (c : Control) (w : Wire) : Prop where
  reaches : Reaches s l (controlCode c) w
  hall : w.address = Config.hallAddress → hallControl c = true
  length : w.payload.length = controlLength c

/-- An EXCHANGE parcel that passes the receive tests on a link whose exchange is `x` (R155 tests 1 to 5). -/
structure PageArrives (s : State) (l : Link) (code : Byte) (w : Wire) (x : Exchange) : Prop where
  state : (portOf s l).state = .exchange
  exchange : (portOf s l).exchange = some x
  fits : w.payload.length ≤ (portOf s l).threshold
  length : w.lengthField.toNat = w.payload.length
  page : w.payload.length = 8
  check : w.check = properCheck 8 code w

/-- No parcel is held back on either link. -/
def NoneHeldBack (s : State) : Prop := ∀ m : Link, (portOf s m).heldBack = []

/-- The places of the Order Queue, of the Call List and of each link's call queue (R65, R88, R158). -/
def WithinPlaces (s : State) : Prop :=
  s.scheduler.queue.length ≤ Config.queuePlaces ∧ s.seats.calls.length ≤ Config.callPlaces
    ∧ ∀ m : Link, (portOf s m).calls.length ≤ Config.callPlaces

/-- The page line `y` of the impression `c` on plan `p` is due: the line count lies within the impression (R134). -/
structure LineDue (s : State) (c : Impression) (p : Plan) (y : Nat) : Prop where
  impression : s.scheduler.impression = some c
  plan : planOf s c.plan = some p
  line : (s.press.lineCount - c.start).toNat = y
  within : y < p.height

/-- The one COMPLETE buffer that holds band `k` is buffer `i`, with these lines. -/
def HoldsBand (s : State) (k : Nat) (i : Fin 4) (lines : List (List Pixel)) : Prop :=
  s.renderer.buffers[i] = .complete k lines
    ∧ ∀ (j : Fin 4) (ls : List (List Pixel)), s.renderer.buffers[j] = .complete k ls → j = i

/-- No buffer holds band `k` COMPLETE: the band is an underrun when its first line is due (R137). -/
def NotComplete (s : State) (k : Nat) : Prop :=
  ∀ (j : Fin 4) (ls : List (List Pixel)), s.renderer.buffers[j] ≠ .complete k ls

/-- The line sync for page line `y` of the impression `c` is answered with that line (R135 to R138, R142): within a band in
its emission mode, at a band's first line from a COMPLETE buffer or, under FILL policy, as fill, and when it is the
reissued line sync of a hold. `d` is the context it leaves, with one more filled band in the case of fill. -/
def Emits (s : State) (c d : Impression) (y : Nat) : Prop :=
  let first : Prop := y % c.snapshot.bandHeight = 0
  let complete : Prop := ¬NotComplete s (y / c.snapshot.bandHeight)
  (s.press.hold = .clear ∧ ¬first ∧ s.press.mode ≠ none ∧ d = c)
    ∨ (s.press.hold = .clear ∧ first ∧ complete ∧ d = c)
    ∨ (s.press.hold = .clear ∧ first ∧ ¬complete ∧ s.tables.settings.holdLimit = 0
        ∧ d = { c with filled := c.filled + 1 })
    ∨ ((∃ (k : Nat) (m : BandMode), s.press.hold = .awaiting k m) ∧ d = c)

/-! ## Calls and notices between the links -/

/-- A link is open for calls and notices: it is UP and not quiet (R160). -/
def OpenLink (s : State) (l : Link) : Prop := (portOf s l).state = .up ∧ (portOf s l).quiet = false

/-- The state `t` is `s` once a link has stopped or started being open (R160, R183): where one link alone is open, the calls
that wait on the other move to the back of its queue in their order, as many as it has room for, and the waiting notice to
its slot, where two become one filled at this moment. Where both links are open, or neither, nothing moves. -/
structure Rerouted (s t : State) : Prop where
  rest : t = { s with ports := t.ports }
  stays : (OpenLink s .a ↔ OpenLink s .b) → t = s
  moves : ∀ l : Link, OpenLink s l → ¬OpenLink s l.other →
    let room := 64 - (portOf s l).calls.length
    portOf t l =
      { portOf s l with
        calls := (portOf s l).calls ++ (portOf s l.other).calls.take room
        notice :=
          match (portOf s l.other).notice, (portOf s l).notice with
          | none, n => n
          | some n, none => some n
          | some _, some _ => some { kinds := s.notices.latched, mark := s.timeMark } }
    ∧ portOf t l.other =
        { portOf s l.other with calls := (portOf s l.other).calls.drop room, notice := none }

/-! ## Trains, orders and impressions -/

/-- A close of this index's train is late for seat `n` (R37): the head of the queue is ACTIVE or ENDING, `n` is the seat of
its plan that names the index, and its Decision Table has that seat ABSENT. -/
def LateFor (s : State) (i : RosterIndex) (n : Nat) : Prop :=
  ∃ (o : Order) (rest : List Order) (p : Plan) (x : Seat) (e : SeatEntry), s.scheduler.queue = o :: rest
    ∧ (o.state = .active ∨ o.state = .ending) ∧ planOf s o.plan = some p ∧ p.seats[n]? = some x ∧ x.index = i
    ∧ (∀ (m : Nat) (y : Seat), m < n → p.seats[m]? = some y → y.index ≠ i)
    ∧ o.decisions[n]? = some e ∧ e.decision = .absent

/-- The state `t` is `s` with the open train `x` of link `l`, which fills `v`, voided with an outcome (R38, R50): the train
state is IDLE, the version is freed and its blocks are back, its record is completed where its slot still holds it,
TRAIN_FAULT is latched, and nothing else differs but a notice that this sends. -/
structure Voided (l : Link) (x : Train) (v : Incoming) (o : Delivery) (s t : State) : Prop where
  trains : t.intake.trains = s.intake.trains.set l none
  directory : t.intake.directory = s.intake.directory.set x.index { entryOf s x.index with incoming := none }
  count : t.store.freeCount = s.store.freeCount + v.version.blocks.length
  blocks : ∀ b : Nat, t.store.freeList.count b = s.store.freeList.count b + v.version.blocks.count b
  stored : t.store.arrival = s.store.arrival ∧ t.store.bytes = s.store.bytes
  record : ∀ r : DeliveryRecord, s.intake.log[logSlot x.record] = some r → r.sequence = x.record →
    t.intake.log =
      s.intake.log.set (logSlot x.record)
        (some
          { r with
            closed := true, closeMark := some s.timeMark, rows := v.version.rows, outcome := some o, late := false
            called := false })
  overwritten : (∀ r : DeliveryRecord, s.intake.log[logSlot x.record] = some r → r.sequence ≠ x.record) →
    t.intake.log = s.intake.log
  sequence : t.intake.nextSequence = s.intake.nextSequence
  fault : holdsKind t.notices.latched .trainFault = true
  notices : ∀ m : Link, portOf t m = { portOf s m with notice := (portOf t m).notice }
  rest : t = { s with intake := t.intake, store := t.store, ports := t.ports, notices := t.notices }

/-- The state `t` is `s` with the open train of link `l`, where it is one of these trains, voided with an outcome as `Voided`
says; with no such train nothing differs. -/
def TrainGone (l : Link) (these : Train → Prop) (o : Delivery) (s t : State) : Prop :=
  (∀ (x : Train) (v : Incoming), trainOf s l = some x → these x → (entryOf s x.index).incoming = some v →
    Voided l x v o s t)
  ∧ ((∀ x : Train, trainOf s l = some x → ¬these x) → t = s)

/-- These blocks return to the free list between two states, and the free count rises by their number (R54). -/
def BlocksReturn (bs : List Nat) (s t : State) : Prop :=
  t.store.freeCount = s.store.freeCount + bs.length
    ∧ ∀ b : Nat, t.store.freeList.count b = s.store.freeList.count b + bs.count b

/-- No block is lost or doubled between two states: what leaves the versions of the directory joins the free list, and the
free count counts it (R51, R54). -/
def BlocksMove (s t : State) : Prop :=
  t.store.freeCount + (listedBlocks t).length = s.store.freeCount + (listedBlocks s).length
    ∧ ∀ b : Nat, t.store.freeList.count b + (listedBlocks t).count b
        = s.store.freeList.count b + (listedBlocks s).count b

/-- A directory entry after one lock on it has been given back (R44, R46): a held version whose last lock it was is freed
where the student is withheld, and otherwise gives way to a WAITING version, which is READY and unlocked then. -/
def entryUnlocked (withheld : Bool) (e : DirEntry) : DirEntry :=
  match e.held, e.incoming with
  | none, _ => e
  | some h, v =>
    if h.lock ≠ 1 then { e with held := some { h with lock := h.lock - 1 } }
    else if withheld then { e with held := none }
    else
      match v with
      | some { version := w, state := .waiting } =>
        { held := some { version := w, state := .ready, lock := 0 }, incoming := none }
      | some { version := _, state := .filling } | none => { e with held := some { h with lock := 0 } }

/-- Giving a lock back on this entry promotes its WAITING version (R44). -/
def promotes (withheld : Bool) (e : DirEntry) : Bool :=
  match e.held, e.incoming with
  | some h, some v => decide (h.lock = 1 ∧ v.state = .waiting) && !withheld
  | _, _ => false

/-- The state `t` is `s` with the order `o` on plan `p` removed, as it stands before the low-water test (R79 steps 1 to 5,
R81): every index whose lock mark is set gives its lock back, each in turn; the pending uses of every index the plan names
fall; the order's calls and the order itself leave; and under free-after-use the held versions of the plan's indices
without a use are freed. A version freed leaves the Arrival List, and one promoted joins it at the back. -/
structure Removed (o : Order) (p : Plan) (s t : State) : Prop where
  records : ∀ i : RosterIndex, recordOf t i =
    { recordOf s i with uses := (recordOf s i).uses - p.seats.countP fun x => decide (x.index = i) }
  entries : ∀ i : RosterIndex,
    let unlocked := if orderLocks s o i then entryUnlocked (recordOf s i).withheld (entryOf s i) else entryOf s i
    entryOf t i =
      if s.tables.settings.freeAfterUse = true ∧ (∃ x ∈ p.seats, x.index = i) ∧ (recordOf t i).uses = 0 then
        { unlocked with held := none }
      else unlocked
  arrival :
    let promoted := (p.seats.map Seat.index).filter fun i =>
      orderLocks s o i && promotes (recordOf s i).withheld (entryOf s i)
    let freed (i : RosterIndex) : Bool := (entryOf s i).held.isSome && (entryOf t i).held.isNone
    t.store.arrival =
      (s.store.arrival.filter fun i => !freed i && !decide (i ∈ promoted)) ++ promoted.filter fun i => !freed i
  blocks : BlocksMove s t
  queue : t.scheduler.queue = s.scheduler.queue.filter fun x => decide (x.tag ≠ o.tag)
  calls : t.seats.calls = s.seats.calls.filter fun c => decide (c.tag ≠ o.tag)
  rest : t =
    { s with
      tables.roster := t.tables.roster
      intake.directory := t.intake.directory
      store := { t.store with bytes := s.store.bytes }
      scheduler.queue := t.scheduler.queue
      seats.calls := t.seats.calls }

/-- The state `t` is `s` at the beginning of an impression of its head `o`, on plan `p`, before the lines already reached
are taken (R70, R71, R72, R83, R129, R134): the order is ACTIVE, a later copy has its PLACED entries of withheld students
switched to WITHHELD, a first one has its seat lines computed from the start line; the context is fresh, the next band to
render is 0 and the blank lines take the plan's width. -/
def Begins (o : Order) (rest : List Order) (p : Plan) (s t : State) : Prop :=
  let x := s.tables.settings
  let other := s.scheduler.prevEnd + BitVec.ofNat 48 x.pageGap
  let ahead := (other - s.press.lineCount).toNat
  let start := if x.bandLead < ahead ∧ ahead < 2 ^ 47 then other else s.press.lineCount + BitVec.ofNat 48 x.bandLead
  ∃ head : Order,
    head = { o with
      state := .active, linesFixed := true, decisions := head.decisions, seatLines := head.seatLines }
    ∧ (o.done = 0 → head.decisions = o.decisions)
    ∧ (0 < o.done → o.decisions.length = p.seats.length →
        head.decisions.length = p.seats.length
        ∧ ∀ (n : Nat) (y : Seat) (e : SeatEntry), p.seats[n]? = some y → o.decisions[n]? = some e →
          head.decisions[n]? = some
            (if e.decision = .placed ∧ (recordOf s y.index).withheld = true then { e with decision := .withheld }
            else e))
    ∧ (o.linesFixed = true → head.seatLines = o.seatLines)
    ∧ (o.linesFixed = false → head.seatLines.length = p.seats.length
        ∧ ∀ (n : Nat) (y : Seat) (r : Row), p.seats[n]? = some y → p.rows[y.row]? = some r →
          let band := r.top / x.bandHeight
          let freeze := start + BitVec.ofNat 48 (band * x.bandHeight) - BitVec.ofNat 48 x.bandLead
          head.seatLines[n]? = some
            { firstBand := band, freezeLine := freeze
              callLine := if x.callLead = 0 then none else some (freeze - BitVec.ofNat 48 x.callLead)
              callTaken := false })
    ∧ t = { s with
        scheduler.queue := head :: rest
        scheduler.impression := some
          { tag := o.tag, plan := o.plan, copy := o.done + 1
            snapshot :=
              { bandHeight := x.bandHeight, bandLead := x.bandLead, callLead := x.callLead, pageGap := x.pageGap }
            start := start, endLine := start + BitVec.ofNat 48 p.height - 1, first := decide (o.done = 0)
            nextFreeze := 0, lateSeats := [], clampedSet := [], marginSet := [], captionSet := [], clamped := 0
            margins := 0, truncated := 0, missing := 0, filled := 0, heldBands := 0, withholdPending := false }
        renderer.nextBand := 0
        press.blankWidth := p.width
        press.mode := none }

/-! ## Checks and bytes -/

/-- An outcome is that of the first check to fail of a list of checks made in order, and TAKEN when none fails. -/
def FirstToFail (o : ControlOutcome) : List (Prop × ControlOutcome) → Prop
  | [] => o = .taken
  | (fails, cause) :: rest => (fails → o = cause) ∧ (¬fails → FirstToFail o rest)

/-- A 48-bit field, high byte first (R188). -/
def be48 (bs : List Byte) (n : Nat) : Nat := be16 bs n * 4294967296 + be32 bs (n + 2)

/-- The staged bytes of roster entries: student id, caption length and caption codes, one entry after another
(section 12.4). -/
def rosterBytes (es : List RosterEntry) : List Byte :=
  es.flatMap fun e =>
    [e.studentId.extractLsb' 24 8, e.studentId.extractLsb' 16 8, e.studentId.extractLsb' 8 8,
      e.studentId.extractLsb' 0 8, BitVec.ofNat 8 e.caption.length] ++ e.caption

/-! ## What a conclusion leaves -/

/-- The state `t` is `s` with a control concluded by this outcome and, for one addressed to the unit on an open link,
its reply waiting: CONTROL_ERROR, HALL_RECEIVED and the Last Control record are written, the reply carries the Unit
Status as it stands in `t`, and nothing else differs (R163, R164). -/
def Concluded (l : Link) (code : Byte) (w : Wire) (o : ControlOutcome) (data : List Byte) (poisoned : Bool)
    (s t : State) : Prop :=
  t =
    setPort l
      { portOf s l with
        reply :=
          if w.address ≠ Config.hallAddress ∧ (portOf s l).state = .up ∧ (portOf s l).quiet = false then
            some { tag := w.tag, poisoned := poisoned, payload := [unitStatus t, code, outcomeByte o, 0] ++ data }
          else (portOf s l).reply }
      { s with
        control.controlError := decide (o ≠ .taken)
        control.hallReceived := decide (w.address = Config.hallAddress)
        control.last := some { code := code, tag := w.tag, link := l, outcome := o } }

/-- The same for the conclusions of REPORT STATUS and REPORT LAST CONTROL, which change neither field and do not write
the record (R163). -/
def Reported (l : Link) (code : Byte) (w : Wire) (o : ControlOutcome) (data : List Byte) (poisoned : Bool)
    (s t : State) : Prop :=
  t =
    setPort l
      { portOf s l with
        reply :=
          if w.address ≠ Config.hallAddress ∧ (portOf s l).state = .up ∧ (portOf s l).quiet = false then
            some { tag := w.tag, poisoned := poisoned, payload := [unitStatus t, code, outcomeByte o, 0] ++ data }
          else (portOf s l).reply } s

end Sys2Proof.Machine
end

