-- ==== Sys2Proof/Certificates/Slice0/Obligations.lean ====
section
/-!
DEFINITION. The statements for the provers. Each docstring names the rules of the manual it speaks of, and says where a
clause is a choice of the model's.
-/

open Sys2Proof Sys2Proof.Machine

/-! ## The queue of commands -/

/-- A step takes the command at the front of the queue on the state with the queue's rest. That a step on an empty queue
leaves the part as it stands is the model's choice (log entry 1). -/
def Obligations.StepTakesTheFrontCommand : Prop :=
  (∀ (s : State) (c : Instr) (rest : List Instr),
    step { s with pending := c :: rest } = exec c { s with pending := rest })
  ∧ ∀ s : State, step { s with pending := [] } = .next { s with pending := [] }

/-- No command changes the straps read but a power-on reset (R145: the value read stands until the next power-on reset),
and the line count L rises by one for an answered line sync, modulo 2^48, is 0 after a power-on reset, and stands still
under every other command (R133). That no command changes the queue of commands waiting is the model's own (log entries 1
and 9; log entry 8 for a power-on reset). -/
def Obligations.CommandsLeaveQueueStrapsAndLineCount : Prop :=
  (∀ (c : Instr) (s t : State), exec c s = .next t →
    t.pending = s.pending ∧ ((∀ a, c ≠ .powerOnReset a) → t.straps = s.straps))
  ∧ ∀ (c : Instr) (s t : State), exec c s = .next t →
    t.press.lineCount = s.press.lineCount
      ∨ (c = .lineSync ∧ t.press.lineCount = s.press.lineCount + 1)
      ∨ ∃ a, c = .powerOnReset a ∧ t.press.lineCount = 0

/-! ## Laws that every step keeps -/

/-- Every step keeps the block law (R51): the free count is the number of free blocks, and the free list and the block
lists of all directory versions hold every block 0..8191 exactly once between them. -/
def Obligations.BlockLawKept : Prop := ∀ s t : State, BlockLaw s → step s = .next t → BlockLaw t

/-- Every step keeps the law of the Arrival List (R55): it holds every index with a held version exactly once, and no
other. -/
def Obligations.ArrivalLawKept : Prop := ∀ s t : State, ArrivalLaw s → step s = .next t → ArrivalLaw t

/-- Every step keeps the law of the open trains (R23): each fills a FILLING version of its index's entry, the two links'
trains have different indices, and every FILLING version is filled by an open train. -/
def Obligations.TrainLawKept : Prop := ∀ s t : State, TrainLaw s → step s = .next t → TrainLaw t

/-- Every step keeps the Order Queue within 16 orders and the Call List and each link's call queue within 64 calls (R65,
R88, R158), and the totals of rows and seats over all LOADED plans (R8, R9). It also keeps the two forms that the model
chooses for tile memory: the free list in ascending order, so that its front is the lowest-numbered blocks that R53 reserves
(log entry 21), and the bytes in canonical form (log entry 2). -/
def Obligations.FormsPlacesAndTotalsKept : Prop :=
  (∀ s t : State, FreeListAscends s → step s = .next t → FreeListAscends t)
  ∧ (∀ s t : State, Memory.wf s.store.bytes = true → step s = .next t → Memory.wf t.store.bytes = true)
  ∧ (∀ s t : State, WithinPlaces s → step s = .next t → WithinPlaces t)
  ∧ ∀ s t : State, TotalsLaw s → step s = .next t → TotalsLaw t

/-- Every step keeps the order of the queue (R65, R69, R10): one ACTIVE or ENDING head while an impression is in progress,
behind it the run of QUEUED rush orders, then a SUSPENDED order at most, then the QUEUED ordinary orders, with different
tags and LOADED plans. -/
def Obligations.QueueLawKept : Prop := ∀ s t : State, QueueLaw s → step s = .next t → QueueLaw t

/-- Every step keeps student ids unique among LISTED records (R11) and the pending uses of every index equal to the number of
queued orders whose plan names it (R12). -/
def Obligations.RosterLawKept : Prop :=
  ∀ s t : State, QueueLaw s → RosterLaw s → step s = .next t → RosterLaw t

/-- Every step keeps the lock count of every held version equal to the number of queued orders whose Decision Table locks it
(R43, R66), a WAITING version beside a locked held version only (R42), a DAMAGED version unlocked, and a withheld student
without an incoming version or an unlocked held one (R45, R46). -/
def Obligations.LockLawKept : Prop :=
  ∀ s t : State, QueueLaw s → RosterLaw s → LockLaw s → step s = .next t → LockLaw t

/-- The laws hold of the part right after reset. -/
def Obligations.LawsHoldAtReset : Prop :=
  BlockLaw State.reset ∧ ArrivalLaw State.reset ∧ TrainLaw State.reset ∧ FreeListAscends State.reset
    ∧ Memory.wf State.reset.store.bytes = true ∧ WithinPlaces State.reset ∧ TotalsLaw State.reset
    ∧ QueueLaw State.reset ∧ RosterLaw State.reset ∧ LockLaw State.reset

/-! ## Parcels and reset -/

/-- A well-formed command that is a parcel reads back from the bytes that carry it (section 12.1): no field of the header,
no payload byte and no bit of the check is dropped. -/
def Obligations.ParcelsReadBackAsSent : Prop :=
  ∀ (i : Instr) (l : Link) (kind code : Byte) (w : Wire), i.wellFormed = true →
    parcelParts i = some (l, kind, code, w) →
    ∃ bs, encodeParcel i = some bs ∧ bs.length = 10 + w.payload.length ∧ decodeParcel l bs = some i

/-- What a power-on reset leaves (the reset values stated in every chapter). That the commands waiting, the bytes of tile
memory and the model's count of renders stand is the model's choice (log entry 8). -/
def Obligations.PowerOnReset : Prop :=
  ∀ (a : BitVec 4) (s : State), ∃ t : State, exec (.powerOnReset a) s = .next t
    ∧ t.straps = a
    ∧ ((∀ p : Fin 8, planOf t p = none) ∧ t.tables.planRows = 0 ∧ t.tables.planSeats = 0
      ∧ (∀ i : RosterIndex, recordOf t i =
          { listed := false, studentId := 0, caption := [], withheld := false, uses := 0 })
      ∧ (∀ n : Fin 16, t.tables.tones[n] = none) ∧ t.tables.glyphs = none
      ∧ t.tables.settings =
          { bandHeight := 32, bandLead := 256, callLead := 4096, pageGap := 32, trainGap := 10, holdLimit := 0,
            lowWater := 512, freeAfterUse := false, reportLink := .a, callLink := .a })
    ∧ ((∀ l : Link, trainOf t l = none) ∧ (∀ i : RosterIndex, entryOf t i = { held := none, incoming := none })
      ∧ (∀ q : Fin 256, t.intake.log[q] = none) ∧ t.intake.nextSequence = 0)
    ∧ (t.store.freeList = List.range 8192 ∧ t.store.freeCount = 8192 ∧ t.store.arrival = [])
    ∧ (t.scheduler.queue = [] ∧ t.scheduler.impression = none ∧ t.scheduler.prevEnd = 0
      ∧ (∀ q : Fin 64, t.scheduler.log[q] = none) ∧ t.scheduler.nextSequence = 0)
    ∧ (t.seats.calls = [] ∧ t.seats.dropped = 0)
    ∧ ((∀ b : Fin 4, t.renderer.buffers[b] = .free) ∧ t.renderer.current = none)
    ∧ (t.press.lineCount = 0 ∧ t.press.hold = .clear ∧ t.press.blankWidth = 4096)
    ∧ (∀ l : Link, (portOf t l).state = .down ∧ (portOf t l).threshold = 4096 ∧ (portOf t l).quiet = false
      ∧ (portOf t l).counters =
          { oversize := 0, checkError := 0, unknownKind := 0, misaddressed := 0, stray := 0, restarts := 0 }
      ∧ (portOf t l).exchange = none ∧ (portOf t l).reply = none ∧ (portOf t l).calls = []
      ∧ (portOf t l).notice = none ∧ (portOf t l).heldBack = [] ∧ (portOf t l).sending = []
      ∧ slotOf t l = { staging := none, superseded := 0 })
    ∧ (t.control.controlError = false ∧ t.control.hallReceived = false ∧ t.control.last = none)
    ∧ (t.notices.latched = 0 ∧ t.notices.enabled = 0 ∧ t.notices.inhibit = false)
    ∧ t.timeMark = 0 ∧ unitStatus t = 0
    ∧ (t.pending = s.pending ∧ t.store.bytes = s.store.bytes ∧ t.renderer.works = s.renderer.works)

/-! ## The Press Port -/

/-- A line sync that finds no impression in progress, or a line count outside the impression, is answered with a blank line
of the kept page width (R134). With no impression nothing but the pixel bus and the line count changes; outside the
impression the new line count may freeze bands and take call points, which leaves the tables, the logs, the bytes of tile
memory, the trains and the links' state as they were. -/
def Obligations.LineOutsideAnImpressionIsBlank : Prop :=
  (∀ s : State, s.press.hold = .clear → s.scheduler.impression = none →
    exec .lineSync s =
      .next { s with
        press.pixelBus := List.replicate s.press.blankWidth { r := 255, g := 255, b := 255 }
        press.lineCount := s.press.lineCount + 1 })
  ∧ ∀ (s : State) (c : Impression) (p : Plan), s.press.hold = .clear → s.scheduler.impression = some c →
    planOf s c.plan = some p → p.height ≤ (s.press.lineCount - c.start).toNat →
    ∃ t : State, exec .lineSync s = .next t
      ∧ t.press =
          { s.press with
            pixelBus := List.replicate s.press.blankWidth { r := 255, g := 255, b := 255 }
            lineCount := s.press.lineCount + 1 }
      ∧ t.tables = s.tables ∧ t.store = s.store ∧ t.control = s.control ∧ t.timeMark = s.timeMark
      ∧ t.intake.trains = s.intake.trains ∧ t.intake.log = s.intake.log ∧ t.scheduler.log = s.scheduler.log
      ∧ t.scheduler.prevEnd = s.scheduler.prevEnd
      ∧ ∀ l : Link, (portOf t l).state = (portOf s l).state ∧ (portOf t l).reply = (portOf s l).reply

/-- A page line of a band whose buffer is COMPLETE is emitted from that buffer, at the band's first line by the underrun
test and later by the mode that line gave it (R135, R137): the pixel bus carries buffer line y − k·Hb, L rises by 1, and the
band's last line frees the buffer and ends the band's mode. Tables, bytes of tile memory, trains and control state stay. That
a render waiting for the buffer starts at its own step and not at once is the model's choice (log entry 5). -/
def Obligations.CompleteBandIsEmittedFromItsBuffer : Prop :=
  ∀ (s : State) (c : Impression) (p : Plan) (y : Nat) (i : Fin 4) (lines : List (List Pixel)),
    LineDue s c p y → s.press.hold = .clear → 0 < c.snapshot.bandHeight →
    HoldsBand s (y / c.snapshot.bandHeight) i lines →
    (y % c.snapshot.bandHeight = 0 ∨ s.press.mode = some .buffer) →
    ∃ t : State, exec .lineSync s = .next t
      ∧ t.press.pixelBus = lines.getD (y % c.snapshot.bandHeight) []
      ∧ t.press.lineCount = s.press.lineCount + 1 ∧ t.press.hold = .clear
      ∧ (if y % c.snapshot.bandHeight + 1 = c.snapshot.bandHeight ∨ y + 1 = p.height then
          t.press.mode = none ∧ t.renderer.buffers[i] = .free
        else
          t.press.mode = some .buffer ∧ t.renderer.buffers[i] = .complete (y / c.snapshot.bandHeight) lines
            ∧ t.tables = s.tables ∧ t.store = s.store)
      ∧ t.store.bytes = s.store.bytes ∧ t.intake.trains = s.intake.trains ∧ t.control = s.control
      ∧ t.timeMark = s.timeMark

/-- Under FILL policy the first line of a band whose buffer is not COMPLETE is answered at once with a line of the plan's
background colour (R138): L rises by 1, UNDERRUN is latched, the band's mode becomes FILL unless this line ends it, the
band's render, if it is in progress, is abandoned and its buffer freed, and, while the impression goes on, its filled bands
count rises by 1 and the next band to render is past the band. Every further line of a band in mode FILL is emitted in
background colour too, the last one ending the mode, and counts no band (R135, R138). That the renderer stays free until the
next render's own step is the model's choice (log entry 5), and so is that UNDERRUN is latched before the new L is offered
(log entry 30). -/
def Obligations.UnderrunIsFilled : Prop :=
  ∀ (s : State) (c : Impression) (p : Plan) (y : Nat), LineDue s c p y → s.press.hold = .clear →
    0 < c.snapshot.bandHeight →
    let k := y / c.snapshot.bandHeight
    let filled (t : State) : Prop :=
      t.press =
        { s.press with
          pixelBus := List.replicate p.width p.background
          lineCount := s.press.lineCount + 1
          mode :=
            if y % c.snapshot.bandHeight + 1 = c.snapshot.bandHeight ∨ y + 1 = p.height then none else some .fill
          blankWidth := t.press.blankWidth }
      ∧ (y + 1 < p.height → t.press.blankWidth = s.press.blankWidth ∧ t.tables = s.tables ∧ t.store = s.store)
      ∧ t.store.bytes = s.store.bytes ∧ t.intake.trains = s.intake.trains ∧ t.control = s.control
      ∧ t.timeMark = s.timeMark
    (y % c.snapshot.bandHeight = 0 → NotComplete s k → s.tables.settings.holdLimit = 0 →
      ∃ t : State, exec .lineSync s = .next t ∧ filled t
        ∧ holdsKind t.notices.latched .underrun = true
        ∧ (∀ g : Render, s.renderer.current = some g → g.band = k →
            t.renderer.current = none ∧ t.renderer.buffers[g.buffer] = .free)
        ∧ (y + 1 < p.height →
            (∃ d : Impression, t.scheduler.impression = some d ∧ d.filled = c.filled + 1 ∧ d.heldBands = c.heldBands)
            ∧ k < t.renderer.nextBand))
    ∧ (y % c.snapshot.bandHeight ≠ 0 → s.press.mode = some .fill →
      ∃ r t : State, exec .renderStart s = .next r ∧ exec .lineSync s = .next t ∧ filled t
        ∧ (y + 1 < p.height →
            (∃ d : Impression, t.scheduler.impression = some d ∧ d.filled = c.filled ∧ d.heldBands = c.heldBands)
            ∧ holdsKind t.notices.latched .underrun = holdsKind s.notices.latched .underrun
            ∧ (NotComplete s k → t.renderer = r.renderer)))

/-- Under HOLD policy the same line sync is not answered: the port enters HOLDING for the band with its timer at zero, and
nothing else changes but a render that was due, which starts (R139). A line sync that arrives while the port is HOLDING
leaves all of it as it is. That a due render starts at the line sync is the model's choice (log entry 5). -/
def Obligations.UnderrunIsHeld : Prop :=
  (∀ (s : State) (c : Impression) (p : Plan) (y : Nat), LineDue s c p y → s.press.hold = .clear →
    y % c.snapshot.bandHeight = 0 → NotComplete s (y / c.snapshot.bandHeight) → 0 < s.tables.settings.holdLimit →
    ∃ r t : State, exec .renderStart s = .next r ∧ exec .lineSync s = .next t
      ∧ t = { s with
          renderer := r.renderer
          press := { s.press with hold := .holding (y / c.snapshot.bandHeight) 0 } }
      ∧ holding t = true)
  ∧ ∀ (s : State) (k n : Nat), s.press.hold = .holding k n → exec .lineSync s = exec .renderStart s

/-- The line sync that the port awaits is answered with the held band's first line in the mode of the verdict, and the port
is CLEAR again, with no underrun test (R142). -/
def Obligations.ReissuedLineIsAnsweredByTheVerdict : Prop :=
  ∀ (s : State) (c : Impression) (p : Plan) (k : Nat) (m : BandMode), 0 < c.snapshot.bandHeight →
    LineDue s c p (k * c.snapshot.bandHeight) → s.press.hold = .awaiting k m →
    ∃ t : State, exec .lineSync s = .next t
      ∧ (m = .fill → t.press.pixelBus = List.replicate p.width p.background)
      ∧ (∀ (i : Fin 4) (lines : List (List Pixel)), m = .buffer → HoldsBand s k i lines →
          t.press.pixelBus = lines.getD 0 [])
      ∧ t.press.lineCount = s.press.lineCount + 1 ∧ t.press.hold = .clear
      ∧ (1 < c.snapshot.bandHeight → k * c.snapshot.bandHeight + 1 < p.height → t.press.mode = some m)
      ∧ t.store.bytes = s.store.bytes ∧ t.intake.trains = s.intake.trains ∧ t.control = s.control
      ∧ t.timeMark = s.timeMark

/-- The end line of an impression, however its band is emitted, ends it (R75, R76, R77, R78, R79, R82). In `r` copies done has
risen by 1, the Page Log record stands in the next slot, written from the impression's context, prevEnd follows the end
line, the context is released, and PAGE_DEFICIENT is latched for an ABSENT seat or a filled band. In `q` the order has met
its fate: it has ended and been removed as `Removed` says, with ORDER_DONE latched after the low-water test; or it is
SUSPENDED behind the run of QUEUED rush orders; or it stays at the head. Then the head of a queue that is not empty begins
its next impression as `Begins` says, a later copy with the switch of R72, and takes the lines already reached. That the
next band to render is then 0, no render starting in the same step, is the model's choice (log entry 5). -/
def Obligations.LastLineEndsTheImpression : Prop :=
  ∀ (s : State) (c d : Impression) (p : Plan) (y : Nat) (o : Order) (rest : List Order),
    LineDue s c p y → y + 1 = p.height → Emits s c d y → s.scheduler.queue = o :: rest →
    (∀ x ∈ rest, x.tag ≠ o.tag) →
    let absent := o.decisions.countP fun e => decide (e.decision = .absent)
    let rushes := rest.takeWhile fun x => decide (x.state = .queued) && x.rush
    let others := rest.dropWhile fun x => decide (x.state = .queued) && x.rush
    let ends : Prop := o.done + 1 = o.copies ∨ o.state = .ending
    let suspends : Prop := ¬ends ∧ o.rush = false ∧ rushes ≠ []
    ∃ r q t : State, exec .lineSync s = .next t
      ∧ r.scheduler =
          { queue := { o with done := o.done + 1 } :: rest, impression := none, prevEnd := c.endLine + 1
            log := s.scheduler.log.set (Fin.ofNat 64 s.scheduler.nextSequence.toNat)
              (some
                { sequence := s.scheduler.nextSequence, tag := c.tag, plan := c.plan, copy := c.copy, start := c.start,
                  endLine := c.endLine
                  placed := o.decisions.countP fun e => decide (e.decision = .placed)
                  absent := absent
                  withheld := o.decisions.countP fun e => decide (e.decision = .withheld)
                  late := c.lateSeats.length, clamped := c.clamped, margins := c.margins, truncated := c.truncated,
                  missing := c.missing, filled := d.filled, heldBands := c.heldBands,
                  withholdPending := c.withholdPending, mark := s.timeMark })
            nextSequence := s.scheduler.nextSequence + 1 }
      ∧ (holdsKind r.notices.latched .pageDeficient = true ↔
          holdsKind s.notices.latched .pageDeficient = true ∨ 0 < absent + d.filled)
      ∧ r.press.lineCount = s.press.lineCount + 1 ∧ r.press.hold = .clear
      ∧ r = { s with
          scheduler := r.scheduler, press := r.press, renderer := r.renderer, ports := r.ports, notices := r.notices }
      ∧ (ends → q.scheduler = { r.scheduler with queue := rest } ∧ holdsKind q.notices.latched .orderDone = true
          ∧ (o.plan = c.plan → (p.seats.map Seat.index).Nodup →
              ∃ v : State, Removed { o with done := o.done + 1 } p r v ∧ q = latchKind .orderDone (lowWaterTest v)))
      ∧ (suspends →
          q = { r with
            scheduler.queue := rushes ++ { o with done := o.done + 1, state := .suspended } :: others })
      ∧ (¬ends → ¬suspends → q = r)
      ∧ (q.scheduler.queue = [] → t = q)
      ∧ (∀ (h : Order) (hs : List Order) (m : Plan), q.scheduler.queue = h :: hs → planOf q h.plan = some m →
          ∃ b : State, Begins h hs m q b
            ∧ t = takeReached
                ((m.height + s.tables.settings.bandHeight - 1) / s.tables.settings.bandHeight) b)
      ∧ t.store.bytes = s.store.bytes ∧ t.intake.trains = s.intake.trains ∧ t.control = s.control

/-- One millisecond raises the time mark and every millisecond timer that runs, and changes nothing else: an expiry is a
command of its own (R186; log entry 4). -/
def Obligations.TickCountsTheMilliseconds : Prop :=
  ∀ s : State, ∃ t : State, exec .timeTick s = .next t
    ∧ t.timeMark = s.timeMark + 1
    ∧ (∀ l : Link,
        trainOf t l = (trainOf s l).map (fun x => { x with gapTimer := x.gapTimer + 1 })
        ∧ slotOf t l =
            { slotOf s l with
              staging := (slotOf s l).staging.map fun g => { g with gapTimer := g.gapTimer + 1 } }
        ∧ portOf t l =
            { portOf s l with
              sensingTimer :=
                if (portOf s l).state = .sensing then (portOf s l).sensingTimer + 1 else (portOf s l).sensingTimer
              exchange := (portOf s l).exchange.map fun x => { x with timer := x.timer + 1 } })
    ∧ (∀ k n, s.press.hold = .holding k n → t.press = { s.press with hold := .holding k (n + 1) })
    ∧ ((∀ k n, s.press.hold ≠ .holding k n) → t.press = s.press)
    ∧ t = { s with
        timeMark := t.timeMark
        intake.trains := t.intake.trains
        control.slots := t.control.slots
        ports := t.ports
        press := t.press }

/-! ## The links -/

/-- After 1 ms in SENSING a link enters EXCHANGE with round 0, its ability page and an oversize threshold of 4096 (R144,
R147); an exchange whose progress timer reaches 50 ms is dropped, the link returns to SENSING and its restart counter rises
(R152). That this cuts off a page under way is the model's choice (log entry 12). A timer that has not reached its limit
changes nothing (log entry 4). -/
def Obligations.LinkTimersMoveTheLink : Prop :=
  ∀ (s : State) (l : Link),
    (((portOf s l).state = .sensing ∧ 1 ≤ (portOf s l).sensingTimer) →
      exec (.sensingTimeout l) s =
        .next (setPort l
          { portOf s l with
            state := .exchange, sensingTimer := 0, threshold := 4096
            exchange := some
              { round := 0, previous := none, takenIn := none, lastToggle := none, page := .ability false,
                timer := 0 } } s))
    ∧ (((portOf s l).state ≠ .sensing ∨ (portOf s l).sensingTimer = 0) → exec (.sensingTimeout l) s = .next s)
    ∧ (∀ x : Exchange, (portOf s l).state = .exchange → (portOf s l).exchange = some x →
        (50 ≤ x.timer →
          exec (.exchangeTimeout l) s =
            .next (setPort l
              { portOf s l with
                state := .sensing, sensingTimer := 0, exchange := none, sending := []
                counters :=
                  { (portOf s l).counters with
                    restarts :=
                      if (portOf s l).counters.restarts = 65535 then 65535
                      else (portOf s l).counters.restarts + 1 } } s))
        ∧ (x.timer < 50 → exec (.exchangeTimeout l) s = .next s))
    ∧ ((portOf s l).state ≠ .exchange → exec (.exchangeTimeout l) s = .next s)

/-- A signal that becomes present takes a DOWN link of a unit with an address to SENSING (R144); with straps of 15 the link
stays DOWN (R145), and in any other state only the presence is noted. A link that loses its signal goes DOWN (R146, R41, R160): its exchange, its waiting reply, the parcels held back, the
parcel being sent and its table train are gone; its tile train is voided with its record left open and its blocks
returned; its calls move to an open other link as far as there is room, and its notice with them, as `Rerouted` says; LINK_CHANGE is latched unless it was DOWN. Its
counters, threshold and quiet state, and the other link's train and table train, stay. -/
def Obligations.SignalComesAndGoes : Prop :=
  (∀ (s : State) (l : Link),
    (((portOf s l).state = .down ∧ s.straps ≠ 15) →
      exec (.signalPresent l) s =
        .next (setPort l { portOf s l with signal := true, state := .sensing, sensingTimer := 0 } s))
    ∧ (((portOf s l).state ≠ .down ∨ s.straps = 15) →
      exec (.signalPresent l) s = .next (setPort l { portOf s l with signal := true } s)))
  ∧ ∀ (s : State) (l : Link), ∃ t : State, exec (.signalLost l) s = .next t
    ∧ portOf t l =
        { portOf s l with
          state := .down, signal := false, sensingTimer := 0, exchange := none, sending := [], reply := none
          heldBack := [], calls := (portOf t l).calls, notice := (portOf t l).notice }
    ∧ portOf t l.other =
        { portOf s l.other with calls := (portOf t l.other).calls, notice := (portOf t l.other).notice }
    ∧ (∃ u v : State, (∀ m : Link, (portOf u m).calls = (portOf s m).calls
          ∧ (trainOf s l = none → (portOf u m).notice = (portOf s m).notice))
        ∧ (OpenLink u l.other ↔ OpenLink s l.other) ∧ ¬OpenLink u l ∧ Rerouted u v
        ∧ t = if (portOf s l).state = .down then v else latchKind .linkChange v)
    ∧ (if (portOf s l.other).state = .up ∧ (portOf s l.other).quiet = false then
        (portOf t l.other).calls =
          (portOf s l.other).calls ++ (portOf s l).calls.take (64 - (portOf s l.other).calls.length)
        ∧ (portOf t l).calls = (portOf s l).calls.drop (64 - (portOf s l.other).calls.length)
      else (portOf t l).calls = (portOf s l).calls ∧ (portOf t l.other).calls = (portOf s l.other).calls)
    ∧ trainOf t l = none ∧ trainOf t l.other = trainOf s l.other
    ∧ slotOf t l = { slotOf s l with staging := none } ∧ slotOf t l.other = slotOf s l.other
    ∧ (∀ (x : Train) (v : Incoming), trainOf s l = some x → (entryOf s x.index).incoming = some v →
        (entryOf t x.index).incoming = none
        ∧ t.store.freeCount = s.store.freeCount + v.version.blocks.length
        ∧ holdsKind t.notices.latched .trainFault = true
        ∧ ∀ r : DeliveryRecord, s.intake.log[logSlot x.record] = some r → r.sequence = x.record →
            t.intake.log[logSlot x.record] = some { r with rows := v.version.rows })
    ∧ (trainOf s l = none → t.intake = s.intake ∧ t.store = s.store)
    ∧ ((portOf s l).state ≠ .down → holdsKind t.notices.latched .linkChange = true)
    ∧ ((portOf s l).state = .down → trainOf s l = none → t.notices = s.notices)
    ∧ t = { s with ports := t.ports, intake := t.intake, store := t.store, control.slots := t.control.slots,
                   notices := t.notices }
    ∧ t.store.bytes = s.store.bytes ∧ t.store.arrival = s.store.arrival

/-- The server's ability page, arrived twice running in round 0, is taken in (R148, R150): a role of UNIT or a revision other
than 1 or 2 sends the link to FAULT with its exchange dropped and LINK_CHANGE latched, and its calls and notice move to the
other link where that is open, as `Rerouted` says (R153, R160); otherwise its payload limit, clamped to 256..4096, becomes
the oversize threshold and the unit's page acknowledges it. That the fault cuts off a page under way is the model's choice
(log entry 12), and that the page last seen is forgotten at the taking-in is DEDUCED (log entry 17). -/
def Obligations.AbilityPageIsTakenIn : Prop :=
  ∀ (s : State) (l : Link) (code : Byte) (w : Wire) (x : Exchange), PageArrives s l code w x → x.round = 0 →
    x.takenIn = none → byteAt w.payload 0 = 0 → x.previous = some (w.payload.set 7 0) →
    ((byteAt w.payload 1 = 1 ∨ byteAt w.payload 3 = 0 ∨ 2 < byteAt w.payload 3) →
      ∃ t : State, exec (.exchangePage l code w) s = .next t
        ∧ Rerouted
            (latchKind .linkChange
              (setPort l { portOf s l with state := .fault, exchange := none, sending := [] } s)) t
        ∧ portOf t l =
            { portOf s l with
              state := .fault, exchange := none, sending := [], calls := (portOf t l).calls
              notice := (portOf t l).notice }
        ∧ portOf t l.other =
            { portOf s l.other with calls := (portOf t l.other).calls, notice := (portOf t l.other).notice }
        ∧ holdsKind t.notices.latched .linkChange = true
        ∧ t = { s with ports := t.ports, notices := t.notices })
    ∧ ((byteAt w.payload 1 ≠ 1 ∧ 1 ≤ byteAt w.payload 3 ∧ byteAt w.payload 3 ≤ 2) →
      exec (.exchangePage l code w) s =
        .next (setPort l
          { portOf s l with
            threshold := min (max (be16 w.payload 4) 256) 4096
            exchange := some
              { x with previous := none, takenIn := some (w.payload.set 7 0), page := .ability true, timer := 0 } } s))

/-- A server's next page, arrived twice running in a later round, is taken in and answered (R148, R151): the answer's toggle
alternates from the unit's previous answer and is 0 for the first. A TRAIN GAP message is adopted with its argument clamped
to 1..100, and an open train on either link that is past the new gap is voided at once (R22); a PAYLOAD LIMIT message, its
argument clamped to 256..4096, becomes the link's oversize threshold; both are repeated with comply set. A message of any
other code is answered with comply clear, its code and argument 0, and a page without a message with none. That the page
last seen is forgotten at the taking-in is DEDUCED (log entry 17). -/
def Obligations.NextPageIsAnswered : Prop :=
  ∀ (s : State) (l : Link) (code : Byte) (w : Wire) (x : Exchange), PageArrives s l code w x → 1 ≤ x.round →
    x.takenIn = none → byteAt w.payload 0 ≠ 0 → x.lastToggle ≠ some ((byteAt w.payload 1).testBit 4) →
    let page := ((w.payload.set 3 0).set 6 0).set 7 0
    x.previous = some page →
    let toggle : Bool :=
      match x.page with
      | .ability _ => false
      | .answer _ _ g _ _ => !g
    let answered (answer : UnitPage) : Exchange :=
      { x with previous := none, takenIn := some page, page := answer, timer := 0 }
    let message := (byteAt w.payload 1).testBit 2
    let gap := min (max (be16 w.payload 4) 1) 100
    let limit := min (max (be16 w.payload 4) 256) 4096
    (message = true → byteAt w.payload 2 = 1 →
      ∃ t : State, exec (.exchangePage l code w) s = .next t
        ∧ t.tables = { s.tables with settings := { s.tables.settings with trainGap := gap } }
        ∧ (portOf t l).exchange = some (answered (.answer true true toggle 1 gap))
        ∧ (portOf t l).threshold = (portOf s l).threshold
        ∧ (∀ (m : Link) (u : Train), trainOf s m = some u →
            trainOf t m = if gap ≤ u.gapTimer then none else some u)
        ∧ (∀ m : Link, trainOf s m = none → trainOf t m = none)
        ∧ (∀ (m : Link) (g : Staging), (slotOf s m).staging = some g →
            (slotOf t m).staging = if gap ≤ g.gapTimer then none else some g)
        ∧ t.scheduler = s.scheduler ∧ t.renderer = s.renderer ∧ t.press = s.press ∧ t.timeMark = s.timeMark
        ∧ t.store.bytes = s.store.bytes)
    ∧ (message = true → byteAt w.payload 2 = 2 →
      exec (.exchangePage l code w) s =
        .next (setPort l
          { portOf s l with
            threshold := limit, exchange := some (answered (.answer true true toggle 2 limit)) } s))
    ∧ (message = true → byteAt w.payload 2 ≠ 1 → byteAt w.payload 2 ≠ 2 →
      exec (.exchangePage l code w) s =
        .next (setPort l
          { portOf s l with
            exchange := some (answered (.answer true false toggle (w.payload.getD 2 0) 0)) } s))
    ∧ (message = false →
      exec (.exchangePage l code w) s =
        .next (setPort l
          { portOf s l with exchange := some (answered (.answer false false toggle 0 0)) } s))

/-- How pages are paired and rounds completed (R148, R149). A page that does not belong to the round, an ability page after
round 0 or a next page with the toggle of the round before, is a repeat and changes nothing. A page of the round that does
not repeat the one before it is only remembered. Once the round's page has been taken in, a page that differs from it in
more than the acknowledge flag changes nothing, and the same page with that flag set, arrived twice running, completes the
round: with the next-page flag the next round begins, and without it the exchange ends, the link is UP and LINK_CHANGE is
latched; then, where the other link is not open, the calls and the notice that wait there move to this one as `Rerouted`
says (R160). That the page last seen is forgotten at a taking-in, and that an ignored page breaks no pair, is DEDUCED (log
entry 17). -/
def Obligations.RoundsPairAndComplete : Prop :=
  ∀ (s : State) (l : Link) (code : Byte) (w : Wire) (x : Exchange), PageArrives s l code w x →
    let ability : Prop := byteAt w.payload 0 = 0
    let page := if ability then w.payload.set 7 0 else ((w.payload.set 3 0).set 6 0).set 7 0
    let flags := if ability then 6 else 1
    let acknowledged (p : List Byte) : List Byte := p.set flags (p.getD flags 0 ||| 2)
    let belongs : Prop :=
      (x.round = 0 ∧ ability) ∨ (1 ≤ x.round ∧ ¬ability ∧ x.lastToggle ≠ some ((byteAt w.payload 1).testBit 4))
    let leaves (y : Exchange) : Prop :=
      exec (.exchangePage l code w) s = .next (setPort l { portOf s l with exchange := some y } s)
    (¬belongs → exec (.exchangePage l code w) s = .next s)
    ∧ (belongs → x.takenIn = none → x.previous ≠ some page → leaves { x with previous := some page })
    ∧ ∀ taken : List Byte, belongs → x.takenIn = some taken → (byteAt taken 0 = 0 ↔ ability) →
      (acknowledged page ≠ acknowledged taken → exec (.exchangePage l code w) s = .next s)
      ∧ (acknowledged page = acknowledged taken → (page ≠ acknowledged taken ∨ x.previous ≠ some page) →
          leaves { x with previous := some page })
      ∧ (page = acknowledged taken → x.previous = some page →
          ((byteAt taken flags).testBit 0 = true →
            leaves
              { x with
                round := x.round + 1, previous := none, takenIn := none, timer := 0
                lastToggle := if ability then none else some ((byteAt taken 1).testBit 4) })
          ∧ ((byteAt taken flags).testBit 0 = false →
            ∃ t : State, exec (.exchangePage l code w) s = .next t
              ∧ Rerouted (latchKind .linkChange (setPort l { portOf s l with state := .up, exchange := none } s)) t
              ∧ portOf t l =
                  { portOf s l with
                    state := .up, exchange := none, calls := (portOf t l).calls, notice := (portOf t l).notice }
              ∧ portOf t l.other =
                  { portOf s l.other with calls := (portOf t l.other).calls, notice := (portOf t l.other).notice }
              ∧ ((portOf s l).quiet = false → ¬OpenLink s l.other →
                  (portOf t l).calls =
                    (portOf s l).calls ++ (portOf s l.other).calls.take (64 - (portOf s l).calls.length)
                  ∧ (portOf t l.other).calls = (portOf s l.other).calls.drop (64 - (portOf s l).calls.length)
                  ∧ (portOf t l.other).notice = none)
              ∧ holdsKind t.notices.latched .linkChange = true
              ∧ t = { s with ports := t.ports, notices := t.notices }))

/-! ## The receive tests -/

/-- The receive tests of R155 dispose of a parcel of any kind, control codes and unknown kinds among them, in their order:
nothing is read on a link that is DOWN, SENSING or in FAULT; then oversize, check error, unknown kind, a forward kind in
EXCHANGE, which sends the link to FAULT (R153), and misaddressed. The command `unknownKindParcel`, a parcel whose kind is
none of 1, 2, 3, 4 and 8, completes here: where it passes the tests before, it is counted as an unknown kind. What waits on
a link that goes to FAULT moves to the other where that is open, as `Rerouted` says (R160). That the fault cuts off a page
under way is the model's choice (log entry 12). -/
def Obligations.ReceiveTestsDispose : Prop :=
  ∀ (s : State) (i : Instr) (l : Link) (kind code : Byte) (w : Wire), parcelParts i = some (l, kind, code, w) →
    NoneHeldBack s →
    let bad : Prop := w.payload.length ≠ w.lengthField.toNat
      ∨ (¬(kind = 2 ∧ w.nocheck = true) ∧ w.check ≠ properCheck kind code w)
    (((portOf s l).state = .down ∨ (portOf s l).state = .sensing ∨ (portOf s l).state = .fault) →
      exec i s = .next s)
    ∧ (((portOf s l).state = .exchange ∨ (portOf s l).state = .up) →
      ((portOf s l).threshold < w.payload.length → exec i s = .next (countReceive l .oversize s))
      ∧ (w.payload.length ≤ (portOf s l).threshold →
        (bad → exec i s = .next (countReceive l .checkError s))
        ∧ (¬bad →
          (((kind ∉ [1, 2, 3, 4, 8]) ∨ (kind = 8 ∧ ((portOf s l).state = .up ∨ w.payload.length ≠ 8))) →
            exec i s = .next (countReceive l .unknownKind s))
          ∧ (kind ∈ [1, 2, 3, 4] → (portOf s l).state = .exchange →
            ∃ t : State, exec i s = .next t
              ∧ Rerouted
                  (latchKind .linkChange
                    (setPort l { portOf s l with state := .fault, exchange := none, sending := [] } s)) t
              ∧ portOf t l =
                  { portOf s l with
                    state := .fault, exchange := none, sending := [], calls := (portOf t l).calls
                    notice := (portOf t l).notice }
              ∧ portOf t l.other =
                  { portOf s l.other with calls := (portOf t l.other).calls, notice := (portOf t l.other).notice }
              ∧ holdsKind t.notices.latched .linkChange = true
              ∧ t = { s with ports := t.ports, notices := t.notices })
          ∧ (kind ∈ [1, 2, 3, 4] → (portOf s l).state = .up → w.address ≠ s.straps → w.address ≠ 15 →
            exec i s = .next (countReceive l .misaddressed s)))))

/-! ## Tile Memory -/

/-- A reclaim walks the Arrival List from its front and frees the candidates it meets, held versions that are not locked and
whose record has no pending use (R57, R58): it stops at the first point where the free count has reached its target, or at
the back; the versions it passes by keep their places, and nothing but the freed versions' slots, blocks and places
changes. The low-water test starts it while the free count is below low-water, and latches STORE_LOW when it is still below
at the end (R60); with enough free blocks it does nothing. -/
def Obligations.ReclaimFreesCandidatesInArrivalOrder : Prop :=
  (∀ (n : Nat) (s : State), s.store.arrival.Nodup →
    let candidate (i : RosterIndex) : Bool :=
      match (entryOf s i).held with
      | some h => decide (h.lock = 0 ∧ (recordOf s i).uses = 0)
      | none => false
    let blocksOf (i : RosterIndex) : List Nat :=
      match (entryOf s i).held with
      | some h => h.version.blocks
      | none => []
    let met (k : Nat) : List RosterIndex := (s.store.arrival.take k).filter candidate
    let count (k : Nat) : Nat := s.store.freeCount + ((met k).map fun i => (blocksOf i).length).sum
    ∃ k ≤ s.store.arrival.length, ∃ t : State, reclaim n s = t
      ∧ (n ≤ count k ∨ k = s.store.arrival.length) ∧ (∀ j < k, count j < n)
      ∧ t.store.freeCount = count k
      ∧ (∀ b : Nat, t.store.freeList.count b
          = s.store.freeList.count b + ((met k).map fun i => (blocksOf i).count b).sum)
      ∧ t.store.arrival = (s.store.arrival.filter fun i => decide (i ∉ met k))
      ∧ (∀ i : RosterIndex, entryOf t i = if i ∈ met k then { entryOf s i with held := none } else entryOf s i)
      ∧ t = { s with
          intake.directory := t.intake.directory
          store := { t.store with bytes := s.store.bytes } })
  ∧ ∀ s : State,
    let low := s.tables.settings.lowWater
    (low ≤ s.store.freeCount → lowWaterTest s = s)
    ∧ (s.store.freeCount < low →
      let t := reclaim low s
      (low ≤ t.store.freeCount → lowWaterTest s = t)
      ∧ (t.store.freeCount < low → lowWaterTest s = latchKind .storeLow t))

/-! ## Tile Intake -/

/-- Whatever it names, a tile head on a link with an open train voids that train SUPERSEDED first and is then taken as on an
IDLE link (R24). A head that passes every check of R25 opens a train (R26, R27, R49, R53, R59, R60): where the free count is
below ceil(Ws·Hs·3 / 65536) a reclaim runs first; the lowest-numbered free blocks, as many as that, leave the free list, and
the low-water test follows; then an incoming version of the student is superseded, a FILLING one with the train of the other
link and a WAITING one by returning its blocks, which the reservation has not counted; the new version stands FILLING in the
incoming slot, the train state becomes OPEN with its gap timer at zero, and an open Delivery Log record is written. That the
low-water test is made before the superseded version's blocks return is DEDUCED (log entry 14), and that the front of the
free list is its lowest-numbered blocks rests on the order the model keeps it in (log entry 21). -/
def Obligations.TileHeadOpensATrain : Prop :=
  (∀ (s : State) (l : Link) (code : Byte) (w : Wire) (x : Train) (v : Incoming), Passes s l 1 code w →
    trainOf s l = some x → (entryOf s x.index).incoming = some v →
    ∃ t : State, Voided l x v .superseded s t ∧ Passes t l 1 code w
      ∧ exec (.tileHead l code w) s = exec (.tileHead l code w) t)
  ∧ ∀ (s : State) (l : Link) (code : Byte) (w : Wire) (i : RosterIndex) (n : Fin 16), Passes s l 1 code w →
    w.payload.length = 16 → trainOf s l = none →
    be32 w.payload 0 ≠ 0 → (recordOf s i).listed = true →
    (recordOf s i).studentId = BitVec.ofNat 32 (be32 w.payload 0) →
    (∀ j : RosterIndex, (recordOf s j).listed = true → (recordOf s j).studentId = (recordOf s i).studentId → j = i) →
    (recordOf s i).withheld = false → byteAt w.payload 4 = n.val → s.tables.tones[n] ≠ none →
    let width := be16 w.payload 6
    let height := be16 w.payload 8
    let need := (width * height * 3 + 65535) / 65536
    64 ≤ width → width ≤ 1024 → 64 ≤ height → height ≤ 1280 → be16 w.payload 10 < height →
    be16 w.payload 12 < width → 16 ≤ be16 w.payload 14 → be16 w.payload 14 ≤ height →
    let room : State := if s.store.freeCount < need then reclaim need s else s
    need ≤ room.store.freeCount →
    let reserved : State :=
      lowWaterTest
        { room with
          store.freeList := room.store.freeList.drop need
          store.freeCount := room.store.freeCount - need }
    let opened (u : State) : State :=
      { u with
        intake.directory :=
          u.intake.directory.set i
            { entryOf u i with
              incoming := some
                { version :=
                    { width := width, height := height, eyeRow := be16 w.payload 10
                      centreColumn := be16 w.payload 12, headHeight := be16 w.payload 14, session := n
                      blocks := room.store.freeList.take need, rows := 0, origin := l, openMark := s.timeMark
                      closeMark := none, retake := false, late := false, poisonedSeen := false }
                  state := .filling } }
        intake.trains :=
          u.intake.trains.set l
            (some
              { index := i, studentId := BitVec.ofNat 32 (be32 w.payload 0), record := s.intake.nextSequence,
                lastRow := none, gapTimer := 0 })
        intake.log :=
          u.intake.log.set (Fin.ofNat 256 s.intake.nextSequence.toNat)
            (some
              { sequence := s.intake.nextSequence, index := some i
                studentId := BitVec.ofNat 32 (be32 w.payload 0), link := l, opened := true, closed := false
                openMark := s.timeMark, closeMark := none, rows := 0, outcome := none, late := false
                called := false })
        intake.nextSequence := s.intake.nextSequence + 1 }
    let apart : Prop := ∀ x : Train, trainOf s l.other = some x → x.index ≠ i
    (apart → (entryOf s i).incoming = none → exec (.tileHead l code w) s = .next (opened reserved))
    ∧ (∀ v : Version, apart → (entryOf s i).incoming = some { version := v, state := .waiting } →
      ∃ u : State, exec (.tileHead l code w) s = .next (opened u)
        ∧ u.store.freeCount = reserved.store.freeCount + v.blocks.length
        ∧ (∀ b : Nat, u.store.freeList.count b = reserved.store.freeList.count b + v.blocks.count b)
        ∧ u = { reserved with
            intake.directory :=
              reserved.intake.directory.set i { entryOf reserved i with incoming := none }
            store :=
              { u.store with arrival := reserved.store.arrival, bytes := reserved.store.bytes } })
    ∧ ∀ (x : Train) (v : Version), trainOf s l.other = some x → x.index = i →
      (entryOf s i).incoming = some { version := v, state := .filling } →
      ∃ u : State, exec (.tileHead l code w) s = .next (opened u)
        ∧ Voided l.other x { version := v, state := .filling } .superseded reserved u

/-- A tile head that fails a check of R25 is refused with that check's cause, in their order (R25, R26, R49): its record is
written complete, TRAIN_FAULT is latched, and no train opens, no block is reserved and no entry changes. NO_ROOM is found
where a reclaim has reached the back of the Arrival List with too few blocks free: what it freed stays free, an incoming
version of the student is left in place, and STORE_LOW is latched when the free count is below low-water (R59). Stated for
a link with no open train: TileHeadOpensATrain says that any other head is taken as on one. -/
def Obligations.TileHeadIsRefused : Prop :=
  ∀ (s : State) (l : Link) (code : Byte) (w : Wire), Passes s l 1 code w → trainOf s l = none →
    let id := BitVec.ofNat 32 (be32 w.payload 0)
    let width := be16 w.payload 6
    let height := be16 w.payload 8
    let unlisted := id = 0 ∨ ∀ j : RosterIndex, (recordOf s j).listed = true → (recordOf s j).studentId ≠ id
    let named (i : RosterIndex) := id ≠ 0 ∧ (recordOf s i).listed = true ∧ (recordOf s i).studentId = id
      ∧ ∀ j : RosterIndex, (recordOf s j).listed = true → (recordOf s j).studentId = id → j = i
    let noSession := 16 ≤ byteAt w.payload 4
      ∨ ∃ n : Fin 16, byteAt w.payload 4 = n.val ∧ s.tables.tones[n] = none
    let badShape := ¬(64 ≤ width ∧ width ≤ 1024 ∧ 64 ≤ height ∧ height ≤ 1280 ∧ be16 w.payload 10 < height
      ∧ be16 w.payload 12 < width ∧ 16 ≤ be16 w.payload 14 ∧ be16 w.payload 14 ≤ height)
    let refused (u : State) (o : Delivery) (id : BitVec 32) (i : Option RosterIndex) (t : State) : Prop :=
      t.intake.log =
          s.intake.log.set (Fin.ofNat 256 s.intake.nextSequence.toNat)
            (some
              { sequence := s.intake.nextSequence, index := i, studentId := id, link := l, opened := true
                closed := true, openMark := s.timeMark, closeMark := some s.timeMark, rows := 0, outcome := some o
                late := false, called := false })
      ∧ t.intake.nextSequence = s.intake.nextSequence + 1
      ∧ t.intake.directory = u.intake.directory ∧ t.intake.trains = s.intake.trains
      ∧ holdsKind t.notices.latched .trainFault = true
      ∧ t = { u with intake := t.intake, ports := t.ports, notices := t.notices }
    let refuses (o : Delivery) (id : BitVec 32) (i : Option RosterIndex) : Prop :=
      ∃ t : State, exec (.tileHead l code w) s = .next t ∧ refused s o id i t
    (w.payload.length ≠ 16 → refuses .badHead 0 none)
    ∧ (w.payload.length = 16 →
      (unlisted → refuses .notListed id none)
      ∧ ∀ i : RosterIndex, named i →
        ((recordOf s i).withheld = true → refuses .withheld id (some i))
        ∧ ((recordOf s i).withheld = false →
          (noSession → refuses .noSession id (some i))
          ∧ (¬noSession →
            (badShape → refuses .badHead id (some i))
            ∧ (¬badShape →
                let need := (width * height * 3 + 65535) / 65536
                let room := reclaim need s
                s.store.freeCount < need → room.store.freeCount < need →
                ∃ t : State, exec (.tileHead l code w) s = .next t ∧ refused room .noRoom id (some i) t
                  ∧ (holdsKind t.notices.latched .storeLow = true ↔
                      holdsKind s.notices.latched .storeLow = true
                        ∨ room.store.freeCount < s.tables.settings.lowWater)))))

/-- The expected row is stored through the tone tables of the train's session (R18, R28, R31, R52), with the LAST marker or
without it: byte k of the row is the entry of its channel's table, and every other byte of tile memory reads as before.
Without LAST nothing else changes but that rows received rises by 1, the train's last row and gap timer follow, and a
POISONED marker sets POISONED-SEEN; LAST closes the train as the two statements that follow say. -/
def Obligations.ExpectedRowIsStored : Prop :=
  ∀ (s : State) (l : Link) (code : Byte) (w : Wire) (x : Train) (v : Version) (tones : ToneSet),
    Passes s l 2 code w → trainOf s l = some x → (entryOf s x.index).incoming = some { version := v, state := .filling } →
    w.payload.length = 2 + v.width * 3 → be16 w.payload 0 = v.rows → v.rows < v.height →
    s.tables.tones[v.session] = some tones → Memory.wf s.store.bytes = true → v.blocks.Nodup →
    v.width * v.height * 3 ≤ v.blocks.length * 65536 →
    let first := v.rows * v.width * 3
    ∃ t : State, exec (.tileBody l code w) s = .next t
      ∧ (∀ k < v.width * 3,
          readVersion v.blocks t.store.bytes (first + k) =
            (match k % 3 with
              | 0 => tones.red
              | 1 => tones.green
              | _ => tones.blue)[byteAt w.payload (2 + k)]'((w.payload.getD (2 + k) 0).isLt))
      ∧ (∀ a : Nat, (∀ k < v.width * 3, tileAddress v.blocks (first + k) ≠ some a) →
          readByte t.store.bytes a = readByte s.store.bytes a)
      ∧ (w.last = false →
          t =
            { s with
              store.bytes := t.store.bytes
              intake.trains :=
                s.intake.trains.set l (some { x with lastRow := some v.rows, gapTimer := 0 })
              intake.directory :=
                s.intake.directory.set x.index
                  { entryOf s x.index with
                    incoming := some
                      { version :=
                          { v with rows := v.rows + 1, poisonedSeen := v.poisonedSeen || w.poisoned }
                        state := .filling } } })

/-- Bodies that close no train READY (R29, R30, R32, R33): a stray one only raises the stray counter; a duplicate of the last
row without LAST only restarts the gap timer. One of the wrong length or out of sequence, a duplicate with LAST on a train
that is short or poisoned, and the expected row with LAST on such a train, its own marker counted, close the train DAMAGED
(R35): TRAIN_FAULT is latched, the version is freed beside a READY held one, becomes the held one where there is none, and
takes the place of a DAMAGED one, which is freed; no call is answered, and the record is completed. The close is late
exactly when the printing order has decided the student's seat ABSENT, and then sets the LATE flags, latches TILE_LATE and
enters the seat in the late seats set (R37, R74). Only the expected row is stored. -/
def Obligations.OtherBodiesCloseOrStay : Prop :=
  ∀ (s : State) (l : Link) (code : Byte) (w : Wire), Passes s l 2 code w →
    (trainOf s l = none → exec (.tileBody l code w) s = .next (countReceive l .stray s))
    ∧ ∀ (x : Train) (v : Version), trainOf s l = some x →
      (entryOf s x.index).incoming = some { version := v, state := .filling } → v.rows ≤ v.height →
      let whole : Prop := w.payload.length = 2 + v.width * 3
      let expected : Prop := whole ∧ be16 w.payload 0 = v.rows ∧ v.rows < v.height
      let duplicate : Prop := whole ∧ ¬expected ∧ x.lastRow = some (be16 w.payload 0)
      let damages (u : Version) : Prop :=
        ∀ late : Bool, (late = true ↔ ∃ n : Nat, LateFor s x.index n) →
          let filed : Held :=
            { version := { u with closeMark := some s.timeMark, late := u.late || late }, state := .damaged, lock := 0 }
          ∃ t : State, exec (.tileBody l code w) s = .next t
            ∧ trainOf t l = none ∧ trainOf t l.other = trainOf s l.other
            ∧ (∀ j : RosterIndex, j ≠ x.index → entryOf t j = entryOf s j)
            ∧ (∀ h : Held, (entryOf s x.index).held = some h → h.state = .ready →
                entryOf t x.index = { held := some h, incoming := none } ∧ t.store.arrival = s.store.arrival
                ∧ t.store.freeCount = s.store.freeCount + u.blocks.length
                ∧ ∀ b : Nat, t.store.freeList.count b = s.store.freeList.count b + u.blocks.count b)
            ∧ (∀ h : Held, (entryOf s x.index).held = some h → h.state = .damaged →
                entryOf t x.index = { held := some filed, incoming := none }
                ∧ t.store.arrival = (s.store.arrival.filter fun j => decide (j ≠ x.index)) ++ [x.index]
                ∧ t.store.freeCount = s.store.freeCount + h.version.blocks.length
                ∧ ∀ b : Nat, t.store.freeList.count b = s.store.freeList.count b + h.version.blocks.count b)
            ∧ ((entryOf s x.index).held = none →
                entryOf t x.index = { held := some filed, incoming := none }
                ∧ t.store.arrival = s.store.arrival ++ [x.index] ∧ t.store.freeCount = s.store.freeCount
                ∧ t.store.freeList = s.store.freeList)
            ∧ holdsKind t.notices.latched .trainFault = true
            ∧ (∀ n : Nat, LateFor s x.index n → holdsKind t.notices.latched .tileLate = true
                ∧ t.scheduler =
                    { s.scheduler with
                      impression := s.scheduler.impression.map fun c =>
                        { c with lateSeats := if n ∈ c.lateSeats then c.lateSeats else c.lateSeats ++ [n] } })
            ∧ (late = false → t.scheduler = s.scheduler
                ∧ holdsKind t.notices.latched .tileLate = holdsKind s.notices.latched .tileLate)
            ∧ (∀ r : DeliveryRecord, s.intake.log[logSlot x.record] = some r → r.sequence = x.record →
                t.intake.log[logSlot x.record] =
                  some
                    { r with
                      closed := true, closeMark := some s.timeMark, rows := u.rows, outcome := some .damaged
                      late := late, called := false })
            ∧ (¬expected → t.store.bytes = s.store.bytes)
            ∧ t = { s with
                intake := t.intake, store := t.store, scheduler := t.scheduler, ports := t.ports
                notices := t.notices }
      (duplicate → w.last = false →
        exec (.tileBody l code w) s =
          .next { s with intake.trains := s.intake.trains.set l (some { x with gapTimer := 0 }) })
      ∧ (¬expected → ¬duplicate → damages v)
      ∧ (duplicate → w.last = true → (v.rows ≠ v.height ∨ v.poisonedSeen = true) → damages v)
      ∧ (expected → w.last = true → (v.rows + 1 ≠ v.height ∨ v.poisonedSeen = true ∨ w.poisoned = true) →
          damages { v with rows := v.rows + 1, poisonedSeen := v.poisonedSeen || w.poisoned })

/-- The LAST marker closes a train READY when every row has been received and none was poisoned (R33, R34, R36, R37, R50, R55):
on the last row itself, or on a duplicate of it (R29), which stores nothing and whose POISONED marker has no effect. The
version becomes the held one, replaces an unlocked held one as a RETAKE, or waits as a RETAKE behind a locked one; its calls
are answered and its record is completed. The close is late exactly when the printing order, the head in state ACTIVE or
ENDING, has decided the student's seat ABSENT; it then sets the LATE flags, latches TILE_LATE and enters the seat in the
late seats set (R74). -/
def Obligations.LastRowClosesATrainReady : Prop :=
  ∀ (s : State) (l : Link) (code : Byte) (w : Wire) (x : Train) (v : Version) (late : Bool), Passes s l 2 code w →
    trainOf s l = some x → (entryOf s x.index).incoming = some { version := v, state := .filling } →
    w.payload.length = 2 + v.width * 3 → w.last = true → v.poisonedSeen = false →
    ((be16 w.payload 0 = v.rows ∧ v.rows + 1 = v.height ∧ w.poisoned = false)
      ∨ (v.rows = v.height ∧ x.lastRow = some (be16 w.payload 0))) →
    (late = true ↔ ∃ n : Nat, LateFor s x.index n) →
    let closed (retake : Bool) : Version :=
      { v with rows := v.height, closeMark := some s.timeMark, late := v.late || late, retake := retake }
    let called := s.seats.calls.any fun c => decide (c.index = x.index)
    ∃ t : State, exec (.tileBody l code w) s = .next t
      ∧ trainOf t l = none ∧ trainOf t l.other = trainOf s l.other
      ∧ ((entryOf s x.index).held = none →
          entryOf t x.index =
            { held := some { version := closed v.retake, state := .ready, lock := 0 }, incoming := none }
          ∧ t.store.arrival = s.store.arrival ++ [x.index] ∧ t.store.freeCount = s.store.freeCount)
      ∧ (∀ h : Held, (entryOf s x.index).held = some h → h.lock = 0 →
          entryOf t x.index =
            { held := some { version := closed true, state := .ready, lock := 0 }, incoming := none }
          ∧ t.store.arrival = (s.store.arrival.filter fun j => decide (j ≠ x.index)) ++ [x.index]
          ∧ t.store.freeCount = s.store.freeCount + h.version.blocks.length
          ∧ ∀ b : Nat, t.store.freeList.count b = s.store.freeList.count b + h.version.blocks.count b)
      ∧ (∀ h : Held, (entryOf s x.index).held = some h → 0 < h.lock →
          entryOf t x.index =
            { held := some h, incoming := some { version := closed true, state := .waiting } }
          ∧ t.store.arrival = s.store.arrival ∧ t.store.freeCount = s.store.freeCount)
      ∧ (∀ j : RosterIndex, j ≠ x.index → entryOf t j = entryOf s j)
      ∧ t.seats = { s.seats with calls := s.seats.calls.filter fun c => decide (c.index ≠ x.index) }
      ∧ (∀ n : Nat, LateFor s x.index n → holdsKind t.notices.latched .tileLate = true
          ∧ t.scheduler =
              { s.scheduler with
                impression := s.scheduler.impression.map fun c =>
                        { c with lateSeats := if n ∈ c.lateSeats then c.lateSeats else c.lateSeats ++ [n] } })
      ∧ (late = false → t.notices = s.notices ∧ t.scheduler = s.scheduler)
      ∧ (∀ r : DeliveryRecord, s.intake.log[logSlot x.record] = some r → r.sequence = x.record →
          t.intake.log[logSlot x.record] =
            some
              { r with
                closed := true, closeMark := some s.timeMark, rows := v.height
                outcome := some (if (entryOf s x.index).held = none then .accepted else .retake)
                late := late, called := called })
      ∧ (v.rows = v.height → t.store.bytes = s.store.bytes)
      ∧ t.tables = s.tables ∧ t.renderer = s.renderer ∧ t.press = s.press ∧ t.control = s.control
      ∧ t.timeMark = s.timeMark

/-- A tile train whose gap timer has reached the train gap is voided ABANDONED (R38, R39, R50): its blocks return, its
incoming slot is empty, its record is completed with the rows received, and TRAIN_FAULT is latched; the held version stays. A
table train in the same case is discarded without a reply (R171). Before that, or with no train open, the events change
nothing (log entry 4). -/
def Obligations.TrainsExpireAtTheGap : Prop :=
  ∀ (s : State) (l : Link),
    (∀ (x : Train) (v : Incoming), trainOf s l = some x → (entryOf s x.index).incoming = some v →
      s.tables.settings.trainGap ≤ x.gapTimer →
      ∃ t : State, exec (.trainGapExpiry l) s = .next t
        ∧ trainOf t l = none ∧ trainOf t l.other = trainOf s l.other
        ∧ t.intake.directory = s.intake.directory.set x.index { entryOf s x.index with incoming := none }
        ∧ t.store.freeCount = s.store.freeCount + v.version.blocks.length
        ∧ (∀ b : Nat, t.store.freeList.count b = s.store.freeList.count b + v.version.blocks.count b)
        ∧ t.store.arrival = s.store.arrival ∧ t.store.bytes = s.store.bytes
        ∧ holdsKind t.notices.latched .trainFault = true
        ∧ (∀ r : DeliveryRecord, s.intake.log[logSlot x.record] = some r → r.sequence = x.record →
            t.intake.log[logSlot x.record] =
              some
                { r with
                  closed := true, closeMark := some s.timeMark, rows := v.version.rows
                  outcome := some .abandoned, late := false, called := false })
        ∧ t = { s with intake := t.intake, store := t.store, ports := t.ports, notices := t.notices })
    ∧ (∀ x : Train, trainOf s l = some x → x.gapTimer < s.tables.settings.trainGap →
        exec (.trainGapExpiry l) s = .next s)
    ∧ (trainOf s l = none → exec (.trainGapExpiry l) s = .next s)
    ∧ (∀ g : Staging, (slotOf s l).staging = some g →
        (s.tables.settings.trainGap ≤ g.gapTimer →
          exec (.tableTrainExpiry l) s = .next (setSlot l { slotOf s l with staging := none } s))
        ∧ (g.gapTimer < s.tables.settings.trainGap → exec (.tableTrainExpiry l) s = .next s))
    ∧ ((slotOf s l).staging = none → exec (.tableTrainExpiry l) s = .next s)

/-- A TABLE_BODY parcel at the hall address is discarded and counted nowhere (R168). Any other is appended to the staging of its link and restarts its gap timer (R168); one that finds the slot
EMPTY is stray. Bytes beyond the most that the table's staging holds, 2234 for a plan, 46080 for the roster, 768 for a tone
set and 43458 for a Glyph Set, are not kept and set the overflow mark (R6, R13, R19, R117, R168). The LAST body closes the
table train: the slot is emptied and the opening control is concluded under its own code and tag (R169), with the cause of
the first check that fails, as TableChecksFailInOrder says them, and no table changed, or TAKEN with the table replaced. A
plan replaces its slot and moves the totals (R8); a Glyph Set replaces the set whole (R119); each roster record of the range
takes its entry, keeps its flag and its pending uses, and has its directory entry cleared where the student id changes (R15,
R16): the blocks of both versions return, a held one leaves the Arrival List, and an open train that fills the entry is
voided ABANDONED, its record completed and TRAIN_FAULT latched (R38, R50, R54), while everything else stays; and a tone set of 768 bytes, on a session that no open train fills, replaces the session's three tables, where one of
fewer bytes is refused SHORT (R18, R19). -/
def Obligations.TableBodyIsStagedAndApplied : Prop :=
  (∀ (s : State) (l : Link) (code : Byte) (w : Wire), Passes s l 4 code w → w.address = 15 →
    exec (.tableBody l code w) s = .next s)
  ∧ ∀ (s : State) (l : Link) (code : Byte) (w : Wire), Passes s l 4 code w → w.address ≠ 15 →
    let emptied (u : State) : State := setSlot l { slotOf u l with staging := none } u
    let room (g : Staging) : Nat :=
      (match g.target with
        | .plan _ => 2234
        | .roster _ _ => 46080
        | .tone _ => 768
        | .glyphs => 43458) - g.bytes.length
    let appended (g : Staging) : Staging :=
      { g with
        bytes := g.bytes ++ w.payload.take (room g)
        overflow := g.overflow || decide (room g < w.payload.length)
        gapTimer := 0 }
    ((slotOf s l).staging = none → exec (.tableBody l code w) s = .next (countReceive l .stray s))
    ∧ (∀ g : Staging, (slotOf s l).staging = some g → w.last = false →
        exec (.tableBody l code w) s = .next (setSlot l { slotOf s l with staging := some (appended g) } s))
    ∧ (∀ g : Staging, (slotOf s l).staging = some g → w.last = true →
        let whole : Staging := appended g
        let concludes (o : ControlOutcome) (u : State) : Prop :=
          ∃ t : State, exec (.tableBody l code w) s = .next t
            ∧ Concluded l (tableCode g.target) { w with tag := g.tag } o [] false (emptied u) t
        (checkTable whole s ≠ .taken → concludes (checkTable whole s) s)
        ∧ (checkTable whole s = .taken → ∃ u : State, concludes .taken u
          ∧ (∀ id : Fin 8, g.target = .plan id →
              let p := planFrom (readPlan whole.bytes)
              u = { s with
                tables.plans := s.tables.plans.set id (some p)
                tables.planRows := s.tables.planRows - slotRows (planOf s id) + p.rows.length
                tables.planSeats := s.tables.planSeats - slotSeats (planOf s id) + p.seats.length })
          ∧ (g.target = .glyphs →
              u = { s with
                tables := { s.tables with glyphs := some (glyphsFrom whole.bytes) }
                renderer := u.renderer })
          ∧ ∀ (first count : Nat) (es : List RosterEntry) (more : List Byte), g.target = .roster first count →
              first + count ≤ 1024 → readRoster count whole.bytes = some (es, more) →
              let cleared (i : RosterIndex) : Bool :=
                decide (first ≤ i.val)
                  && (es[i.val - first]?).any fun e => decide (e.studentId ≠ (recordOf s i).studentId)
              u =
                { s with
                  tables.roster := u.tables.roster
                  intake := { u.intake with nextSequence := s.intake.nextSequence }
                  store := { u.store with bytes := s.store.bytes }
                  ports := u.ports
                  notices.latched := u.notices.latched }
              ∧ BlocksMove s u
              ∧ u.store.arrival =
                  (s.store.arrival.filter fun i => !(cleared i && (entryOf s i).held.isSome))
              ∧ (∀ m : Link, portOf u m = { portOf s m with notice := (portOf u m).notice })
              ∧ (∀ m : Link, trainOf s m = none → trainOf u m = none)
              ∧ (∀ (m : Link) (x : Train), trainOf s m = some x →
                  (cleared x.index = false → trainOf u m = some x)
                  ∧ (cleared x.index = true → trainOf u m = none ∧ holdsKind u.notices.latched .trainFault = true
                    ∧ ∀ (v : Incoming) (r : DeliveryRecord), (entryOf s x.index).incoming = some v →
                      s.intake.log[logSlot x.record] = some r → r.sequence = x.record →
                      (∀ y : Train, trainOf s m.other = some y → y.index ≠ x.index ∧ y.record ≠ x.record) →
                      u.intake.log[logSlot x.record] =
                        some
                          { r with
                            closed := true, closeMark := some s.timeMark, rows := v.version.rows
                            outcome := some .abandoned, late := false, called := false }))
              ∧ (∀ q : Fin 256,
                  (∀ (m : Link) (x : Train), trainOf s m = some x → cleared x.index = true → logSlot x.record ≠ q) →
                  u.intake.log[q] = s.intake.log[q])
              ∧ (∀ k : NoticeKind, k ≠ .trainFault → holdsKind u.notices.latched k = holdsKind s.notices.latched k)
              ∧ ((∀ (m : Link) (x : Train), trainOf s m = some x → cleared x.index = false) →
                  u.notices = s.notices ∧ u.ports = s.ports)
              ∧ (∀ i : RosterIndex, (i.val < first ∨ first + count ≤ i.val) →
                recordOf u i = recordOf s i ∧ entryOf u i = entryOf s i)
              ∧ ∀ (j : Nat) (e : RosterEntry) (i : RosterIndex), es[j]? = some e → i.val = first + j →
                recordOf u i =
                  { recordOf s i with
                    listed := decide (e.studentId ≠ 0), studentId := e.studentId
                    caption := if e.studentId = 0 then [] else e.caption }
                ∧ entryOf u i =
                    if e.studentId = (recordOf s i).studentId then entryOf s i
                    else { held := none, incoming := none }))
    ∧ (∀ (g : Staging) (n : Fin 16), (slotOf s l).staging = some g → g.target = .tone n → w.last = true →
        g.overflow = false → sessionBusy s n = false →
        let bytes := g.bytes ++ w.payload
        (bytes.length = 768 →
          ∃ (t : State) (tables : ToneSet), exec (.tableBody l code w) s = .next t
            ∧ Concluded l 27 { w with tag := g.tag } .taken [] false
                (emptied { s with tables.tones := s.tables.tones.set n (some tables) }) t
            ∧ ∀ k : Fin 256, tables.red[k] = bytes.getD k.val 0 ∧ tables.green[k] = bytes.getD (256 + k.val) 0
                ∧ tables.blue[k] = bytes.getD (512 + k.val) 0)
        ∧ (bytes.length < 768 →
          ∃ t : State, exec (.tableBody l code w) s = .next t
            ∧ Concluded l 27 { w with tag := g.tag } .short [] false (emptied s) t))

/-- The checks of a staged table, in their order; the first to fail names the refusal (R7, R14, R19, R118), read from the
staged bytes as section 12.4 lays them out. A plan that passes is the one its bytes spell, and so are the entries of a
roster and the glyphs of a Glyph Set (R3, R13, R116, R117). -/
def Obligations.TableChecksFailInOrder : Prop :=
  ∀ (s : State) (g : Staging),
    let b := g.bytes
    let colour (n : Nat) : Pixel := { r := b.getD n 0, g := b.getD (n + 1) 0, b := b.getD (n + 2) 0 }
    (∀ id : Fin 8, g.target = .plan id → TotalsLaw s →
      let width := be16 b 0
      let height := be16 b 2
      let rows := byteAt b 7
      let seats := be16 b 8
      let row (i : Nat) : Nat := 10 + 27 * i
      let seat (j : Nat) : Nat := 10 + 27 * rows + 7 * j
      let top (i : Nat) : Nat := be16 b (row i)
      let below (i : Nat) : Nat := top i + be16 b (row i + 2) + byteAt b (row i + 4)
      let side (i : Nat) : Nat := byteAt b (row i + 26)
      let left (j : Nat) : Nat := be16 b (seat j + 1)
      let across (j : Nat) : Nat := be16 b (seat j + 3)
      let rowFits (i : Nat) : Prop :=
        top i ≤ 8191 ∧ 32 ≤ be16 b (row i + 2) ∧ be16 b (row i + 2) ≤ 2048 ∧ byteAt b (row i + 4) ≤ 128
          ∧ 16 ≤ be16 b (row i + 5) ∧ be16 b (row i + 5) ≤ 2047 ∧ be16 b (row i + 7) < be16 b (row i + 2)
          ∧ 256 ≤ be16 b (row i + 9) ∧ be16 b (row i + 9) ≤ be16 b (row i + 11) ∧ byteAt b (row i + 25) ≤ 8
          ∧ side i ≤ 32 ∧ below i ≤ height
      let seatFits (j : Nat) : Prop :=
        byteAt b (seat j) < rows ∧ 32 ≤ across j ∧ across j ≤ 1024 ∧ left j + across j ≤ width
          ∧ be16 b (seat j + 5) ≤ 1023 ∧ 2 * side (byteAt b (seat j)) < across j
      let others (f : Option Plan → Nat) : Nat :=
        (((List.finRange 8).filter fun k => decide (k ≠ id)).map fun k => f (planOf s k)).sum
      FirstToFail (checkTable g s)
        [(∃ o ∈ s.scheduler.queue, o.plan = id, .pinned),
          (b.length < 10 ∨ b.length < 10 + 27 * rows + 7 * seats, .short),
          (10 + 27 * rows + 7 * seats < b.length ∨ g.overflow = true, .long),
          (width < 256 ∨ 4096 < width ∨ height < 256 ∨ 8192 < height, .pageRange),
          (rows < 1 ∨ 16 < rows ∨ ∃ i < rows, ¬rowFits i, .rowRange),
          (∃ i : Nat, i + 1 < rows ∧ top (i + 1) < below i, .rowOrder),
          (seats < 1 ∨ 256 < seats ∨ ∃ j < seats, ¬seatFits j, .seatRange),
          (∃ j k : Nat, j < k ∧ k < seats ∧ byteAt b (seat j) = byteAt b (seat k) ∧ left j < left k + across k
            ∧ left k < left j + across j, .seatOverlap),
          (∃ j k : Nat, j < k ∧ k < seats ∧ be16 b (seat j + 5) = be16 b (seat k + 5), .duplicateStudent),
          (64 < others slotRows + rows ∨ 1024 < others slotSeats + seats, .planSpace)]
      ∧ (let p := planFrom (readPlan b)
        p.width = width ∧ p.height = height ∧ p.background = colour 4
        ∧ p.rows.length = rows ∧ p.seats.length = seats
        ∧ (∀ i < rows, p.rows[i]? =
            some
              { top := top i, cellHeight := be16 b (row i + 2), captionHeight := byteAt b (row i + 4)
                headTarget := be16 b (row i + 5), eyeOffset := be16 b (row i + 7), sMin := be16 b (row i + 9)
                sMax := be16 b (row i + 11), margin := colour (row i + 13), absentFill := colour (row i + 16)
                ink := colour (row i + 19), paper := colour (row i + 22), tracking := byteAt b (row i + 25)
                sideMargin := side i })
        ∧ ∀ (j : Nat) (i : RosterIndex), j < seats → be16 b (seat j + 5) = i.val →
            p.seats[j]? = some { row := byteAt b (seat j), left := left j, width := across j, index := i }))
    ∧ (∀ first count : Nat, g.target = .roster first count → first + count ≤ 1024 →
      let holds (es : List RosterEntry) (more : List Byte) : Prop :=
        b = rosterBytes es ++ more ∧ es.length = count ∧ ∀ e ∈ es, e.caption.length ≤ 255
      ((∀ (es : List RosterEntry) (more : List Byte), ¬holds es more) → checkTable g s = .short)
      ∧ ∀ (es : List RosterEntry) (more : List Byte), holds es more →
        let within (i : RosterIndex) : Prop := first ≤ i.val ∧ i.val < first + count
        let listedAfter (i : RosterIndex) (id : BitVec 32) : Prop :=
          (within i ∧ id ≠ 0 ∧ ∃ e : RosterEntry, es[i.val - first]? = some e ∧ e.studentId = id)
            ∨ (¬within i ∧ (recordOf s i).listed = true ∧ (recordOf s i).studentId = id)
        readRoster count b = some (es, more)
        ∧ FirstToFail (checkTable g s)
            [(more ≠ [] ∨ g.overflow = true, .long),
              (∃ e ∈ es, 40 < e.caption.length ∨ ∃ c ∈ e.caption, c.toNat < 32, .badArgument),
              (∃ i : RosterIndex, within i ∧ 0 < (recordOf s i).uses, .pinned),
              (∃ (i j : RosterIndex) (id : BitVec 32), i ≠ j ∧ listedAfter i id ∧ listedAfter j id, .duplicateId)])
    ∧ (∀ n : Fin 16, g.target = .tone n →
      FirstToFail (checkTable g s)
        [(b.length < 768, .short),
          (g.overflow = true, .long),
          (∃ (m : Link) (x : Train) (v : Incoming), trainOf s m = some x ∧ (entryOf s x.index).incoming = some v
            ∧ v.version.session = n, .busySession)])
    ∧ (g.target = .glyphs →
      let height := byteAt b 0
      let lineOf (e : Byte × Byte × List Byte) : Nat := (e.2.1.toNat + 7) / 8
      let holds (es : List (Byte × Byte × List Byte)) (more : List Byte) : Prop :=
        2 ≤ b.length ∧ b.drop 2 = (es.flatMap fun e => e.1 :: e.2.1 :: e.2.2) ++ more ∧ es.length = byteAt b 1
          ∧ ∀ e ∈ es, e.2.2.length = height * lineOf e
      ((∀ (es : List (Byte × Byte × List Byte)) (more : List Byte), ¬holds es more) → checkTable g s = .short)
      ∧ ∀ (es : List (Byte × Byte × List Byte)) (more : List Byte), holds es more →
        FirstToFail (checkTable g s)
          [(more ≠ [] ∨ g.overflow = true, .long),
            (height < 8 ∨ 48 < height ∨ byteAt b 1 < 1 ∨ 224 < byteAt b 1
              ∨ (∃ e ∈ es, e.1.toNat < 32 ∨ e.2.1.toNat < 1 ∨ 32 < e.2.1.toNat)
              ∨ ∃ (j k : Nat) (d e : Byte × Byte × List Byte), j < k ∧ es[j]? = some d ∧ es[k]? = some e ∧ d.1 = e.1,
              .badArgument)]
        ∧ (glyphsFrom b).height = height ∧ (glyphsFrom b).glyphs.length = es.length
        ∧ ∀ (k : Nat) (e : Byte × Byte × List Byte), es[k]? = some e →
            ∃ y : Glyph, (glyphsFrom b).glyphs[k]? = some (e.1.toNat, y) ∧ y.advance = e.2.1.toNat
              ∧ y.bitmap.length = height
              ∧ ∀ line < height, ∃ bits : List Bool, y.bitmap[line]? = some bits ∧ bits.length = y.advance
                ∧ ∀ col < y.advance,
                    bits[col]? = some ((byteAt e.2.2 (line * lineOf e + col / 8)).testBit (7 - col % 8)))

/-! ## Rendering -/

/-- A render that is due starts in the lowest-numbered FREE buffer (R129, R101, R120): the buffer is RENDERING with the band's
number, the next band to render is the one after, and the render context holds the Glyph Set of this moment, a placement
record for every seat that renders PLACED with a cell line in the band, and a caption record for every seat that renders
PLACED or ABSENT with a strip line in it, by the arithmetic of chapters 6 and 7 (PlacedPixelIsAWeightedMean says what
`placementOf` holds, and CaptionIsResolvedCutAndSet what `captionOf` does). Where the next band is not frozen, or a
render is in progress, nothing starts. The serial number of the render is the model's own (log entry 6). -/
def Obligations.RenderStartsInTheLowestFreeBuffer : Prop :=
  (∀ (s : State) (c : Impression) (p : Plan) (b : Fin 4), s.scheduler.impression = some c → planOf s c.plan = some p →
    s.renderer.current = none → s.renderer.nextBand < c.nextFreeze → 0 < c.snapshot.bandHeight →
    s.renderer.nextBand * c.snapshot.bandHeight < p.height → s.renderer.buffers[b] = .free →
    (∀ j : Fin 4, j < b → s.renderer.buffers[j] ≠ .free) →
    let k := s.renderer.nextBand
    let lo := k * c.snapshot.bandHeight
    let hi := min ((k + 1) * c.snapshot.bandHeight) p.height
    ∃ g : Render, exec .renderStart s =
        .next
          { s with
            renderer :=
              { buffers := s.renderer.buffers.set b (.rendering k), nextBand := k + 1, current := some g
                works := s.renderer.works + 1 } }
      ∧ g.work = s.renderer.works ∧ g.band = k ∧ g.buffer = b ∧ g.glyphs = s.tables.glyphs
      ∧ (∀ q : Placement, q ∈ g.placements ↔
          ∃ (x : Seat) (r : Row) (h : Held), p.seats[q.seat]? = some x ∧ p.rows[x.row]? = some r
            ∧ (entryOf s x.index).held = some h ∧ renderedDecision s q.seat = .placed
            ∧ r.top < hi ∧ lo < r.top + r.cellHeight ∧ 0 < r.cellHeight
            ∧ q = placementOf q.seat x r h.version)
      ∧ ∀ q : CaptionRecord, q ∈ g.captions ↔
          ∃ (x : Seat) (r : Row), p.seats[q.seat]? = some x ∧ p.rows[x.row]? = some r
            ∧ (renderedDecision s q.seat = .placed ∨ renderedDecision s q.seat = .absent)
            ∧ r.top + r.cellHeight < hi ∧ lo < r.top + r.cellHeight + r.captionHeight ∧ 0 < r.captionHeight
            ∧ q = captionOf s.tables.glyphs q.seat x r (recordOf s x.index).caption)
  ∧ (∀ (s : State) (c : Impression), s.scheduler.impression = some c → c.nextFreeze ≤ s.renderer.nextBand →
      exec .renderStart s = .next s)
  ∧ (∀ (s : State) (g : Render), s.renderer.current = some g → exec .renderStart s = .next s)
  ∧ ∀ s : State, (∀ b : Fin 4, s.renderer.buffers[b] ≠ .free) → exec .renderStart s = .next s

/-- The render in progress completes (R132, R131, R140): its buffer is COMPLETE with every line and pixel of its band, the
renderer is free, and, if the port is holding the press for the band, HOLD drops with the verdict BUFFER and the held bands
count rises by 1. A pixel in no seat's box is background; one in a cell is that of the seat's placement record, and absent
fill without one; one in a strip is that of the seat's caption record, and caption paper without one. The marks are handed
over (R109, R113, R114, R126): the seats of clamped placement records join the clamped set, and those whose cells have a
sample point outside the stored tile in the band join the margin set, each counted when it first joins; a caption record
whose seat is not yet in the caption set adds its truncated mark and its missing count. The completion of abandoned work,
told by its number, is discarded and does only what RENDER_START does (log entry 6). That the next band's render starts at
its own step and not at once, and that the pixels are sampled at the completion, are the model's choices (log entries 5 and
18). -/
def Obligations.RenderCompletes : Prop :=
  (∀ (s : State) (g : Render) (c : Impression) (p : Plan), s.renderer.current = some g →
    s.scheduler.impression = some c → planOf s c.plan = some p →
    let lo := g.band * c.snapshot.bandHeight
    let hi := min ((g.band + 1) * c.snapshot.bandHeight) p.height
    let inBox (x : Seat) (r : Row) (col y : Nat) : Prop :=
      x.left ≤ col ∧ col < x.left + x.width ∧ r.top ≤ y ∧ y < r.top + r.cellHeight + r.captionHeight
    let alone (n col y : Nat) : Prop :=
      ∀ (m : Nat) (x : Seat) (r : Row), m ≠ n → p.seats[m]? = some x → p.rows[x.row]? = some r → ¬inBox x r col y
    let marked (q : Placement) : Prop :=
      ∃ (x : Seat) (r : Row) (h : Held) (i y : Nat), p.seats[q.seat]? = some x ∧ p.rows[x.row]? = some r
        ∧ (entryOf s x.index).held = some h ∧ lo ≤ y ∧ y < hi ∧ r.top ≤ y ∧ y < r.top + r.cellHeight ∧ i < x.width
        ∧ (q.x0 + i * q.step < 0 ∨ (h.version.width : Int) * 4096 ≤ q.x0 + i * q.step
            ∨ q.y0 + (y - r.top : Nat) * q.step < 0
            ∨ (h.version.height : Int) * 4096 ≤ q.y0 + (y - r.top : Nat) * q.step)
    let joins (old new : List Nat) (count : Nat) (total : Nat) (mark : Nat → Prop) : Prop :=
      (∀ n : Nat, n ∈ new ↔ n ∈ old ∨ mark n) ∧ (old.Nodup → new.Nodup) ∧ total + old.length = count + new.length
    let uncounted := g.captions.filter fun q => decide (q.seat ∉ c.captionSet)
    ∃ (t : State) (lines : List (List Pixel)) (d : Impression), exec (.renderComplete g.work) s = .next t
      ∧ t.renderer = { s.renderer with
          buffers := s.renderer.buffers.set g.buffer (.complete g.band lines), current := none }
      ∧ lines.length = hi - lo
      ∧ (∀ j < hi - lo, ∃ pixels, lines[j]? = some pixels ∧ pixels.length = p.width
        ∧ ∀ col < p.width,
          ((∀ (m : Nat) (x : Seat) (r : Row), p.seats[m]? = some x → p.rows[x.row]? = some r → ¬inBox x r col (lo + j)) →
            pixels[col]? = some p.background)
          ∧ ∀ (n : Nat) (x : Seat) (r : Row), p.seats[n]? = some x → p.rows[x.row]? = some r →
            inBox x r col (lo + j) → alone n col (lo + j) →
            ((lo + j < r.top + r.cellHeight → (∀ q ∈ g.placements, q.seat ≠ n) → pixels[col]? = some r.absentFill)
            ∧ (r.top + r.cellHeight ≤ lo + j → (∀ q ∈ g.captions, q.seat ≠ n) → pixels[col]? = some r.paper)
            ∧ (∀ (q : Placement) (h : Held), lo + j < r.top + r.cellHeight → q ∈ g.placements → q.seat = n →
                (∀ q' ∈ g.placements, q'.seat = n → q' = q) → (entryOf s x.index).held = some h →
                pixels[col]? = some (placedPixel s.store.bytes h.version r q (col - x.left) (lo + j - r.top)))
            ∧ (∀ q : CaptionRecord, r.top + r.cellHeight ≤ lo + j → q ∈ g.captions → q.seat = n →
                (∀ q' ∈ g.captions, q'.seat = n → q' = q) →
                pixels[col]? = some (captionPixel g.glyphs r q col (lo + j - (r.top + r.cellHeight))))))
      ∧ t.scheduler = { s.scheduler with impression := some d }
      ∧ d = { c with
          clampedSet := d.clampedSet, marginSet := d.marginSet, captionSet := d.captionSet, clamped := d.clamped
          margins := d.margins, truncated := d.truncated, missing := d.missing, heldBands := d.heldBands }
      ∧ joins c.clampedSet d.clampedSet c.clamped d.clamped
          (fun n => ∃ q ∈ g.placements, q.seat = n ∧ q.clamped = true)
      ∧ ((∀ q ∈ g.placements, q.margin = false) →
          joins c.marginSet d.marginSet c.margins d.margins (fun n => ∃ q ∈ g.placements, q.seat = n ∧ marked q))
      ∧ (∀ n : Nat, n ∈ d.captionSet ↔ n ∈ c.captionSet ∨ ∃ q ∈ g.captions, q.seat = n)
      ∧ ((g.captions.map CaptionRecord.seat).Nodup →
          d.truncated = c.truncated + uncounted.countP (fun q => q.truncated)
          ∧ d.missing = c.missing + (uncounted.map CaptionRecord.missing).sum)
      ∧ (∀ n, s.press.hold = .holding g.band n →
          t.press = { s.press with hold := .awaiting g.band .buffer } ∧ d.heldBands = c.heldBands + 1)
      ∧ ((∀ n, s.press.hold ≠ .holding g.band n) → t.press = s.press ∧ d.heldBands = c.heldBands)
      ∧ t = { s with renderer := t.renderer, press := t.press, scheduler := t.scheduler })
  ∧ ∀ (s : State) (n : Nat), (∀ g : Render, s.renderer.current = some g → g.work ≠ n) → n ≠ s.renderer.works →
      exec (.renderComplete n) s = exec .renderStart s

/-- The hold timer's expiry ends the hold (R141): the port awaits the held line sync with the verdict FILL, the band's render
is abandoned and its buffer freed, the filled bands count rises by 1, the held bands count does not, and UNDERRUN is
latched; L stands still. Before the limit, or with no hold, the event changes nothing (log entry 4). That the next band's
render starts at its own step and not at once is the model's choice (log entry 5). -/
def Obligations.HoldExpires : Prop :=
  ∀ s : State,
    (∀ (k n : Nat) (c : Impression), s.press.hold = .holding k n → s.tables.settings.holdLimit ≤ n →
      s.scheduler.impression = some c →
      ∃ t : State, exec .holdExpiry s = .next t
        ∧ t.press = { s.press with hold := .awaiting k .fill } ∧ holding t = false
        ∧ (∀ g : Render, s.renderer.current = some g → g.band = k →
            t.renderer.current = none ∧ t.renderer.buffers[g.buffer] = .free)
        ∧ k < t.renderer.nextBand
        ∧ t.scheduler = { s.scheduler with impression := some { c with filled := c.filled + 1 } }
        ∧ holdsKind t.notices.latched .underrun = true
        ∧ t = { s with press := t.press, renderer := t.renderer, scheduler := t.scheduler, ports := t.ports
                       notices := t.notices })
    ∧ (∀ k n : Nat, s.press.hold = .holding k n → n < s.tables.settings.holdLimit → exec .holdExpiry s = .next s)
    ∧ ((∀ k n : Nat, s.press.hold ≠ .holding k n) → exec .holdExpiry s = .next s)

/-! ## The return direction -/

/-- When the return direction of an UP link that is not quiet becomes free, the arbiter starts the waiting reply, otherwise the
call at the front of the call queue, otherwise the waiting notice, and nothing when none waits (R158); a place freed in the
call queue takes the front call of a link that is not open (R160). A link in EXCHANGE sends its current page (R147), and a
quiet link, or one in another state, sends nothing (R159). Stated where no parcel is held back. -/
def Obligations.ArbiterStartsReplyThenCallThenNotice : Prop :=
  ∀ (s : State) (l : Link), NoneHeldBack s →
    ((portOf s l).state = .up → (portOf s l).quiet = false →
      (∀ r : Reply, (portOf s l).reply = some r →
        exec (.returnDirectionFree l) s =
          .next (setPort l { portOf s l with reply := none, sending := replyParcel s.straps r } s))
      ∧ (∀ (x : CallParcel) (xs : List CallParcel), (portOf s l).reply = none → (portOf s l).calls = x :: xs →
        (((portOf s l.other).state = .up ∧ (portOf s l.other).quiet = false) ∨ (portOf s l.other).calls = [] →
          exec (.returnDirectionFree l) s =
            .next (setPort l { portOf s l with calls := xs, sending := callParcel s.straps x } s))
        ∧ (∀ (y : CallParcel) (ys : List CallParcel),
          ¬((portOf s l.other).state = .up ∧ (portOf s l.other).quiet = false) →
          (portOf s l.other).calls = y :: ys → xs.length < 64 →
          exec (.returnDirectionFree l) s =
            .next (setPort l.other { portOf s l.other with calls := ys }
              (setPort l { portOf s l with calls := xs ++ [y], sending := callParcel s.straps x } s))))
      ∧ (∀ n : Notice, (portOf s l).reply = none → (portOf s l).calls = [] → (portOf s l).notice = some n →
        exec (.returnDirectionFree l) s =
          .next (setPort l { portOf s l with notice := none, sending := noticeParcel s.straps n } s))
      ∧ ((portOf s l).reply = none → (portOf s l).calls = [] → (portOf s l).notice = none →
        exec (.returnDirectionFree l) s = .next (setPort l { portOf s l with sending := [] } s)))
    ∧ (∀ x : Exchange, (portOf s l).state = .exchange → (portOf s l).quiet = false →
        (portOf s l).exchange = some x →
        exec (.returnDirectionFree l) s =
          .next (setPort l { portOf s l with sending := exchangeParcel s.straps x.page } s))
    ∧ (((portOf s l).quiet = true ∨ (portOf s l).state = .down ∨ (portOf s l).state = .sensing
          ∨ (portOf s l).state = .fault) →
        exec (.returnDirectionFree l) s = .next (setPort l { portOf s l with sending := [] } s))

/-- A CONTROL parcel, of whatever code, that arrives while a reply of its link waits is held back (R156, R158), and so is a
parcel of any kind that arrives behind it; when the reply begins to be sent, the parcel held back is taken (log entry 7). -/
def Obligations.ControlWaitsBehindAReply : Prop :=
  (∀ (s : State) (l : Link) (code : Byte) (w : Wire) (r : Reply), NoneHeldBack s → Passes s l 3 code w →
    (portOf s l).reply = some r →
    exec (parcelCommand l 3 code w) s =
      .next (setPort l { portOf s l with heldBack := [parcelCommand l 3 code w] } s))
  ∧ (∀ (s : State) (l : Link) (kind code : Byte) (w : Wire) (r : Reply), (portOf s l).state = .up →
    (portOf s l).reply = some r → (portOf s l).heldBack ≠ [] → (portOf s l.other).heldBack = [] →
    exec (parcelCommand l kind code w) s =
      .next (setPort l
        { portOf s l with heldBack := (portOf s l).heldBack ++ [parcelCommand l kind code w] } s))
  ∧ ∀ (s : State) (l : Link) (kind code : Byte) (w : Wire) (r : Reply), (portOf s l).state = .up →
    (portOf s l).quiet = false → (portOf s l).reply = some r →
    (portOf s l).heldBack = [parcelCommand l kind code w] → (portOf s l.other).heldBack = [] →
    exec (.returnDirectionFree l) s =
      exec (parcelCommand l kind code w)
        (setPort l { portOf s l with reply := none, sending := replyParcel s.straps r, heldBack := [] } s)

/-! ## Notices -/

/-- A receive counter rises by 1 and stops at 65535; its first rise from 0 latches LINK_ERRORS, and nothing else changes but
a notice that this sends (R157, R187). A block that latches a kind (R181, R183): a kind already latched changes nothing; a
clear kind joins the latch; and if it is enabled, the notice slot of the link that R160 chooses for the report link holds
the whole latch with the time mark of this moment, while a notice in the other link's slot is not touched. -/
def Obligations.CountersAndKindsLatch : Prop :=
  (∀ (s : State) (l : Link) (k : ReceiveCounter),
    let t := countReceive l k s
    let before := receiveCount (portOf s l).counters k
    receiveCount (portOf t l).counters k = (if before = 65535 then 65535 else before + 1)
    ∧ (∀ j, j ≠ k → receiveCount (portOf t l).counters j = receiveCount (portOf s l).counters j)
    ∧ (portOf t l).counters.restarts = (portOf s l).counters.restarts
    ∧ (portOf t l.other).counters = (portOf s l.other).counters
    ∧ (before = 0 → holdsKind t.notices.latched .linkErrors = true
        ∧ ∃ u : State, u = setPort l { portOf s l with counters := (portOf t l).counters } s
            ∧ t = latchKind .linkErrors u)
    ∧ (before ≠ 0 → t.notices = s.notices ∧ portOf t l.other = portOf s l.other
        ∧ portOf t l = { portOf s l with counters := (portOf t l).counters })
    ∧ t = { s with ports := t.ports, notices := t.notices })
  ∧ ∀ (s : State) (k : NoticeKind),
    let report := s.tables.settings.reportLink
    let isOpenLink (l : Link) : Prop := (portOf s l).state = .up ∧ (portOf s l).quiet = false
    (holdsKind s.notices.latched k = true → latchKind k s = s)
    ∧ (holdsKind s.notices.latched k = false →
      (latchKind k s).notices = { s.notices with latched := s.notices.latched ||| kindBit k }
      ∧ holdsKind (latchKind k s).notices.latched k = true
      ∧ (∀ j : NoticeKind, j ≠ k → holdsKind (latchKind k s).notices.latched j = holdsKind s.notices.latched j)
      ∧ (holdsKind s.notices.enabled k = false → (latchKind k s).ports = s.ports)
      ∧ (holdsKind s.notices.enabled k = true →
        ∃ l : Link, (l = report ∨ (l = report.other ∧ ¬isOpenLink report ∧ isOpenLink report.other))
          ∧ (isOpenLink report → l = report)
          ∧ (¬isOpenLink report → isOpenLink report.other → l = report.other)
          ∧ (latchKind k s).ports =
              s.ports.set l
                { portOf s l with
                  notice := some { kinds := s.notices.latched ||| kindBit k, mark := s.timeMark } }))
    ∧ latchKind k s = { s with notices := (latchKind k s).notices, ports := (latchKind k s).ports }

/-! ## Seat decisions and calls -/

/-- The freeze of the impression's next band decides, by the roster record and the held slot, every UNDECIDED seat whose first
band it is (R92, R93): WITHHELD where the student is withheld, PLACED with the lock mark set and a lock taken where a READY
version is held, and ABSENT otherwise. Every other seat keeps its entry, the calls of decided seats leave unanswered, and
the next band to freeze rises by 1. -/
def Obligations.FreezeDecidesTheSeatsOfItsBand : Prop :=
  ∀ (s : State) (c : Impression) (p : Plan) (o : Order) (rest : List Order), s.scheduler.impression = some c →
    planOf s c.plan = some p → s.scheduler.queue = o :: rest →
    let due (n : Nat) : Prop :=
      ∃ (e : SeatEntry) (ln : SeatLines), o.decisions[n]? = some e ∧ o.seatLines[n]? = some ln
        ∧ e.decision = .undecided ∧ ln.firstBand = c.nextFreeze
    let ready (i : RosterIndex) : Prop := ∃ h : Held, (entryOf s i).held = some h ∧ h.state = .ready
    ∃ o' : Order, (freezeBand s).scheduler =
        { s.scheduler with queue := o' :: rest, impression := some { c with nextFreeze := c.nextFreeze + 1 } }
      ∧ o' = { o with decisions := o'.decisions }
      ∧ (∀ (n : Nat) (x : Seat), p.seats[n]? = some x → due n →
          ((recordOf s x.index).withheld = true →
            o'.decisions[n]? = some { decision := .withheld, lockMark := false })
          ∧ ((recordOf s x.index).withheld = false → ready x.index →
            o'.decisions[n]? = some { decision := .placed, lockMark := true })
          ∧ ((recordOf s x.index).withheld = false → ¬ready x.index →
            o'.decisions[n]? = some { decision := .absent, lockMark := false })
          ∧ ∀ call ∈ (freezeBand s).seats.calls, ¬(call.tag = c.tag ∧ call.index = x.index))
      ∧ (∀ n : Nat, n < p.seats.length → ¬due n → o'.decisions[n]? = o.decisions[n]?)
      ∧ (∀ i : RosterIndex, (∀ (n : Nat) (x : Seat), p.seats[n]? = some x → due n → x.index ≠ i) →
          entryOf (freezeBand s) i = entryOf s i)
      ∧ (∀ (n : Nat) (x : Seat) (h : Held), p.seats[n]? = some x → due n →
          (∀ (m : Nat) (y : Seat), p.seats[m]? = some y → y.index = x.index → m = n) →
          (entryOf s x.index).held = some h →
          (entryOf (freezeBand s) x.index).held =
            some (if h.state = .ready ∧ (recordOf s x.index).withheld = false then { h with lock := h.lock + 1 } else h))
      ∧ (freezeBand s).tables = s.tables ∧ (freezeBand s).store = s.store ∧ (freezeBand s).press = s.press
      ∧ (freezeBand s).ports = s.ports ∧ (freezeBand s).notices = s.notices

/-- The lines at which freezes and call points are taken (R84, R85, R86). A line sync that is answered within an impression
and does not end it offers the new line count to the Scheduler, and so does one outside its lines. A line count equal to the
freeze line Sp + k·Hb − band lead of the next band freezes that band; then, in a first impression, every seat whose call
line equals it and whose call point has not been taken takes it, in ascending seat number; where nothing falls due nothing
changes. At a beginning every band whose freeze line has been reached is frozen in turn, and then every UNDECIDED seat whose
call line has been reached takes its call point. A call point issues a call with the seat's freeze line as its due line
exactly when the seat is UNDECIDED, the student is not withheld, the held slot is empty or DAMAGED, the incoming slot is
empty or WAITING, and no call of the order for the index stands in the Call List. -/
def Obligations.LinesReachedTakeFreezesAndCalls : Prop :=
  let reached (x l : LineValue) : Prop := x = l ∨ 2 ^ 47 ≤ (x - l).toNat
  let freezeLine (c : Impression) : LineValue :=
    c.start + BitVec.ofNat 48 (c.nextFreeze * c.snapshot.bandHeight) - BitVec.ofNat 48 c.snapshot.bandLead
  let left (c : Impression) (p : Plan) : Nat :=
    (p.height + c.snapshot.bandHeight - 1) / c.snapshot.bandHeight - c.nextFreeze
  let undecided (o : Order) (n : Nat) : Prop := ∃ e : SeatEntry, o.decisions[n]? = some e ∧ e.decision = .undecided
  let wanted (s : State) (c : Impression) (o : Order) (n : Nat) (x : Seat) : Prop :=
    undecided o n ∧ (recordOf s x.index).withheld = false
      ∧ (∀ h : Held, (entryOf s x.index).held = some h → h.state = .damaged)
      ∧ (∀ v : Incoming, (entryOf s x.index).incoming = some v → v.state = .waiting)
      ∧ ∀ call ∈ s.seats.calls, ¬(call.tag = c.tag ∧ call.index = x.index)
  let takes (s : State) (c : Impression) (o : Order) (rest : List Order) (n : Nat) (x : Seat) (g : SeatLines)
      (t : State) : Prop :=
    let u : State :=
      { s with
        scheduler.queue := { o with seatLines := o.seatLines.set n { g with callTaken := true } } :: rest }
    (wanted s c o n x → t = issueCall c.tag x.index g.freezeLine u) ∧ (¬wanted s c o n x → t = u)
  (∀ (s : State) (c d : Impression) (p : Plan) (y : Nat), LineDue s c p y → y + 1 ≠ p.height → Emits s c d y →
    ∃ u : State, exec .lineSync s = .next (offerLine u) ∧ u.press.lineCount = s.press.lineCount + 1
      ∧ u.scheduler = { s.scheduler with impression := some d }
      ∧ u = { s with
          scheduler := u.scheduler, press := u.press, renderer := u.renderer, ports := u.ports, notices := u.notices })
  ∧ (∀ (s : State) (c : Impression) (p : Plan), s.press.hold = .clear → s.scheduler.impression = some c →
    planOf s c.plan = some p → p.height ≤ (s.press.lineCount - c.start).toNat →
    ∃ u : State, exec .lineSync s = .next (offerLine u) ∧ u.press.lineCount = s.press.lineCount + 1
      ∧ u = { s with press := u.press, renderer := u.renderer })
  ∧ ∀ (s : State) (c : Impression) (p : Plan) (o : Order) (rest : List Order), s.scheduler.impression = some c →
    planOf s c.plan = some p → s.scheduler.queue = o :: rest → 0 < c.snapshot.bandHeight →
    c.snapshot.bandHeight < 2 ^ 48 →
    let l := s.press.lineCount
    let called (n : Nat) (x : Seat) (g : SeatLines) : Prop :=
      c.first = true ∧ p.seats[n]? = some x ∧ o.seatLines[n]? = some g ∧ g.callTaken = false ∧ g.callLine = some l
    let calledAtBeginning (n : Nat) (x : Seat) (g : SeatLines) : Prop :=
      c.first = true ∧ p.seats[n]? = some x ∧ o.seatLines[n]? = some g ∧ g.callTaken = false ∧ undecided o n
        ∧ ∃ a : LineValue, g.callLine = some a ∧ reached a l
    let freezes : Prop := 0 < left c p ∧ freezeLine c = l
    let freezesAtBeginning : Prop := 0 < left c p ∧ reached (freezeLine c) l
    (freezes → offerLine s = offerLine (freezeBand s))
    ∧ (¬freezes →
      (∀ (n : Nat) (x : Seat) (g : SeatLines), called n x g →
        (∀ (m : Nat) (z : Seat) (k : SeatLines), m < n → ¬called m z k) →
        ∃ t : State, takes s c o rest n x g t ∧ offerLine s = offerLine t)
      ∧ ((∀ (n : Nat) (x : Seat) (g : SeatLines), ¬called n x g) → offerLine s = s))
    ∧ ∀ bands : Nat, left c p ≤ bands →
      (freezesAtBeginning → takeReached bands s = takeReached bands (freezeBand s))
      ∧ (¬freezesAtBeginning →
        (∀ (n : Nat) (x : Seat) (g : SeatLines), calledAtBeginning n x g →
          (∀ (m : Nat) (z : Seat) (k : SeatLines), m < n → ¬calledAtBeginning m z k) →
          ∃ t : State, takes s c o rest n x g t ∧ takeReached bands s = takeReached bands t)
        ∧ ((∀ (n : Nat) (x : Seat) (g : SeatLines), ¬calledAtBeginning n x g) → takeReached bands s = s))

/-- A tile call that can be carried joins the Call List behind every call whose due line is the same or nearer, judged by its
distance ahead of L, and ahead of every later one, and its parcel joins the back of the routed link's call queue with its
rank; one that cannot be carried is dropped, counted, and latches CALL_DROPPED (R87, R88). -/
def Obligations.CallJoinsTheListByItsDueLine : Prop :=
  ∀ (s : State) (tag : BitVec 16) (i : RosterIndex) (due : LineValue),
    let t := issueCall tag i due s
    let link := routeLink s.tables.settings.callLink s
    let ahead (x : LineValue) : Nat := (x - s.press.lineCount).toNat
    ((s.seats.calls.length < 64 ∧ (portOf s link).calls.length < 64) →
      ∃ k ≤ s.seats.calls.length,
        t.seats =
          { s.seats with
            calls := s.seats.calls.take k
              ++ { tag := tag, index := i, studentId := (recordOf s i).studentId, due := due, mark := s.timeMark }
              :: s.seats.calls.drop k }
        ∧ (∀ c ∈ s.seats.calls.take k, ahead c.due ≤ ahead due)
        ∧ (s.seats.calls.Pairwise (fun c d => ahead c.due ≤ ahead d.due) →
            (∀ c ∈ s.seats.calls.drop k, ahead due < ahead c.due)
            ∧ t.seats.calls.Pairwise (fun c d => ahead c.due ≤ ahead d.due))
        ∧ t = { s with
            seats := t.seats
            ports := s.ports.set link
              { portOf s link with
                calls := (portOf s link).calls
                  ++ [{ studentId := (recordOf s i).studentId, index := i, tag := tag, due := due
                        remaining := due - s.press.lineCount, mark := s.timeMark, rank := k }] } })
    ∧ (¬(s.seats.calls.length < 64 ∧ (portOf s link).calls.length < 64) →
      t.seats =
        { s.seats with dropped := if s.seats.dropped = 65535 then 65535 else s.seats.dropped + 1 }
      ∧ holdsKind t.notices.latched .callDropped = true
      ∧ t = { s with seats := t.seats, notices := t.notices, ports := t.ports })

/-! ## Controls -/

/-- A CONTROL parcel supersedes a table train staged on its link (R162, R170) and is then refused by the tests of R162 in
their order: an unknown code, the hall address where R165 does not allow the control, a payload shorter or longer than the
control's own (section 12.3). A refusal changes nothing but the status fields, the Last Control record and the reply; those
of REPORT STATUS and REPORT LAST CONTROL leave even the first two. The code and the payload length of every control are those
of section 12.3. -/
def Obligations.ControlTestsRefuse : Prop :=
  (∀ (s : State) (l : Link) (c : Control) (w : Wire), Reaches s l (controlCode c) w → NoneHeldBack s →
    let refused (o : ControlOutcome) : Prop :=
      ∃ t : State, exec (controlCommand c l w) s = .next t
        ∧ (if c = .reportStatus ∨ c = .reportLastControl then
            Reported l (controlCode c) w o [] false (supersede l s) t
          else Concluded l (controlCode c) w o [] false (supersede l s) t)
    let allowed : Prop :=
      w.address ≠ 15
        ∨ c ∈ [.setTime, .unitReset, .inhibitAttention, .restoreAttention, .withhold, .release]
    (¬allowed → refused .notHall)
    ∧ (allowed → w.payload.length < controlLength c → refused .short)
    ∧ (allowed → controlLength c < w.payload.length → refused .long))
  ∧ (∀ (s : State) (l : Link) (code : Byte) (w : Wire), Reaches s l code w → NoneHeldBack s →
    (code.toNat = 0 ∨ 28 < code.toNat) →
    ∃ t : State, exec (.unknownControl l code w) s = .next t
      ∧ Concluded l code w .unknownControl [] false (supersede l s) t)
  ∧ (∀ (s : State) (l : Link),
    supersede l s =
      setSlot l
        { staging := none
          superseded :=
            if (slotOf s l).staging = none ∨ (slotOf s l).superseded = 65535 then (slotOf s l).superseded
            else (slotOf s l).superseded + 1 } s)
  ∧ ∀ c : Control,
    (c, controlCode c, controlLength c) ∈
      ([(.reportStatus, 1, 0), (.reportLastControl, 2, 0), (.unitReset, 3, 0), (.quietOther, 4, 0),
        (.unquietOther, 5, 0), (.inhibitAttention, 6, 0), (.restoreAttention, 7, 0), (.setTime, 8, 4),
        (.setNoticeEnables, 9, 4), (.readNotices, 10, 0), (.readCounters, 11, 1), (.settings, 12, 14),
        (.queueOrder, 13, 4), (.rushOrder, 14, 4), (.withdrawOrder, 15, 2), (.readQueue, 16, 0), (.withhold, 17, 2),
        (.release, 18, 2), (.dropTile, 19, 2), (.purgeStore, 20, 0), (.clearPlan, 21, 1), (.readDirectory, 22, 2),
        (.readDeliveryLog, 23, 5), (.readPageLog, 24, 5), (.loadPlan, 25, 1), (.loadRoster, 26, 4),
        (.loadTone, 27, 1), (.loadGlyphs, 28, 0)] : List (Control × Byte × Nat))

/-- REPORT STATUS answers with the Unit Status alone, and REPORT LAST CONTROL with the Last Control record, poisoned with five
zero bytes when it is empty; neither changes the status fields or the record (R163, R173, R174, R177). -/
def Obligations.ReportsAnswer : Prop :=
  ∀ (s : State) (l : Link) (w : Wire),
    (Asked s l .reportStatus w →
      ∃ t : State, exec (.reportStatus l w) s = .next t ∧ Reported l 1 w .taken [] false (supersede l s) t)
    ∧ (Asked s l .reportLastControl w →
      (∀ r : LastControl, s.control.last = some r →
        ∃ t : State, exec (.reportLastControl l w) s = .next t
          ∧ Reported l 2 w .taken
              [r.code, r.tag.extractLsb' 8 8, r.tag.extractLsb' 0 8, linkByte r.link, outcomeByte r.outcome] false
              (supersede l s) t)
      ∧ (s.control.last = none →
        ∃ t : State, exec (.reportLastControl l w) s = .next t
          ∧ Reported l 2 w .taken [0, 0, 0, 0, 0] true (supersede l s) t))

/-- UNIT RESET is concluded first, with its reply, and then clears CONTROL_ERROR, HALL_RECEIVED, the attention inhibit and both
quiet states, and nothing else but what moves to a link that becomes open (R175). QUIET OTHER makes the other link quiet and
discards the reply waiting on it; UNQUIET OTHER clears its quiet state; neither touches the quiet state of its own link. The
calls and the notice of a link that is not open move to the one that is, as `Rerouted` says (R159, R160, R176). -/
def Obligations.ResetAndQuietControlsAct : Prop :=
  (∀ (s : State) (l : Link) (w : Wire), Asked s l .unitReset w →
    ∃ u t : State, Concluded l 3 w .taken [] false (supersede l s) u ∧ exec (.unitReset l w) s = .next t
      ∧ t = { u with
          control.controlError := false
          control.hallReceived := false
          notices.inhibit := false
          ports := t.ports }
      ∧ Rerouted
          { u with
            control.controlError := false
            control.hallReceived := false
            notices.inhibit := false
            ports := ⟨{ portOf u .a with quiet := false }, { portOf u .b with quiet := false }⟩ } t
      ∧ (∀ m : Link, portOf t m =
          { portOf u m with quiet := false, calls := (portOf t m).calls, notice := (portOf t m).notice })
      ∧ (((portOf s .a).state = .up ∧ (portOf s .b).state = .up) →
          ∀ m : Link, (portOf t m).calls = (portOf s m).calls ∧ (portOf t m).notice = (portOf s m).notice))
  ∧ ∀ (s : State) (l : Link) (w : Wire), NoneHeldBack s →
    (Asked s l .quietOther w →
      ∃ u t : State, exec (.quietOther l w) s = .next t ∧ Concluded l 4 w .taken [] false u t
        ∧ u = { supersede l s with ports := u.ports }
        ∧ Rerouted (setPort l.other { portOf s l.other with quiet := true, reply := none } (supersede l s)) u
        ∧ portOf u l.other =
            { portOf s l.other with
              quiet := true, reply := none, calls := (portOf u l.other).calls, notice := (portOf u l.other).notice }
        ∧ portOf u l =
            { portOf s l with calls := (portOf u l).calls, notice := (portOf u l).notice }
        ∧ (if (portOf s l).quiet then
            (portOf u l).calls = (portOf s l).calls ∧ (portOf u l.other).calls = (portOf s l.other).calls
          else
            (portOf u l).calls =
              (portOf s l).calls ++ (portOf s l.other).calls.take (64 - (portOf s l).calls.length)
            ∧ (portOf u l.other).calls = (portOf s l.other).calls.drop (64 - (portOf s l).calls.length)
            ∧ (portOf u l.other).notice = none))
    ∧ (Asked s l .unquietOther w →
      ∃ u t : State, exec (.unquietOther l w) s = .next t ∧ Concluded l 5 w .taken [] false u t
        ∧ u = { supersede l s with ports := u.ports }
        ∧ Rerouted (setPort l.other { portOf s l.other with quiet := false } (supersede l s)) u
        ∧ portOf u l.other =
            { portOf s l.other with
              quiet := false, calls := (portOf u l.other).calls, notice := (portOf u l.other).notice }
        ∧ portOf u l =
            { portOf s l with calls := (portOf u l).calls, notice := (portOf u l).notice }
        ∧ ((portOf s l.other).state = .up → (portOf s l).quiet = true →
            (portOf u l.other).calls =
              (portOf s l.other).calls ++ (portOf s l).calls.take (64 - (portOf s l.other).calls.length)
            ∧ (portOf u l).calls = (portOf s l).calls.drop (64 - (portOf s l.other).calls.length)
            ∧ (portOf u l).notice = none))

/-- The controls of the Notice Unit and the Time Base (R179, R182, R184, R185, R186, R187): INHIBIT ATTENTION and RESTORE
ATTENTION set and clear the inhibit; SET TIME sets the time mark; SET NOTICE ENABLES changes the enables of the selected kinds
alone and refuses a set that names no kind; READ NOTICES returns and clears the latch; READ COUNTERS returns 36 bytes of
counters and, asked to, clears every counter. -/
def Obligations.NoticeAndTimeControlsAct : Prop :=
  ∀ (s : State) (l : Link) (w : Wire),
    (Asked s l .inhibitAttention w →
      ∃ t : State, exec (.inhibitAttention l w) s = .next t
        ∧ Concluded l 6 w .taken [] false { supersede l s with notices.inhibit := true } t)
    ∧ (Asked s l .restoreAttention w →
      ∃ t : State, exec (.restoreAttention l w) s = .next t
        ∧ Concluded l 7 w .taken [] false { supersede l s with notices.inhibit := false } t)
    ∧ (Asked s l .setTime w →
      ∃ t : State, exec (.setTime l w) s = .next t
        ∧ Concluded l 8 w .taken [] false { supersede l s with timeMark := BitVec.ofNat 32 (be32 w.payload 0) } t)
    ∧ (Asked s l .setNoticeEnables w →
      ((be16 w.payload 0 < 512 ∧ be16 w.payload 2 < 512) →
        ∃ u t : State, exec (.setNoticeEnables l w) s = .next t ∧ Concluded l 9 w .taken [] false u t
          ∧ u = { supersede l s with notices.enabled := u.notices.enabled }
          ∧ ∀ k : NoticeKind, holdsKind u.notices.enabled k =
              if holdsKind (BitVec.ofNat 9 (be16 w.payload 0)) k then holdsKind (BitVec.ofNat 9 (be16 w.payload 2)) k
              else holdsKind s.notices.enabled k)
      ∧ ((512 ≤ be16 w.payload 0 ∨ 512 ≤ be16 w.payload 2) →
        ∃ t : State, exec (.setNoticeEnables l w) s = .next t
          ∧ Concluded l 9 w .badArgument [] false (supersede l s) t))
    ∧ (Asked s l .readNotices w →
      ∃ t : State, exec (.readNotices l w) s = .next t
        ∧ Concluded l 10 w .taken
            [BitVec.ofNat 8 (s.notices.latched.toNat / 256), BitVec.ofNat 8 s.notices.latched.toNat] false
            { supersede l s with notices.latched := 0 } t)
    ∧ (Asked s l .readCounters w →
      (byteAt w.payload 0 = 0 →
        ∃ t : State, exec (.readCounters l w) s = .next t
          ∧ Concluded l 11 w .taken (counterData (supersede l s)) false (supersede l s) t)
      ∧ (byteAt w.payload 0 = 1 →
        ∃ u t : State, exec (.readCounters l w) s = .next t
          ∧ Concluded l 11 w .taken (counterData (supersede l s)) false u t
          ∧ (∀ m : Link, portOf u m =
                { portOf s m with
                  counters :=
                    { oversize := 0, checkError := 0, unknownKind := 0, misaddressed := 0, stray := 0, restarts := 0 } }
              ∧ slotOf u m = { slotOf (supersede l s) m with superseded := 0 })
          ∧ u = { supersede l s with ports := u.ports, control.slots := u.control.slots, seats.dropped := 0 })
      ∧ (1 < byteAt w.payload 0 →
        ∃ t : State, exec (.readCounters l w) s = .next t
          ∧ Concluded l 11 w .badArgument [] false (supersede l s) t)
      ∧ (counterData (supersede l s)).length = 36)

/-- SETTINGS replaces the whole record when every field is in its range and is refused BAD_ARGUMENT otherwise (R20). At once, an
open train past the new train gap expires on either link, a hold past the new hold limit expires, and the low-water test is
made, which may reclaim held versions and latches STORE_LOW while the free count stays below the new low-water (R22, R39,
R141, R171, R60). The order of the three is the model's choice (log entry 15). -/
def Obligations.SettingsReplaceTheRecord : Prop :=
  ∀ (s : State) (l : Link) (w : Wire), Asked s l .settings w →
    let p := w.payload
    let x : Settings :=
      { bandHeight := byteAt p 0, bandLead := be16 p 1, callLead := be16 p 3, pageGap := be16 p 5
        trainGap := byteAt p 7, holdLimit := byteAt p 8, lowWater := be16 p 9
        freeAfterUse := decide (byteAt p 11 = 1)
        reportLink := if byteAt p 12 = 1 then .b else .a
        callLink := if byteAt p 13 = 1 then .b else .a }
    let inRange : Prop :=
      (x.bandHeight = 16 ∨ x.bandHeight = 32 ∨ x.bandHeight = 64) ∧ 16 ≤ x.bandLead ∧ x.bandLead ≤ 4096
        ∧ x.pageGap ≤ 4096 ∧ 1 ≤ x.trainGap ∧ x.trainGap ≤ 100 ∧ x.holdLimit ≤ 250 ∧ x.lowWater ≤ 2048
        ∧ byteAt p 11 ≤ 1 ∧ byteAt p 12 ≤ 1 ∧ byteAt p 13 ≤ 1
    (inRange →
      ∃ u t : State, exec (.settings l w) s = .next t ∧ Concluded l 12 w .taken [] false u t
        ∧ u.tables = { s.tables with settings := x }
        ∧ (∀ (m : Link) (y : Train), trainOf s m = some y →
            trainOf u m = if x.trainGap ≤ y.gapTimer then none else some y)
        ∧ (∀ (m : Link) (g : Staging), (slotOf (supersede l s) m).staging = some g →
            (slotOf u m).staging = if x.trainGap ≤ g.gapTimer then none else some g)
        ∧ (∀ k n : Nat, s.press.hold = .holding k n →
            u.press = if x.holdLimit ≤ n then { s.press with hold := .awaiting k .fill } else s.press)
        ∧ ((∀ k n : Nat, s.press.hold ≠ .holding k n) → u.press = s.press ∧ u.renderer = s.renderer)
        ∧ (x.lowWater ≤ s.store.freeCount → u.store.arrival = s.store.arrival)
        ∧ (u.store.freeCount < x.lowWater → holdsKind u.notices.latched .storeLow = true)
        ∧ u.scheduler.queue = s.scheduler.queue ∧ u.seats = s.seats ∧ u.timeMark = s.timeMark
        ∧ u.store.bytes = s.store.bytes
        ∧ ∃ v : State, u = lowWaterTest v ∧ v.tables = u.tables ∧ v.store.arrival = s.store.arrival
            ∧ s.store.freeCount ≤ v.store.freeCount
            ∧ ∀ i : RosterIndex, (entryOf v i).held = (entryOf s i).held)
    ∧ (¬inRange →
      ∃ t : State, exec (.settings l w) s = .next t
        ∧ Concluded l 12 w .badArgument [] false (supersede l s) t)

/-- QUEUE ORDER and RUSH ORDER make the checks of R67 in their order, and, with an impression in progress, a taken order joins
the queue: at the back, or, for a rush order, behind the ACTIVE or ENDING head and the run of QUEUED rush orders (R67, R68).
Its seats are UNDECIDED with their lock marks clear, and the pending uses of every index its plan names rise (R12, R66). -/
def Obligations.OrdersJoinTheQueue : Prop :=
  ∀ (s : State) (l : Link) (w : Wire) (rush : Bool),
    let control : Control := if rush then .rushOrder else .queueOrder
    let command : Instr := if rush then .rushOrder l w else .queueOrder l w
    Asked s l control w →
    let tag := BitVec.ofNat 16 (be16 w.payload 0)
    let copies := byteAt w.payload 3
    let bad : Prop := be16 w.payload 0 = 0 ∨ 7 < byteAt w.payload 2 ∨ copies = 0
    let full : Prop := 16 ≤ s.scheduler.queue.length
    let twice : Prop := ∃ o ∈ s.scheduler.queue, o.tag = tag
    let refused (cause : ControlOutcome) : Prop :=
      ∃ t : State, exec command s = .next t ∧ Concluded l (controlCode control) w cause [] false (supersede l s) t
    (bad → refused .badArgument)
    ∧ (¬bad → full → refused .queueFull)
    ∧ (¬bad → ¬full → twice → refused .duplicateTag)
    ∧ (¬bad → ¬full → ¬twice → ∀ id : Fin 8, byteAt w.payload 2 = id.val →
      (planOf s id = none → refused .noSuch)
      ∧ ∀ p : Plan, planOf s id = some p →
        ((∃ x ∈ p.seats, (recordOf s x.index).listed = false) → refused .noSuch)
        ∧ ((∀ x ∈ p.seats, (recordOf s x.index).listed = true) → s.scheduler.impression ≠ none →
          let o : Order :=
            { tag := tag, plan := id, copies := copies, done := 0, rush := rush, state := .queued
              decisions := List.replicate p.seats.length { decision := .undecided, lockMark := false }
              linesFixed := false, seatLines := [] }
          let isRush : Order → Bool := fun y => decide (y.state = .queued) && y.rush
          ∃ u t : State, exec command s = .next t ∧ Concluded l (controlCode control) w .taken [] false u t
            ∧ u.scheduler = { s.scheduler with queue := u.scheduler.queue }
            ∧ (rush = false → u.scheduler.queue = s.scheduler.queue ++ [o])
            ∧ (∀ (h : Order) (rest : List Order), rush = true → s.scheduler.queue = h :: rest →
                (h.state = .active ∨ h.state = .ending) →
                u.scheduler.queue = h :: (rest.takeWhile isRush ++ o :: rest.dropWhile isRush))
            ∧ (∀ i : RosterIndex, recordOf u i =
                { recordOf s i with
                  uses := (recordOf s i).uses + p.seats.countP fun x => decide (x.index = i) })
            ∧ u = { supersede l s with scheduler := u.scheduler, tables.roster := u.tables.roster }))

/-- An order taken while the Scheduler is IDLE becomes the head and begins its first impression at once (R69, R70, R71, R83, R85,
R129, R134): the start line is L + band lead, or prevEnd + page gap where that lies further ahead of L; the context is built
from the settings as they stand; and band 0 is frozen there and then when its freeze line has been reached. That band 0's
render starts at its own step and not at once is the model's choice (log entry 5). -/
def Obligations.OrderOnAnIdleUnitBegins : Prop :=
  ∀ (s : State) (l : Link) (w : Wire) (rush : Bool) (id : Fin 8) (p : Plan),
    let control : Control := if rush then .rushOrder else .queueOrder
    let command : Instr := if rush then .rushOrder l w else .queueOrder l w
    Asked s l control w → s.scheduler.impression = none → s.scheduler.queue = [] → be16 w.payload 0 ≠ 0 →
    byteAt w.payload 2 = id.val → byteAt w.payload 3 ≠ 0 → planOf s id = some p →
    (∀ x ∈ p.seats, (recordOf s x.index).listed = true) → 0 < p.height → 0 < s.tables.settings.bandHeight →
    let x := s.tables.settings
    let other := s.scheduler.prevEnd + BitVec.ofNat 48 x.pageGap
    let ahead := (other - s.press.lineCount).toNat
    let start := if x.bandLead < ahead ∧ ahead < 2 ^ 47 then other else s.press.lineCount + BitVec.ofNat 48 x.bandLead
    ∃ (u t : State) (c : Impression) (o : Order), exec command s = .next t
      ∧ Concluded l (controlCode control) w .taken [] false u t
      ∧ u.scheduler.queue = [o] ∧ u.scheduler.impression = some c
      ∧ o.tag = BitVec.ofNat 16 (be16 w.payload 0) ∧ o.plan = id ∧ o.copies = byteAt w.payload 3 ∧ o.done = 0
      ∧ o.rush = rush ∧ o.state = .active ∧ o.linesFixed = true ∧ o.decisions.length = p.seats.length
      ∧ c.tag = o.tag ∧ c.plan = id ∧ c.copy = 1 ∧ c.first = true ∧ c.start = start
      ∧ c.endLine = start + BitVec.ofNat 48 p.height - 1
      ∧ c.snapshot =
          { bandHeight := x.bandHeight, bandLead := x.bandLead, callLead := x.callLead, pageGap := x.pageGap }
      ∧ c.filled = 0 ∧ c.heldBands = 0 ∧ c.withholdPending = false
      ∧ (start = s.press.lineCount + BitVec.ofNat 48 x.bandLead → 1 ≤ c.nextFreeze)
      ∧ u.press = { s.press with blankWidth := p.width, mode := none } ∧ u.renderer.nextBand = 0
      ∧ u.store = s.store ∧ u.intake.trains = s.intake.trains ∧ running t = true
      ∧ (∃ (a b : State) (h : Order), a = { supersede l s with tables.roster := a.tables.roster, scheduler.queue := [h] }
          ∧ (∀ i : RosterIndex, recordOf a i =
              { recordOf s i with
                uses := (recordOf s i).uses + p.seats.countP fun x => decide (x.index = i) })
          ∧ h =
            { tag := o.tag, plan := id, copies := o.copies, done := 0, rush := rush, state := .queued
              decisions := List.replicate p.seats.length { decision := .undecided, lockMark := false }
              linesFixed := false, seatLines := [] }
          ∧ Begins h [] p a b ∧ u = takeReached ((p.height + x.bandHeight - 1) / x.bandHeight) b)

/-- WITHDRAW ORDER (R80, R81): tag 0 is refused BAD_ARGUMENT and a tag that no order holds NO_SUCH; an ACTIVE order becomes
ENDING and an ENDING one is not changed; a QUEUED or SUSPENDED one leaves the queue, its plan's indices each give back their
pending use and its locks are given back, which may promote or free versions, its calls leave, free-after-use and the
low-water test follow (`Removed`), and the impression in progress and the ORDER_DONE kind are untouched. -/
def Obligations.WithdrawnOrderLeavesOrEnds : Prop :=
  ∀ (s : State) (l : Link) (w : Wire), Asked s l .withdrawOrder w →
    let tag := BitVec.ofNat 16 (be16 w.payload 0)
    (be16 w.payload 0 = 0 →
      ∃ t : State, exec (.withdrawOrder l w) s = .next t
        ∧ Concluded l 15 w .badArgument [] false (supersede l s) t)
    ∧ (be16 w.payload 0 ≠ 0 → (∀ o ∈ s.scheduler.queue, o.tag ≠ tag) →
      ∃ t : State, exec (.withdrawOrder l w) s = .next t ∧ Concluded l 15 w .noSuch [] false (supersede l s) t)
    ∧ ∀ o : Order, be16 w.payload 0 ≠ 0 → o ∈ s.scheduler.queue → o.tag = tag →
      (∀ x ∈ s.scheduler.queue, x.tag = tag → x = o) →
      (o.state = .active →
        ∃ t : State, exec (.withdrawOrder l w) s = .next t
          ∧ Concluded l 15 w .taken [] false
              { supersede l s with
                scheduler.queue :=
                  s.scheduler.queue.map fun x => if x.tag = tag then { x with state := .ending } else x } t)
      ∧ (o.state = .ending →
        ∃ t : State, exec (.withdrawOrder l w) s = .next t ∧ Concluded l 15 w .taken [] false (supersede l s) t)
      ∧ (∀ p : Plan, (o.state = .queued ∨ o.state = .suspended) → planOf s o.plan = some p →
        ∃ u t : State, exec (.withdrawOrder l w) s = .next t ∧ Concluded l 15 w .taken [] false u t
          ∧ u.scheduler = { s.scheduler with queue := s.scheduler.queue.filter fun x => decide (x.tag ≠ tag) }
          ∧ (∀ i : RosterIndex, recordOf u i =
              { recordOf s i with
                uses := (recordOf s i).uses - p.seats.countP fun x => decide (x.index = i) })
          ∧ u.seats = { s.seats with calls := s.seats.calls.filter fun c => decide (c.tag ≠ tag) }
          ∧ holdsKind u.notices.latched .orderDone = holdsKind s.notices.latched .orderDone
          ∧ u.press = s.press ∧ u.renderer = s.renderer ∧ u.intake.trains = s.intake.trains
          ∧ u.store.bytes = s.store.bytes
          ∧ ((p.seats.map Seat.index).Nodup →
              ∃ v : State, Removed o p (supersede l s) v ∧ u = lowWaterTest v))

/-- The reads return their data and change nothing but what a conclusion changes (R65, R42, R177, R178): the queue, a directory
entry, or consecutive existing records from a sequence number on; an item that does not exist answers TAKEN, poisoned, with
zero bytes, and an argument out of range is refused BAD_ARGUMENT. A record exists where the slot of its sequence number,
modulo 256 or modulo 64, holds a record of that very number (R177). -/
def Obligations.ReadsReturnTheirData : Prop :=
  ∀ (s : State) (l : Link) (w : Wire),
    let concludes (c : Control) (i : Instr) (o : ControlOutcome) (data : List Byte) (poisoned : Bool) : Prop :=
      ∃ t : State, exec i s = .next t ∧ Concluded l (controlCode c) w o data poisoned (supersede l s) t
    let first := BitVec.ofNat 32 (be32 w.payload 0)
    let count := byteAt w.payload 4
    let delivered (q : BitVec 32) (r : DeliveryRecord) : Prop :=
      s.intake.log[Fin.ofNat 256 q.toNat] = some r ∧ r.sequence = q
    let printed (q : BitVec 32) (r : PageRecord) : Prop :=
      s.scheduler.log[Fin.ofNat 64 q.toNat] = some r ∧ r.sequence = q
    (Asked s l .readQueue w → concludes .readQueue (.readQueue l w) .taken (queueData s) false
      ∧ (queueData s).length = 240)
    ∧ (Asked s l .readDirectory w →
      (1024 ≤ be16 w.payload 0 → concludes .readDirectory (.readDirectory l w) .badArgument [] false)
      ∧ ∀ i : RosterIndex, be16 w.payload 0 = i.val →
        ((recordOf s i).listed = true →
          concludes .readDirectory (.readDirectory l w) .taken (directoryData s i) false)
        ∧ ((recordOf s i).listed = false →
          concludes .readDirectory (.readDirectory l w) .taken (List.replicate 298 0) true)
        ∧ (directoryData s i).length = 298)
    ∧ (Asked s l .readDeliveryLog w →
      ((count < 1 ∨ 8 < count) → concludes .readDeliveryLog (.readDeliveryLog l w) .badArgument [] false)
      ∧ ((1 ≤ count ∧ count ≤ 8) →
        ((∀ r : DeliveryRecord, ¬delivered first r) →
          concludes .readDeliveryLog (.readDeliveryLog l w) .taken (List.replicate 193 0) true)
        ∧ ∀ rs : List DeliveryRecord, rs ≠ [] → rs.length ≤ count →
          (∀ (j : Nat) (r : DeliveryRecord), rs[j]? = some r → delivered (first + BitVec.ofNat 32 j) r) →
          (rs.length < count → ∀ r : DeliveryRecord, ¬delivered (first + BitVec.ofNat 32 rs.length) r) →
          concludes .readDeliveryLog (.readDeliveryLog l w) .taken (deliveryData rs) false))
    ∧ (Asked s l .readPageLog w →
      ((count < 1 ∨ 4 < count) → concludes .readPageLog (.readPageLog l w) .badArgument [] false)
      ∧ ((1 ≤ count ∧ count ≤ 4) →
        ((∀ r : PageRecord, ¬printed first r) →
          concludes .readPageLog (.readPageLog l w) .taken (List.replicate 185 0) true)
        ∧ ∀ rs : List PageRecord, rs ≠ [] → rs.length ≤ count →
          (∀ (j : Nat) (r : PageRecord), rs[j]? = some r → printed (first + BitVec.ofNat 32 j) r) →
          (rs.length < count → ∀ r : PageRecord, ¬printed (first + BitVec.ofNat 32 rs.length) r) →
          concludes .readPageLog (.readPageLog l w) .taken (pageData rs) false))

/-- The layouts of what the unit sends (R87, R147, R154, R164, R180, R183, R188; sections 12.1, 12.5 and 12.6): the Unit Status
bits and the outcome codes, the data of each read byte by byte, the payloads of calls, notices and exchange pages, and the
header and check of every parcel. A kind set has each notice kind at its own bit (section 12.3). The check is computed from
all ones, each byte entering at the high end and shifted out bit by bit, most significant first, with the polynomial
x^16 + x^12 + x^5 + 1, over the eight header bytes and then the payload. Fields are high byte first, and what no record
fills is 0. That the lock count byte of an
incoming version is 0 is the model's choice (log entry 27). -/
def Obligations.RepliesAndParcelsAreLaidOut : Prop :=
  let linkAt (l : Link) : Nat := match l with
    | .a => 0
    | .b => 1
  (∀ s : State,
    (unitStatus s).getLsbD 0 = s.control.controlError ∧ (unitStatus s).getLsbD 1 = s.control.hallReceived
    ∧ ((unitStatus s).getLsbD 2 = true ↔ s.notices.inhibit = false
        ∧ ∃ k : NoticeKind, holdsKind s.notices.latched k = true ∧ holdsKind s.notices.enabled k = true)
    ∧ (unitStatus s).getLsbD 3 = (portOf s .a).quiet ∧ (unitStatus s).getLsbD 4 = (portOf s .b).quiet
    ∧ ((unitStatus s).getLsbD 5 = true ↔ s.scheduler.impression ≠ none)
    ∧ ((unitStatus s).getLsbD 6 = true ↔ s.store.freeCount < s.tables.settings.lowWater)
    ∧ ((unitStatus s).getLsbD 7 = true ↔ ∃ k n : Nat, s.press.hold = .holding k n))
  ∧ ([ControlOutcome.taken, .unknownControl, .long, .short, .badArgument, .notHall, .pinned, .queueFull, .duplicateTag,
      .noSuch, .busySession, .pageRange, .rowRange, .rowOrder, .seatRange, .seatOverlap, .duplicateStudent, .planSpace,
      .duplicateId].map outcomeByte = (List.range 19).map (BitVec.ofNat 8)
    ∧ ∀ l : Link, (linkByte l).toNat = linkAt l)
  ∧ (∀ s : State,
    let d := counterData s
    d.length = 36
    ∧ (∀ l : Link,
        let at_ := 14 * linkAt l
        let c := (portOf s l).counters
        be16 d at_ = c.oversize.toNat ∧ be16 d (at_ + 2) = c.checkError.toNat ∧ be16 d (at_ + 4) = c.unknownKind.toNat
        ∧ be16 d (at_ + 6) = c.misaddressed.toNat ∧ be16 d (at_ + 8) = c.stray.toNat
        ∧ be16 d (at_ + 10) = c.restarts.toNat ∧ be16 d (at_ + 12) = (slotOf s l).superseded.toNat
        ∧ byteAt d (34 + linkAt l) =
            match (portOf s l).state with
            | .down => 0
            | .sensing => 1
            | .exchange => 2
            | .up => 3
            | .fault => 4)
    ∧ be16 d 28 = s.seats.dropped.toNat ∧ be16 d 30 = s.store.freeCount % 65536
    ∧ be16 d 32 = s.store.arrival.length % 65536)
  ∧ (∀ s : State, s.scheduler.queue.length ≤ 16 →
    let d := queueData s
    d.length = 240 ∧ byteAt d 1 = s.scheduler.queue.length ∧ byteAt d 3 = 0
    ∧ (s.scheduler.impression = none → byteAt d 0 = 0 ∧ byteAt d 2 = 0 ∧ be48 d 4 = 0 ∧ be48 d 10 = 0)
    ∧ (∀ c : Impression, s.scheduler.impression = some c →
        byteAt d 0 = 1 ∧ byteAt d 2 = c.copy % 256 ∧ be48 d 4 = c.start.toNat ∧ be48 d 10 = c.endLine.toNat)
    ∧ (∀ (j : Nat) (o : Order), s.scheduler.queue[j]? = some o →
        let at_ := 16 + 14 * j
        let counted (k : Decision) : Nat := (o.decisions.countP fun e => decide (e.decision = k)) % 65536
        be16 d at_ = o.tag.toNat ∧ byteAt d (at_ + 2) = o.plan.val
        ∧ byteAt d (at_ + 3) =
            (match o.state with
              | .queued => 0
              | .active => 1
              | .suspended => 2
              | .ending => 3) + (if o.rush then 16 else 0)
        ∧ byteAt d (at_ + 4) = o.copies % 256 ∧ byteAt d (at_ + 5) = o.done % 256
        ∧ be16 d (at_ + 6) = counted .undecided ∧ be16 d (at_ + 8) = counted .placed
        ∧ be16 d (at_ + 10) = counted .absent ∧ be16 d (at_ + 12) = counted .withheld)
    ∧ ∀ k : Nat, 16 + 14 * s.scheduler.queue.length ≤ k → byteAt d k = 0)
  ∧ (∀ (s : State) (i : RosterIndex),
    let d := directoryData s i
    let laid (at_ state lock : Nat) (v : Version) : Prop :=
      byteAt d at_ = state
      ∧ byteAt d (at_ + 1) =
          (if v.retake then 1 else 0) + (if v.late then 2 else 0) + (if v.poisonedSeen then 4 else 0)
      ∧ byteAt d (at_ + 2) = lock % 256 ∧ byteAt d (at_ + 3) = v.session.val
      ∧ be16 d (at_ + 4) = v.width % 65536 ∧ be16 d (at_ + 6) = v.height % 65536
      ∧ be16 d (at_ + 8) = v.eyeRow % 65536 ∧ be16 d (at_ + 10) = v.centreColumn % 65536
      ∧ be16 d (at_ + 12) = v.headHeight % 65536 ∧ be16 d (at_ + 14) = v.rows % 65536
      ∧ byteAt d (at_ + 16) = linkAt v.origin ∧ byteAt d (at_ + 17) = v.blocks.length % 256
      ∧ be32 d (at_ + 18) = v.openMark.toNat
      ∧ be32 d (at_ + 22) = (match v.closeMark with
          | some m => m.toNat
          | none => 0)
      ∧ ∀ k < 60, be16 d (at_ + 26 + 2 * k) = v.blocks.getD k 0 % 65536
    d.length = 298 ∧ be16 d 0 = i.val ∧ be32 d 2 = (recordOf s i).studentId.toNat
    ∧ ((entryOf s i).held = none → ∀ k < 146, byteAt d (6 + k) = 0)
    ∧ (∀ h : Held, (entryOf s i).held = some h →
        laid 6
          (match h.state with
            | .ready => 1
            | .damaged => 2) h.lock h.version)
    ∧ ((entryOf s i).incoming = none → ∀ k < 146, byteAt d (152 + k) = 0)
    ∧ ∀ v : Incoming, (entryOf s i).incoming = some v →
        laid 152
          (match v.state with
            | .filling => 3
            | .waiting => 4) 0 v.version)
  ∧ (∀ rs : List DeliveryRecord, rs.length ≤ 8 →
    let d := deliveryData rs
    d.length = 193 ∧ byteAt d 0 = rs.length
    ∧ (∀ (j : Nat) (r : DeliveryRecord), rs[j]? = some r →
        let at_ := 1 + 24 * j
        be32 d at_ = r.sequence.toNat
        ∧ be16 d (at_ + 4) = (match r.index with
            | some i => i.val
            | none => 65535)
        ∧ be32 d (at_ + 6) = r.studentId.toNat ∧ byteAt d (at_ + 10) = linkAt r.link
        ∧ byteAt d (at_ + 11) = (if r.opened then 1 else 0) + (if r.closed then 2 else 0)
            + (if r.late then 4 else 0) + (if r.called then 8 else 0)
        ∧ be32 d (at_ + 12) = r.openMark.toNat
        ∧ be32 d (at_ + 16) = (match r.closeMark with
            | some m => m.toNat
            | none => 0)
        ∧ be16 d (at_ + 20) = r.rows % 65536
        ∧ byteAt d (at_ + 22) = (match r.outcome with
            | none => 0
            | some .accepted => 1
            | some .retake => 2
            | some .damaged => 3
            | some .superseded => 4
            | some .abandoned => 5
            | some .notListed => 6
            | some .withheld => 7
            | some .noSession => 8
            | some .badHead => 9
            | some .noRoom => 10)
        ∧ byteAt d (at_ + 23) = 0)
    ∧ ∀ k : Nat, 1 + 24 * rs.length ≤ k → byteAt d k = 0)
  ∧ (∀ rs : List PageRecord, rs.length ≤ 4 →
    let d := pageData rs
    d.length = 185 ∧ byteAt d 0 = rs.length
    ∧ (∀ (j : Nat) (r : PageRecord), rs[j]? = some r →
        let at_ := 1 + 46 * j
        be32 d at_ = r.sequence.toNat ∧ be16 d (at_ + 4) = r.tag.toNat ∧ byteAt d (at_ + 6) = r.plan.val
        ∧ byteAt d (at_ + 7) = r.copy % 256 ∧ be48 d (at_ + 8) = r.start.toNat ∧ be48 d (at_ + 14) = r.endLine.toNat
        ∧ be16 d (at_ + 20) = r.placed % 65536 ∧ be16 d (at_ + 22) = r.absent % 65536
        ∧ be16 d (at_ + 24) = r.withheld % 65536 ∧ be16 d (at_ + 26) = r.late % 65536
        ∧ be16 d (at_ + 28) = r.clamped % 65536 ∧ be16 d (at_ + 30) = r.margins % 65536
        ∧ be16 d (at_ + 32) = r.truncated % 65536 ∧ be16 d (at_ + 34) = r.missing % 65536
        ∧ be16 d (at_ + 36) = r.filled % 65536 ∧ be16 d (at_ + 38) = r.heldBands % 65536
        ∧ byteAt d (at_ + 40) = (if r.withholdPending then 1 else 0) ∧ byteAt d (at_ + 41) = 0
        ∧ be32 d (at_ + 42) = r.mark.toNat)
    ∧ ∀ k : Nat, 1 + 46 * rs.length ≤ k → byteAt d k = 0)
  ∧ (∀ (kinds : BitVec 9) (k : NoticeKind),
    holdsKind kinds k = kinds.getLsbD
      (match k with
        | .orderDone => 0
        | .pageDeficient => 1
        | .tileLate => 2
        | .trainFault => 3
        | .storeLow => 4
        | .underrun => 5
        | .callDropped => 6
        | .linkChange => 7
        | .linkErrors => 8))
  ∧ (let shifted (c : BitVec 16) : BitVec 16 := if c.getLsbD 15 then (c <<< 1) ^^^ 0x1021 else c <<< 1
    checkOf [] = 0xFFFF
    ∧ (∀ (bs : List Byte) (b : Byte),
        checkOf (bs ++ [b]) = Nat.iterate shifted 8 (checkOf bs ^^^ (b.setWidth 16 <<< 8)))
    ∧ checkOf [0x31, 0x32, 0x33, 0x34, 0x35, 0x36, 0x37, 0x38, 0x39] = 0x29B1)
  ∧ (∀ (kind code : Byte) (w : Wire), ∃ d : List Byte,
    d.length = 8 ∧ byteAt d 0 = kind.toNat
    ∧ byteAt d 1 = w.address.toNat * 16 + (if w.last then 8 else 0) + (if w.response then 4 else 0)
        + (if w.poisoned then 2 else 0) + (if w.nocheck then 1 else 0)
    ∧ byteAt d 2 = code.toNat ∧ byteAt d 3 = w.reserved.toNat ∧ be16 d 4 = w.tag.toNat
    ∧ be16 d 6 = w.lengthField.toNat ∧ properCheck kind code w = checkOf (d ++ w.payload))
  ∧ ∀ a : BitVec 4,
    let sent (d : List Byte) (kind markers tag n : Nat) : Prop :=
      d.length = 10 + n ∧ byteAt d 0 = kind ∧ byteAt d 1 = a.toNat * 16 + markers ∧ be16 d 2 = 0 ∧ be16 d 4 = tag
        ∧ be16 d 6 = n % 65536 ∧ be16 d (8 + n) = (checkOf (d.take (8 + n))).toNat
    (∀ r : Reply,
      sent (replyParcel a r) 5 (if r.poisoned then 6 else 4) r.tag.toNat r.payload.length
      ∧ ((replyParcel a r).drop 8).take r.payload.length = r.payload)
    ∧ (∀ c : CallParcel,
      let d := callParcel a c
      sent d 6 0 0 26 ∧ be32 d 8 = c.studentId.toNat ∧ be16 d 12 = c.index.val ∧ be16 d 14 = c.tag.toNat
      ∧ be48 d 16 = c.due.toNat ∧ be48 d 22 = c.remaining.toNat ∧ be32 d 28 = c.mark.toNat
      ∧ byteAt d 32 = c.rank % 256 ∧ byteAt d 33 = 0)
    ∧ (∀ n : Notice,
      let d := noticeParcel a n
      sent d 7 0 0 6 ∧ be16 d 8 = n.kinds.toNat ∧ be32 d 10 = n.mark.toNat)
    ∧ ∀ p : UnitPage,
      let d := exchangeParcel a p
      sent d 8 0 0 8
      ∧ (∀ acknowledge : Bool, p = .ability acknowledge →
          byteAt d 8 = 0 ∧ byteAt d 9 = 1 ∧ byteAt d 10 = a.toNat ∧ byteAt d 11 = 2 ∧ be16 d 12 = 4096
          ∧ byteAt d 14 = (if acknowledge then 2 else 0) ∧ byteAt d 15 = 0)
      ∧ ∀ (message comply toggle : Bool) (code : Byte) (argument : Nat),
          p = .answer message comply toggle code argument →
          byteAt d 8 = 1
          ∧ byteAt d 9 = 2 + (if message then 4 else 0) + (if comply then 8 else 0) + (if toggle then 16 else 0)
          ∧ byteAt d 10 = code.toNat ∧ byteAt d 11 = 0 ∧ be16 d 12 = argument % 65536 ∧ be16 d 14 = 0

/-- WITHHOLD sets a record's flag, voids the train of its entry WITHHELD, its Delivery Log record completed and TRAIN_FAULT
latched (R38, R50), frees the incoming version and an unlocked held version, which leaves the Arrival List, their blocks
returning (R54, R56), and marks the impression in progress whose order has PLACED the student (R17, R45, R73). RELEASE clears
the flag alone. An index above 1023 is refused BAD_ARGUMENT. -/
def Obligations.WithholdAndReleaseAct : Prop :=
  ∀ (s : State) (l : Link) (w : Wire),
    (Asked s l .withhold w →
      (1024 ≤ be16 w.payload 0 →
        ∃ t : State, exec (.withhold l w) s = .next t ∧ Concluded l 17 w .badArgument [] false (supersede l s) t)
      ∧ ∀ i : RosterIndex, be16 w.payload 0 = i.val →
        ∃ a b u t : State, exec (.withhold l w) s = .next t ∧ Concluded l 17 w .taken [] false u t
          ∧ TrainGone .a (fun x => x.index = i) .withheld
              (setRecord i { recordOf s i with withheld := true } (supersede l s)) a
          ∧ TrainGone .b (fun x => x.index = i) .withheld a b
          ∧ BlocksReturn
              (entryBlocks
                { held := (entryOf s i).held.filter fun h => decide (h.lock = 0), incoming := (entryOf s i).incoming })
              s u
          ∧ u =
              { b with
                intake.directory := u.intake.directory
                store := { u.store with bytes := s.store.bytes }
                scheduler := u.scheduler }
          ∧ recordOf u i = { recordOf s i with withheld := true }
          ∧ (∀ j : RosterIndex, j ≠ i → recordOf u j = recordOf s j ∧ entryOf u j = entryOf s j)
          ∧ (entryOf u i).incoming = none
          ∧ ((entryOf s i).held = none → (entryOf u i).held = none ∧ u.store.arrival = s.store.arrival)
          ∧ (∀ h : Held, (entryOf s i).held = some h →
              (entryOf u i).held = (if h.lock = 0 then none else some h)
              ∧ u.store.arrival =
                  if h.lock = 0 then s.store.arrival.filter fun j => decide (j ≠ i) else s.store.arrival)
          ∧ (∀ (m : Link) (x : Train), trainOf s m = some x →
              trainOf u m = if x.index = i then none else some x)
          ∧ ((∃ (m : Link) (x : Train), trainOf s m = some x ∧ x.index = i) →
              holdsKind u.notices.latched .trainFault = true)
          ∧ (∀ (c : Impression) (o : Order) (rest : List Order) (p : Plan) (n : Nat) (x : Seat) (e : SeatEntry),
              s.scheduler.impression = some c → s.scheduler.queue = o :: rest →
              (o.state = .active ∨ o.state = .ending) → planOf s o.plan = some p → p.seats[n]? = some x →
              x.index = i → (∀ (m : Nat) (y : Seat), p.seats[m]? = some y → y.index = i → m = n) →
              o.decisions[n]? = some e →
              u.scheduler =
                if e.decision = .placed then
                  { s.scheduler with impression := some { c with withholdPending := true } }
                else s.scheduler)
          ∧ u.store.bytes = s.store.bytes ∧ u.press = s.press ∧ u.renderer = s.renderer ∧ u.seats = s.seats
          ∧ u.tables = { s.tables with roster := u.tables.roster })
    ∧ (Asked s l .release w →
      (1024 ≤ be16 w.payload 0 →
        ∃ t : State, exec (.release l w) s = .next t ∧ Concluded l 18 w .badArgument [] false (supersede l s) t)
      ∧ ∀ i : RosterIndex, be16 w.payload 0 = i.val →
        ∃ t : State, exec (.release l w) s = .next t
          ∧ Concluded l 18 w .taken [] false
              (setRecord i { recordOf s i with withheld := false } (supersede l s)) t)

/-- DROP TILE empties both slots of an entry whose held version is not locked, voiding its train ABANDONED, and is refused PINNED
where it is locked (R47). PURGE STORE does so for every entry, but keeps the locked held versions, and voids every open
train ABANDONED (R48). A voided train's record is completed and TRAIN_FAULT latched, as `Voided` says (R38, R50); the blocks
of every freed version return, and the freed held versions leave the Arrival List (R54, R56). That Link A's train is voided
before Link B's is the model's choice (log entry 16). -/
def Obligations.DropAndPurgeFreeVersions : Prop :=
  ∀ (s : State) (l : Link) (w : Wire),
    (Asked s l .dropTile w →
      (1024 ≤ be16 w.payload 0 →
        ∃ t : State, exec (.dropTile l w) s = .next t ∧ Concluded l 19 w .badArgument [] false (supersede l s) t)
      ∧ ∀ i : RosterIndex, be16 w.payload 0 = i.val →
        (∀ h : Held, (entryOf s i).held = some h → 0 < h.lock →
          ∃ t : State, exec (.dropTile l w) s = .next t ∧ Concluded l 19 w .pinned [] false (supersede l s) t)
        ∧ ((∀ h : Held, (entryOf s i).held = some h → h.lock = 0) →
          ∃ a b u t : State, exec (.dropTile l w) s = .next t ∧ Concluded l 19 w .taken [] false u t
            ∧ TrainGone .a (fun x => x.index = i) .abandoned (supersede l s) a
            ∧ TrainGone .b (fun x => x.index = i) .abandoned a b
            ∧ BlocksReturn (entryBlocks (entryOf s i)) s u
            ∧ u.store.arrival =
                (if (entryOf s i).held = none then s.store.arrival
                else s.store.arrival.filter fun j => decide (j ≠ i))
            ∧ u =
                { b with
                  intake.directory := u.intake.directory
                  store := { u.store with bytes := s.store.bytes } }
            ∧ entryOf u i = { held := none, incoming := none }
            ∧ (∀ j : RosterIndex, j ≠ i → entryOf u j = entryOf s j)
            ∧ (∀ (m : Link) (x : Train), trainOf s m = some x →
                trainOf u m = if x.index = i then none else some x)
            ∧ ((∃ (m : Link) (x : Train), trainOf s m = some x ∧ x.index = i) →
                holdsKind u.notices.latched .trainFault = true)
            ∧ u.tables = s.tables ∧ u.scheduler = s.scheduler ∧ u.store.bytes = s.store.bytes
            ∧ u.press = s.press ∧ u.renderer = s.renderer ∧ u.seats = s.seats))
    ∧ (Asked s l .purgeStore w →
      ∃ a b u t : State, exec (.purgeStore l w) s = .next t ∧ Concluded l 20 w .taken [] false u t
        ∧ TrainGone .a (fun _ => True) .abandoned (supersede l s) a
        ∧ TrainGone .b (fun _ => True) .abandoned a b
        ∧ BlocksMove s u
        ∧ u.store.arrival =
            (s.store.arrival.filter fun i =>
              match (entryOf s i).held with
              | some h => decide (0 < h.lock)
              | none => true)
        ∧ u =
            { b with
              intake.directory := u.intake.directory
              store := { u.store with bytes := s.store.bytes } }
        ∧ (∀ i : RosterIndex, (entryOf u i).incoming = none
          ∧ ((entryOf s i).held = none → (entryOf u i).held = none)
          ∧ ∀ h : Held, (entryOf s i).held = some h →
              (entryOf u i).held = if h.lock = 0 then none else some h)
        ∧ (∀ m : Link, trainOf u m = none)
        ∧ ((∃ (m : Link) (x : Train), trainOf s m = some x) → holdsKind u.notices.latched .trainFault = true)
        ∧ u.tables = s.tables ∧ u.scheduler = s.scheduler ∧ u.store.bytes = s.store.bytes
        ∧ u.press = s.press ∧ u.renderer = s.renderer ∧ u.seats = s.seats)

/-- CLEAR PLAN (R9): an id above 7 is refused BAD_ARGUMENT; a pinned plan is refused PINNED and stays; otherwise a LOADED plan
becomes EMPTY and its rows and seats leave the totals, and an EMPTY one is taken with no state changed. -/
def Obligations.ClearPlanEmptiesASlot : Prop :=
  ∀ (s : State) (l : Link) (w : Wire), Asked s l .clearPlan w →
    let concludes (o : ControlOutcome) (u : State) : Prop :=
      ∃ t : State, exec (.clearPlan l w) s = .next t ∧ Concluded l 21 w o [] false u t
    (7 < byteAt w.payload 0 → concludes .badArgument (supersede l s))
    ∧ ∀ id : Fin 8, byteAt w.payload 0 = id.val →
      ((∃ o ∈ s.scheduler.queue, o.plan = id) → concludes .pinned (supersede l s))
      ∧ ((∀ o ∈ s.scheduler.queue, o.plan ≠ id) →
        (∀ p : Plan, planOf s id = some p →
          concludes .taken
            { supersede l s with
              tables.plans := s.tables.plans.set id none
              tables.planRows := s.tables.planRows - p.rows.length
              tables.planSeats := s.tables.planSeats - p.seats.length })
        ∧ (planOf s id = none → concludes .taken (supersede l s)))

/-- The table-loading controls (R6, R13, R19, R117, R167): an argument out of range is refused BAD_ARGUMENT, a pinned plan PINNED
and a session that an open train fills BUSY_SESSION; otherwise the link's slot becomes STAGING with no byte staged and its
gap timer at zero, and nothing is concluded or answered yet. -/
def Obligations.LoadsOpenStaging : Prop :=
  ∀ (s : State) (l : Link) (w : Wire),
    let opens (i : Instr) (target : TableTarget) : Prop :=
      exec i s =
        .next (setSlot l
          { slotOf (supersede l s) l with
            staging := some { target := target, tag := w.tag, bytes := [], overflow := false, gapTimer := 0 } }
          (supersede l s))
    let refused (c : Control) (i : Instr) (cause : ControlOutcome) : Prop :=
      ∃ t : State, exec i s = .next t ∧ Concluded l (controlCode c) w cause [] false (supersede l s) t
    (Asked s l .loadPlan w →
      (7 < byteAt w.payload 0 → refused .loadPlan (.loadPlan l w) .badArgument)
      ∧ ∀ id : Fin 8, byteAt w.payload 0 = id.val →
        ((∃ o ∈ s.scheduler.queue, o.plan = id) → refused .loadPlan (.loadPlan l w) .pinned)
        ∧ ((∀ o ∈ s.scheduler.queue, o.plan ≠ id) → opens (.loadPlan l w) (.plan id)))
    ∧ (Asked s l .loadRoster w →
      let first := be16 w.payload 0
      let count := be16 w.payload 2
      ((1023 < first ∨ count = 0 ∨ 1024 < count ∨ 1024 < first + count) →
        refused .loadRoster (.loadRoster l w) .badArgument)
      ∧ ((first ≤ 1023 ∧ 1 ≤ count ∧ first + count ≤ 1024) → opens (.loadRoster l w) (.roster first count)))
    ∧ (Asked s l .loadTone w →
      (15 < byteAt w.payload 0 → refused .loadTone (.loadTone l w) .badArgument)
      ∧ ∀ n : Fin 16, byteAt w.payload 0 = n.val →
        let busy : Prop := ∃ (m : Link) (x : Train) (v : Incoming), trainOf s m = some x
          ∧ (entryOf s x.index).incoming = some v ∧ v.version.session = n
        (busy → refused .loadTone (.loadTone l w) .busySession)
        ∧ (¬busy → opens (.loadTone l w) (.tone n)))
    ∧ (Asked s l .loadGlyphs w → opens (.loadGlyphs l w) .glyphs)

/-! ## Placement and captions -/

/-- The raw scale step is the integer nearest to Hh·4096 / Ht, which no remainder of exactly half leaves in doubt, and for every
head height 16..1280 and head target 16..2047 the dividend lies in 65544..5243903 and the step in 32..327680 (R102). -/
def Obligations.RawScaleStepIsTheNearestInteger : Prop :=
  ∀ hh ht : Nat, 16 ≤ hh → hh ≤ 1280 → 16 ≤ ht → ht ≤ 2047 →
    let raw := rawScaleStep hh ht
    raw = (hh * 4096 + ht / 2) / ht
    ∧ 2 * (hh * 4096 % ht) ≠ ht
    ∧ (∀ n : Nat, n ≠ raw →
        |((raw * ht : Nat) : Int) - (hh * 4096 : Nat)| < |((n * ht : Nat) : Int) - (hh * 4096 : Nat)|)
    ∧ 65544 ≤ hh * 4096 + ht / 2 ∧ hh * 4096 + ht / 2 ≤ 5243903
    ∧ 32 ≤ raw ∧ raw ≤ 327680 ∧ rawScaleStep 16 2047 = 32 ∧ rawScaleStep 1280 16 = 327680

/-- A pixel of a placed cell (R106, R107, R109, R110, R111): its sample point lies s apart from its neighbours' and, outside the
stored tile, takes the margin colour; inside it, every channel is the mean of the four stored pixels around the point,
weighted in sixteenths and rounded half up, and equal neighbours give their value back. Whatever the scale step, the cell's
middle column on its eye line shows the stored pixel at the version's centre column and eye row unchanged (R104, R112). The
placement record holds the raw scale step, the step held within the row's limits, the clamped mark exactly where the two
differ, and the origin computed with the held step (R103, R104). The stored pixel p(x, y) is the three bytes of the version
from number (y·Ws + x)·3 on, and byte number n lies in block floor(n / 65536) of its block list, at offset n modulo 65536
(R52). -/
def Obligations.PlacedPixelIsAWeightedMean : Prop :=
  (∀ (m : List Host.Cell) (v : Version) (r : Row) (q : Placement) (i j : Nat), 0 < v.width → 0 < v.height →
    let x : Int := q.x0 + i * q.step
    let y : Int := q.y0 + j * q.step
    let pixel := placedPixel m v r q i j
    let outside : Prop := x < 0 ∨ y < 0 ∨ (v.width : Int) * 4096 ≤ x ∨ (v.height : Int) * 4096 ≤ y
    (outside → pixel = r.margin)
    ∧ (¬outside → ∀ xi yi wx wy : Nat, (xi : Int) * 4096 + wx * 256 ≤ x → x < (xi : Int) * 4096 + (wx + 1) * 256 →
        wx ≤ 15 → (yi : Int) * 4096 + wy * 256 ≤ y → y < (yi : Int) * 4096 + (wy + 1) * 256 → wy ≤ 15 →
        let x1 := min (xi + 1) (v.width - 1)
        let y1 := min (yi + 1) (v.height - 1)
        let mean (ch : Pixel → Byte) : Nat :=
          ((16 - wx) * (16 - wy) * (ch (storedPixel m v xi yi)).toNat
            + wx * (16 - wy) * (ch (storedPixel m v x1 yi)).toNat
            + (16 - wx) * wy * (ch (storedPixel m v xi y1)).toNat
            + wx * wy * (ch (storedPixel m v x1 y1)).toNat + 128) / 256
        xi < v.width ∧ yi < v.height ∧ pixel.r.toNat = mean Pixel.r ∧ pixel.g.toNat = mean Pixel.g
        ∧ pixel.b.toNat = mean Pixel.b
        ∧ (∀ c : Pixel, storedPixel m v xi yi = c → storedPixel m v x1 yi = c → storedPixel m v xi y1 = c →
            storedPixel m v x1 y1 = c → pixel = c)))
  ∧ (∀ (m : List Host.Cell) (v : Version) (r : Row) (x : Seat) (n : Nat), v.centreColumn < v.width →
    v.eyeRow < v.height →
    placedPixel m v r (placementOf n x r v) (x.width / 2) r.eyeOffset
      = storedPixel m v v.centreColumn v.eyeRow)
  ∧ (∀ (n : Nat) (x : Seat) (r : Row) (v : Version),
    let q := placementOf n x r v
    q.seat = n ∧ q.rawStep = (v.headHeight * 4096 + r.headTarget / 2) / r.headTarget
    ∧ q.step = min (max q.rawStep r.sMin) r.sMax ∧ (q.clamped = true ↔ q.step ≠ q.rawStep)
    ∧ q.x0 = (v.centreColumn : Int) * 4096 - ((x.width / 2 : Nat) : Int) * q.step
    ∧ q.y0 = (v.eyeRow : Int) * 4096 - (r.eyeOffset : Int) * q.step ∧ q.margin = false)
  ∧ (∀ (m : List Host.Cell) (v : Version) (px py : Nat),
    let n := (py * v.width + px) * 3
    storedPixel m v px py =
      { r := readVersion v.blocks m n, g := readVersion v.blocks m (n + 1), b := readVersion v.blocks m (n + 2) })
  ∧ ∀ (m : List Host.Cell) (blocks : List Nat) (n : Nat),
    (∀ b : Nat, blocks[n / 65536]? = some b →
      tileAddress blocks n = some (b * 65536 + n % 65536)
      ∧ readVersion blocks m n = readByte m (b * 65536 + n % 65536))
    ∧ (blocks.length ≤ n / 65536 → tileAddress blocks n = none)

/-- How a caption is set. A code resolves to its own glyph, else to that of code 127, else to that of code 32, the last two
as substitute uses, and a caption with a code that resolves to none is omitted, with the truncated mark and a missing count
of 0 (R121). A caption whose codes all resolve is set as its longest prefix that fits the available width (R122, R123): the
truncated mark is set exactly when it is cut, its missing count is the substitute uses among the glyphs set, and its left
start centres it with an odd column of space on the right. The top line centres the set height in the strip, or is 0 where
the set is taller (R124). A strip pixel is ink where the glyph line and the column of a set glyph that fall on it have the
coverage bit set, and paper everywhere else (R125). -/
def Obligations.CaptionIsResolvedCutAndSet : Prop :=
  (∀ (g : GlyphSet) (code : Byte), (g.glyphs.map Prod.fst).Nodup →
    let has (n : Nat) (y : Glyph) : Prop := (n, y) ∈ g.glyphs
    let lacks (n : Nat) : Prop := ∀ y : Glyph, ¬has n y
    resolveCode none code = none
    ∧ (∀ y : Glyph, has code.toNat y → resolveCode (some g) code = some (y, false))
    ∧ (lacks code.toNat →
        (∀ y : Glyph, has 127 y → resolveCode (some g) code = some (y, true))
        ∧ (lacks 127 →
            (∀ y : Glyph, has 32 y → resolveCode (some g) code = some (y, true))
            ∧ (lacks 32 → resolveCode (some g) code = none))))
  ∧ (∀ (g : Option GlyphSet) (text : List Byte),
    (resolveText g text = none ↔ ∃ code ∈ text, resolveCode g code = none)
    ∧ ∀ xs : List (Glyph × Bool), resolveText g text = some xs ↔
        xs.length = text.length ∧ ∀ (k : Nat) (code : Byte), text[k]? = some code → resolveCode g code = xs[k]?)
  ∧ (∀ (g : Option GlyphSet) (n : Nat) (x : Seat) (r : Row) (text : List Byte),
    let c := captionOf g n x r text
    let avail := x.width - 2 * r.sideMargin
    c.seat = n
    ∧ (resolveText g text = none →
        c.omitted = true ∧ c.setCount = 0 ∧ c.setWidth = 0 ∧ c.truncated = true ∧ c.missing = 0)
    ∧ (∀ xs : List (Glyph × Bool), resolveText g text = some xs → 2 * r.sideMargin < x.width →
        let width (k : Nat) : Nat := ((xs.take k).map fun y => y.1.advance).sum + r.tracking * (k - 1)
        c.setCount ≤ xs.length ∧ c.setWidth = width c.setCount ∧ width c.setCount ≤ avail
        ∧ (∀ k : Nat, c.setCount < k → k ≤ xs.length → avail < width k)
        ∧ (c.truncated = true ↔ c.setCount < xs.length) ∧ c.omitted = false
        ∧ c.missing = (xs.take c.setCount).countP (·.2)
        ∧ c.resolved = xs.map (·.1)
        ∧ c.leftStart = x.left + r.sideMargin + (avail - c.setWidth) / 2)
    ∧ ∀ y : GlyphSet, g = some y →
        c.topLine = if y.height ≤ r.captionHeight then (r.captionHeight - y.height) / 2 else 0)
  ∧ ∀ (g : GlyphSet) (r : Row) (c : CaptionRecord) (col t : Nat), c.setCount ≤ c.resolved.length →
    let start (m : Nat) : Nat :=
      c.leftStart + (((c.resolved.take m).map Glyph.advance).sum + r.tracking * m)
    let inked : Prop :=
      c.topLine ≤ t ∧ t < c.topLine + g.height
        ∧ ∃ (m : Nat) (y : Glyph), m < c.setCount ∧ c.resolved[m]? = some y ∧ start m ≤ col
          ∧ col < start m + y.advance ∧ (y.bitmap.getD (t - c.topLine) []).getD (col - start m) false = true
    (inked → captionPixel (some g) r c col t = r.ink)
    ∧ (¬inked → captionPixel (some g) r c col t = r.paper)
    ∧ captionPixel none r c col t = r.paper
end

