-- ==== Sys2Proof/Laws/State.lean ====
section
/-!
SUPPORT. What each named update of the state leaves alone, field by field, and what each part reads as after an
update of its own kind.
-/

namespace Sys2Proof

@[simp] theorem Link.other_other (l : Link) : l.other.other = l := by cases l <;> rfl

@[simp] theorem Link.other_ne (l : Link) : l.other ≠ l := by cases l <;> simp [Link.other]

@[simp] theorem PerLink.get_set_same {α : Type} (p : PerLink α) (l : Link) (x : α) : (p.set l x).get l = x := by
  cases l <;> rfl

theorem PerLink.get_set_ne {α : Type} (p : PerLink α) {l m : Link} (x : α) (h : m ≠ l) : (p.set l x).get m = p.get m := by
  cases l <;> cases m <;> first | rfl | exact absurd rfl h

@[simp] theorem PerLink.get_set_other {α : Type} (p : PerLink α) (l : Link) (x : α) :
    (p.set l x).get l.other = p.get l.other := by cases l <;> rfl

@[simp] theorem PerLink.set_set {α : Type} (p : PerLink α) (l : Link) (x y : α) : (p.set l x).set l y = p.set l y := by
  cases l <;> rfl

@[simp] theorem PerLink.set_get {α : Type} (p : PerLink α) (l : Link) : p.set l (p.get l) = p := by cases l <;> rfl

end Sys2Proof

namespace Sys2Proof.Machine

@[simp] theorem setPort_pending (l : Link) (p : Port) (s : State) : (setPort l p s).pending = s.pending := rfl
@[simp] theorem setPort_straps (l : Link) (p : Port) (s : State) : (setPort l p s).straps = s.straps := rfl
@[simp] theorem setPort_tables (l : Link) (p : Port) (s : State) : (setPort l p s).tables = s.tables := rfl
@[simp] theorem setPort_intake (l : Link) (p : Port) (s : State) : (setPort l p s).intake = s.intake := rfl
@[simp] theorem setPort_store (l : Link) (p : Port) (s : State) : (setPort l p s).store = s.store := rfl
@[simp] theorem setPort_scheduler (l : Link) (p : Port) (s : State) : (setPort l p s).scheduler = s.scheduler := rfl
@[simp] theorem setPort_seats (l : Link) (p : Port) (s : State) : (setPort l p s).seats = s.seats := rfl
@[simp] theorem setPort_renderer (l : Link) (p : Port) (s : State) : (setPort l p s).renderer = s.renderer := rfl
@[simp] theorem setPort_press (l : Link) (p : Port) (s : State) : (setPort l p s).press = s.press := rfl
@[simp] theorem setPort_control (l : Link) (p : Port) (s : State) : (setPort l p s).control = s.control := rfl
@[simp] theorem setPort_notices (l : Link) (p : Port) (s : State) : (setPort l p s).notices = s.notices := rfl
@[simp] theorem setPort_timeMark (l : Link) (p : Port) (s : State) : (setPort l p s).timeMark = s.timeMark := rfl

@[simp] theorem modPort_pending (l : Link) (f : Port → Port) (s : State) : (modPort l f s).pending = s.pending := rfl
@[simp] theorem modPort_straps (l : Link) (f : Port → Port) (s : State) : (modPort l f s).straps = s.straps := rfl
@[simp] theorem modPort_tables (l : Link) (f : Port → Port) (s : State) : (modPort l f s).tables = s.tables := rfl
@[simp] theorem modPort_intake (l : Link) (f : Port → Port) (s : State) : (modPort l f s).intake = s.intake := rfl
@[simp] theorem modPort_store (l : Link) (f : Port → Port) (s : State) : (modPort l f s).store = s.store := rfl
@[simp] theorem modPort_scheduler (l : Link) (f : Port → Port) (s : State) : (modPort l f s).scheduler = s.scheduler := rfl
@[simp] theorem modPort_seats (l : Link) (f : Port → Port) (s : State) : (modPort l f s).seats = s.seats := rfl
@[simp] theorem modPort_renderer (l : Link) (f : Port → Port) (s : State) : (modPort l f s).renderer = s.renderer := rfl
@[simp] theorem modPort_press (l : Link) (f : Port → Port) (s : State) : (modPort l f s).press = s.press := rfl
@[simp] theorem modPort_control (l : Link) (f : Port → Port) (s : State) : (modPort l f s).control = s.control := rfl
@[simp] theorem modPort_notices (l : Link) (f : Port → Port) (s : State) : (modPort l f s).notices = s.notices := rfl
@[simp] theorem modPort_timeMark (l : Link) (f : Port → Port) (s : State) : (modPort l f s).timeMark = s.timeMark := rfl

@[simp] theorem setTrain_pending (l : Link) (t : Option Train) (s : State) : (setTrain l t s).pending = s.pending := rfl
@[simp] theorem setTrain_straps (l : Link) (t : Option Train) (s : State) : (setTrain l t s).straps = s.straps := rfl
@[simp] theorem setTrain_tables (l : Link) (t : Option Train) (s : State) : (setTrain l t s).tables = s.tables := rfl
@[simp] theorem setTrain_store (l : Link) (t : Option Train) (s : State) : (setTrain l t s).store = s.store := rfl
@[simp] theorem setTrain_scheduler (l : Link) (t : Option Train) (s : State) : (setTrain l t s).scheduler = s.scheduler := rfl
@[simp] theorem setTrain_seats (l : Link) (t : Option Train) (s : State) : (setTrain l t s).seats = s.seats := rfl
@[simp] theorem setTrain_renderer (l : Link) (t : Option Train) (s : State) : (setTrain l t s).renderer = s.renderer := rfl
@[simp] theorem setTrain_press (l : Link) (t : Option Train) (s : State) : (setTrain l t s).press = s.press := rfl
@[simp] theorem setTrain_ports (l : Link) (t : Option Train) (s : State) : (setTrain l t s).ports = s.ports := rfl
@[simp] theorem setTrain_control (l : Link) (t : Option Train) (s : State) : (setTrain l t s).control = s.control := rfl
@[simp] theorem setTrain_notices (l : Link) (t : Option Train) (s : State) : (setTrain l t s).notices = s.notices := rfl
@[simp] theorem setTrain_timeMark (l : Link) (t : Option Train) (s : State) : (setTrain l t s).timeMark = s.timeMark := rfl
@[simp] theorem setTrain_intake_directory (l : Link) (t : Option Train) (s : State) :
    (setTrain l t s).intake.directory = s.intake.directory := rfl
@[simp] theorem setTrain_intake_log (l : Link) (t : Option Train) (s : State) :
    (setTrain l t s).intake.log = s.intake.log := rfl
@[simp] theorem setTrain_intake_nextSequence (l : Link) (t : Option Train) (s : State) :
    (setTrain l t s).intake.nextSequence = s.intake.nextSequence := rfl

@[simp] theorem setEntry_pending (i : RosterIndex) (e : DirEntry) (s : State) : (setEntry i e s).pending = s.pending := rfl
@[simp] theorem setEntry_straps (i : RosterIndex) (e : DirEntry) (s : State) : (setEntry i e s).straps = s.straps := rfl
@[simp] theorem setEntry_tables (i : RosterIndex) (e : DirEntry) (s : State) : (setEntry i e s).tables = s.tables := rfl
@[simp] theorem setEntry_store (i : RosterIndex) (e : DirEntry) (s : State) : (setEntry i e s).store = s.store := rfl
@[simp] theorem setEntry_scheduler (i : RosterIndex) (e : DirEntry) (s : State) : (setEntry i e s).scheduler = s.scheduler := rfl
@[simp] theorem setEntry_seats (i : RosterIndex) (e : DirEntry) (s : State) : (setEntry i e s).seats = s.seats := rfl
@[simp] theorem setEntry_renderer (i : RosterIndex) (e : DirEntry) (s : State) : (setEntry i e s).renderer = s.renderer := rfl
@[simp] theorem setEntry_press (i : RosterIndex) (e : DirEntry) (s : State) : (setEntry i e s).press = s.press := rfl
@[simp] theorem setEntry_ports (i : RosterIndex) (e : DirEntry) (s : State) : (setEntry i e s).ports = s.ports := rfl
@[simp] theorem setEntry_control (i : RosterIndex) (e : DirEntry) (s : State) : (setEntry i e s).control = s.control := rfl
@[simp] theorem setEntry_notices (i : RosterIndex) (e : DirEntry) (s : State) : (setEntry i e s).notices = s.notices := rfl
@[simp] theorem setEntry_timeMark (i : RosterIndex) (e : DirEntry) (s : State) : (setEntry i e s).timeMark = s.timeMark := rfl
@[simp] theorem setEntry_intake_trains (i : RosterIndex) (e : DirEntry) (s : State) :
    (setEntry i e s).intake.trains = s.intake.trains := rfl
@[simp] theorem setEntry_intake_log (i : RosterIndex) (e : DirEntry) (s : State) :
    (setEntry i e s).intake.log = s.intake.log := rfl
@[simp] theorem setEntry_intake_nextSequence (i : RosterIndex) (e : DirEntry) (s : State) :
    (setEntry i e s).intake.nextSequence = s.intake.nextSequence := rfl

@[simp] theorem setRecord_pending (i : RosterIndex) (r : RosterRecord) (s : State) : (setRecord i r s).pending = s.pending := rfl
@[simp] theorem setRecord_straps (i : RosterIndex) (r : RosterRecord) (s : State) : (setRecord i r s).straps = s.straps := rfl
@[simp] theorem setRecord_intake (i : RosterIndex) (r : RosterRecord) (s : State) : (setRecord i r s).intake = s.intake := rfl
@[simp] theorem setRecord_store (i : RosterIndex) (r : RosterRecord) (s : State) : (setRecord i r s).store = s.store := rfl
@[simp] theorem setRecord_scheduler (i : RosterIndex) (r : RosterRecord) (s : State) : (setRecord i r s).scheduler = s.scheduler := rfl
@[simp] theorem setRecord_seats (i : RosterIndex) (r : RosterRecord) (s : State) : (setRecord i r s).seats = s.seats := rfl
@[simp] theorem setRecord_renderer (i : RosterIndex) (r : RosterRecord) (s : State) : (setRecord i r s).renderer = s.renderer := rfl
@[simp] theorem setRecord_press (i : RosterIndex) (r : RosterRecord) (s : State) : (setRecord i r s).press = s.press := rfl
@[simp] theorem setRecord_ports (i : RosterIndex) (r : RosterRecord) (s : State) : (setRecord i r s).ports = s.ports := rfl
@[simp] theorem setRecord_control (i : RosterIndex) (r : RosterRecord) (s : State) : (setRecord i r s).control = s.control := rfl
@[simp] theorem setRecord_notices (i : RosterIndex) (r : RosterRecord) (s : State) : (setRecord i r s).notices = s.notices := rfl
@[simp] theorem setRecord_timeMark (i : RosterIndex) (r : RosterRecord) (s : State) : (setRecord i r s).timeMark = s.timeMark := rfl
@[simp] theorem setRecord_tables_plans (i : RosterIndex) (r : RosterRecord) (s : State) :
    (setRecord i r s).tables.plans = s.tables.plans := rfl
@[simp] theorem setRecord_tables_planRows (i : RosterIndex) (r : RosterRecord) (s : State) :
    (setRecord i r s).tables.planRows = s.tables.planRows := rfl
@[simp] theorem setRecord_tables_planSeats (i : RosterIndex) (r : RosterRecord) (s : State) :
    (setRecord i r s).tables.planSeats = s.tables.planSeats := rfl
@[simp] theorem setRecord_tables_tones (i : RosterIndex) (r : RosterRecord) (s : State) :
    (setRecord i r s).tables.tones = s.tables.tones := rfl
@[simp] theorem setRecord_tables_glyphs (i : RosterIndex) (r : RosterRecord) (s : State) :
    (setRecord i r s).tables.glyphs = s.tables.glyphs := rfl
@[simp] theorem setRecord_tables_settings (i : RosterIndex) (r : RosterRecord) (s : State) :
    (setRecord i r s).tables.settings = s.tables.settings := rfl

@[simp] theorem setSlot_pending (l : Link) (x : Slot) (s : State) : (setSlot l x s).pending = s.pending := rfl
@[simp] theorem setSlot_straps (l : Link) (x : Slot) (s : State) : (setSlot l x s).straps = s.straps := rfl
@[simp] theorem setSlot_tables (l : Link) (x : Slot) (s : State) : (setSlot l x s).tables = s.tables := rfl
@[simp] theorem setSlot_intake (l : Link) (x : Slot) (s : State) : (setSlot l x s).intake = s.intake := rfl
@[simp] theorem setSlot_store (l : Link) (x : Slot) (s : State) : (setSlot l x s).store = s.store := rfl
@[simp] theorem setSlot_scheduler (l : Link) (x : Slot) (s : State) : (setSlot l x s).scheduler = s.scheduler := rfl
@[simp] theorem setSlot_seats (l : Link) (x : Slot) (s : State) : (setSlot l x s).seats = s.seats := rfl
@[simp] theorem setSlot_renderer (l : Link) (x : Slot) (s : State) : (setSlot l x s).renderer = s.renderer := rfl
@[simp] theorem setSlot_press (l : Link) (x : Slot) (s : State) : (setSlot l x s).press = s.press := rfl
@[simp] theorem setSlot_ports (l : Link) (x : Slot) (s : State) : (setSlot l x s).ports = s.ports := rfl
@[simp] theorem setSlot_notices (l : Link) (x : Slot) (s : State) : (setSlot l x s).notices = s.notices := rfl
@[simp] theorem setSlot_timeMark (l : Link) (x : Slot) (s : State) : (setSlot l x s).timeMark = s.timeMark := rfl
@[simp] theorem setSlot_control_controlError (l : Link) (x : Slot) (s : State) :
    (setSlot l x s).control.controlError = s.control.controlError := rfl
@[simp] theorem setSlot_control_hallReceived (l : Link) (x : Slot) (s : State) :
    (setSlot l x s).control.hallReceived = s.control.hallReceived := rfl
@[simp] theorem setSlot_control_last (l : Link) (x : Slot) (s : State) :
    (setSlot l x s).control.last = s.control.last := rfl

@[simp] theorem portOf_setPort_same (l : Link) (p : Port) (s : State) : portOf (setPort l p s) l = p := by
  simp [portOf, setPort]

@[simp] theorem portOf_setPort_other (l : Link) (p : Port) (s : State) :
    portOf (setPort l p s) l.other = portOf s l.other := by simp [portOf, setPort]

theorem portOf_setPort_ne {l m : Link} (p : Port) (s : State) (h : m ≠ l) : portOf (setPort l p s) m = portOf s m := by
  simp [portOf, setPort, PerLink.get_set_ne _ _ h]

@[simp] theorem portOf_modPort_same (l : Link) (f : Port → Port) (s : State) :
    portOf (modPort l f s) l = f (portOf s l) := by simp [modPort]

@[simp] theorem portOf_modPort_other (l : Link) (f : Port → Port) (s : State) :
    portOf (modPort l f s) l.other = portOf s l.other := by simp [modPort]

@[simp] theorem trainOf_setTrain_same (l : Link) (t : Option Train) (s : State) : trainOf (setTrain l t s) l = t := by
  simp [trainOf, setTrain]

@[simp] theorem trainOf_setTrain_other (l : Link) (t : Option Train) (s : State) :
    trainOf (setTrain l t s) l.other = trainOf s l.other := by simp [trainOf, setTrain]

@[simp] theorem slotOf_setSlot_same (l : Link) (x : Slot) (s : State) : slotOf (setSlot l x s) l = x := by
  simp [slotOf, setSlot]

@[simp] theorem slotOf_setSlot_other (l : Link) (x : Slot) (s : State) :
    slotOf (setSlot l x s) l.other = slotOf s l.other := by simp [slotOf, setSlot]

@[simp] theorem entryOf_setEntry_same (i : RosterIndex) (e : DirEntry) (s : State) : entryOf (setEntry i e s) i = e := by
  simp [entryOf, setEntry]

theorem entryOf_setEntry_ne {i j : RosterIndex} (e : DirEntry) (s : State) (h : j ≠ i) :
    entryOf (setEntry i e s) j = entryOf s j := by
  have : (i : Nat) ≠ j := fun hh => h (Fin.ext hh.symm)
  simp [entryOf, setEntry, Vector.getElem_set_ne, this]

@[simp] theorem recordOf_setRecord_same (i : RosterIndex) (r : RosterRecord) (s : State) :
    recordOf (setRecord i r s) i = r := by simp [recordOf, setRecord]

theorem recordOf_setRecord_ne {i j : RosterIndex} (r : RosterRecord) (s : State) (h : j ≠ i) :
    recordOf (setRecord i r s) j = recordOf s j := by
  have : (i : Nat) ≠ j := fun hh => h (Fin.ext hh.symm)
  simp [recordOf, setRecord, Vector.getElem_set_ne, this]

theorem modHead_frame (f : Order → Order) (s : State) :
    ∃ q, modHead f s = { s with scheduler.queue := q } := by
  unfold modHead
  split
  · exact ⟨s.scheduler.queue, rfl⟩
  · exact ⟨_, rfl⟩

@[simp] theorem recordOf_setEntry (i j : RosterIndex) (e : DirEntry) (s : State) :
    recordOf (setEntry i e s) j = recordOf s j := rfl
@[simp] theorem entryOf_setTrain (l : Link) (t : Option Train) (i : RosterIndex) (s : State) :
    entryOf (setTrain l t s) i = entryOf s i := rfl
@[simp] theorem entryOf_setPort (l : Link) (p : Port) (i : RosterIndex) (s : State) :
    entryOf (setPort l p s) i = entryOf s i := rfl
@[simp] theorem entryOf_modPort (l : Link) (f : Port → Port) (i : RosterIndex) (s : State) :
    entryOf (modPort l f s) i = entryOf s i := rfl
@[simp] theorem trainOf_setEntry (i : RosterIndex) (e : DirEntry) (l : Link) (s : State) :
    trainOf (setEntry i e s) l = trainOf s l := rfl
@[simp] theorem portOf_setSlot (l m : Link) (x : Slot) (s : State) : portOf (setSlot l x s) m = portOf s m := rfl
@[simp] theorem slotOf_setPort (l m : Link) (p : Port) (s : State) : slotOf (setPort l p s) m = slotOf s m := rfl
@[simp] theorem slotOf_modPort (l m : Link) (f : Port → Port) (s : State) : slotOf (modPort l f s) m = slotOf s m := rfl

end Sys2Proof.Machine
end

