-- ==== Sys2Proof/Laws/Arrival.lean ====
section
/-!
SUPPORT. What happens to a parcel that passes the receive tests, to a control that passes the tests of R162, and what a
conclusion leaves, each said once in the terms of Safety.lean.
-/

namespace Sys2Proof.Machine

/-! ## Ports -/

theorem PerLink.set_get {α : Type} (p : PerLink α) (l : Link) : p.set l (p.get l) = p := by cases l <;> rfl

/-- Putting back the port that a link has changes nothing. -/
theorem setPort_portOf (l : Link) (s : State) : setPort l (portOf s l) s = s := by
  show { s with ports := s.ports.set l (s.ports.get l) } = s
  rw [PerLink.set_get]

/-! ## Parcels -/

/-- A parcel that passes is routed. -/
theorem disposal_of_passes {s : State} {l : Link} {kind code : Byte} {w : Wire} (h : Passes s l kind code w)
    (hk : isForwardKind kind = true) : disposal (portOf s l) s.straps kind code w = .routed := by
  have hx : isExchangeKind kind = false := by
    simp only [isForwardKind, isExchangeKind, decide_eq_true_eq, decide_eq_false_iff_not] at hk ⊢
    omega
  have hc : failsCheck kind code w = false := by
    unfold failsCheck
    rcases h.check with h1 | h1 <;> simp [h.length, h1]
  have ha : ¬(w.address ≠ s.straps ∧ w.address ≠ Config.hallAddress) := by
    rcases h.address with h1 | h1 <;> simp [h1]
  unfold disposal
  simp [h.up, Nat.not_lt.2 h.fits, hc, hk, hx]
  intro h1
  rcases h.address with h2 | h2
  · exact absurd h2 h1
  · exact h2

/-- A parcel that passes, and is no CONTROL behind a waiting reply, reaches the block it is routed to. -/
theorem arrive_of_passes {s : State} {l : Link} {kind code : Byte} {w : Wire} (h : Passes s l kind code w)
    (hk : isForwardKind kind = true) (hr : kind.toNat = 3 → (portOf s l).reply = none) (body : State → State) :
    arrive l kind code w body s = body s := by
  have hb : holdsBack (portOf s l) = false := by simp [holdsBack, h.notHeld]
  unfold arrive dispose
  rw [hb, disposal_of_passes h hk]
  by_cases h3 : kind.toNat = 3
  · simp [hr h3]
  · simp [h3]

/-- A CONTROL parcel that reaches the Control Unit is taken there. -/
theorem arrive_of_reaches {s : State} {l : Link} {code : Byte} {w : Wire} (h : Reaches s l code w)
    (body : State → State) : arrive l 3 code w body s = body s :=
  arrive_of_passes h.passes (by decide) (fun _ => h.free) body

/-- Where nothing is held back, nothing is let through. -/
theorem releaseAll_of_noneHeldBack {s : State} (h : NoneHeldBack s) : releaseAll s = s := by
  unfold releaseAll
  rw [h .a, h .b]
  rfl

/-! ## Superseding: only the link's control slot changes -/

@[simp] theorem supersede_tables (l : Link) (s : State) : (supersede l s).tables = s.tables := by
  unfold supersede; dsimp only; split <;> rfl

@[simp] theorem supersede_scheduler (l : Link) (s : State) : (supersede l s).scheduler = s.scheduler := by
  unfold supersede; dsimp only; split <;> rfl

@[simp] theorem supersede_intake (l : Link) (s : State) : (supersede l s).intake = s.intake := by
  unfold supersede; dsimp only; split <;> rfl

@[simp] theorem supersede_store (l : Link) (s : State) : (supersede l s).store = s.store := by
  unfold supersede; dsimp only; split <;> rfl

@[simp] theorem supersede_notices (l : Link) (s : State) : (supersede l s).notices = s.notices := by
  unfold supersede; dsimp only; split <;> rfl

@[simp] theorem supersede_ports (l : Link) (s : State) : (supersede l s).ports = s.ports := by
  unfold supersede; dsimp only; split <;> rfl

@[simp] theorem supersede_press (l : Link) (s : State) : (supersede l s).press = s.press := by
  unfold supersede; dsimp only; split <;> rfl

@[simp] theorem supersede_seats (l : Link) (s : State) : (supersede l s).seats = s.seats := by
  unfold supersede; dsimp only; split <;> rfl

@[simp] theorem supersede_renderer (l : Link) (s : State) : (supersede l s).renderer = s.renderer := by
  unfold supersede; dsimp only; split <;> rfl

@[simp] theorem supersede_timeMark (l : Link) (s : State) : (supersede l s).timeMark = s.timeMark := by
  unfold supersede; dsimp only; split <;> rfl

@[simp] theorem supersede_straps (l : Link) (s : State) : (supersede l s).straps = s.straps := by
  unfold supersede; dsimp only; split <;> rfl

@[simp] theorem supersede_pending (l : Link) (s : State) : (supersede l s).pending = s.pending := by
  unfold supersede; dsimp only; split <;> rfl

@[simp] theorem supersede_controlError (l : Link) (s : State) : (supersede l s).control.controlError = s.control.controlError := by
  unfold supersede; dsimp only; split <;> rfl

@[simp] theorem supersede_hallReceived (l : Link) (s : State) : (supersede l s).control.hallReceived = s.control.hallReceived := by
  unfold supersede; dsimp only; split <;> rfl

@[simp] theorem supersede_last (l : Link) (s : State) : (supersede l s).control.last = s.control.last := by
  unfold supersede; dsimp only; split <;> rfl

@[simp] theorem portOf_supersede (l : Link) (x : Link) (s : State) : portOf (supersede l s) x = portOf s x := by
  simp [portOf]

@[simp] theorem recordOf_supersede (l : Link) (x : RosterIndex) (s : State) : recordOf (supersede l s) x = recordOf s x := by
  simp [recordOf]

@[simp] theorem entryOf_supersede (l : Link) (x : RosterIndex) (s : State) : entryOf (supersede l s) x = entryOf s x := by
  simp [entryOf]

@[simp] theorem trainOf_supersede (l : Link) (x : Link) (s : State) : trainOf (supersede l s) x = trainOf s x := by
  simp [trainOf]

@[simp] theorem planOf_supersede (l : Link) (x : Fin 8) (s : State) : planOf (supersede l s) x = planOf s x := by
  simp [planOf]

/-! ## Controls -/

theorem toHall_eq (w : Wire) : toHall w = decide (w.address = Config.hallAddress) := rfl

/-- Tests 1 to 4 of R162 leave an asked control to its own rule. -/
theorem takeControl_of_asked {s : State} {l : Link} {c : Control} {w : Wire} (h : Asked s l c w)
    (rule : List Byte → State → Ruling) (after : State → State) :
    takeControl c l w rule after s =
      match rule w.payload (supersede l s) with
      | .refuse cause => conclude l (controlCode c) w.tag (toHall w) cause [] false (supersede l s)
      | .take s2 data poisoned =>
        after (conclude l (controlCode c) w.tag (toHall w) .taken data poisoned s2)
      | .stage t => openStaging l w.tag t (supersede l s) := by
  have h1 : ¬(toHall w = true ∧ (!hallControl c) = true) := by
    rintro ⟨h1, h2⟩
    have := h.hall (by simpa [toHall] using h1)
    simp [this] at h2
  have h2 : ¬w.payload.length < controlLength c := by rw [h.length]; exact Nat.lt_irrefl _
  have h3 : ¬controlLength c < w.payload.length := by rw [h.length]; exact Nat.lt_irrefl _
  unfold takeControl
  dsimp only
  cases rule w.payload (supersede l s) <;> simp only [h1, h2, h3, if_false]

/-- A control that its rule takes is concluded TAKEN on the state its rule leaves. -/
theorem takeControl_taken {s s2 : State} {l : Link} {c : Control} {w : Wire} {rule : List Byte → State → Ruling}
    {data : List Byte} {poisoned : Bool} (h : Asked s l c w) (after : State → State)
    (hr : rule w.payload (supersede l s) = .take s2 data poisoned) :
    takeControl c l w rule after s
      = after (conclude l (controlCode c) w.tag (toHall w) .taken data poisoned s2) := by
  rw [takeControl_of_asked h, hr]

/-- A control that its rule refuses is concluded with the cause. -/
theorem takeControl_refused {s : State} {l : Link} {c : Control} {w : Wire} {rule : List Byte → State → Ruling}
    {cause : ControlOutcome} (h : Asked s l c w) (after : State → State)
    (hr : rule w.payload (supersede l s) = .refuse cause) :
    takeControl c l w rule after s
      = conclude l (controlCode c) w.tag (toHall w) cause [] false (supersede l s) := by
  rw [takeControl_of_asked h, hr]

/-- A load that its rule stages opens staging and is not concluded yet. -/
theorem takeControl_staged {s : State} {l : Link} {c : Control} {w : Wire} {rule : List Byte → State → Ruling}
    {g : TableTarget} (h : Asked s l c w) (after : State → State)
    (hr : rule w.payload (supersede l s) = .stage g) :
    takeControl c l w rule after s = openStaging l w.tag g (supersede l s) := by
  rw [takeControl_of_asked h, hr]

/-! ## Conclusions -/

/-- The Unit Status reads nothing of a waiting reply. -/
theorem unitStatus_setPort_reply (l : Link) (r : Option Reply) (s : State) :
    unitStatus (setPort l { portOf s l with reply := r } s) = unitStatus s := by
  cases l <;> rfl

/-- The reply made at a conclusion, or none, in one form. -/
theorem makeReply_eq (l : Link) (code : Byte) (tag : BitVec 16) (o : ControlOutcome) (data : List Byte) (pois : Bool)
    (hall : Bool) (s : State) :
    (if hall then s else makeReply l code tag o data pois s)
      = setPort l
          { portOf s l with
            reply :=
              if hall = false ∧ (portOf s l).state = .up ∧ (portOf s l).quiet = false then
                some { tag := tag, poisoned := pois, payload := [unitStatus s, code, outcomeByte o, 0] ++ data }
              else (portOf s l).reply } s := by
  by_cases hu : hall = false ∧ (portOf s l).state = .up ∧ (portOf s l).quiet = false
  · rw [if_pos hu]
    obtain ⟨rfl, hs, hq⟩ := hu
    have ho : isOpen (portOf s l) = true := by simp [isOpen, hs, hq]
    simp only [Bool.false_eq_true, if_false, makeReply, ho, if_true, modPort, replyPayload]
  · rw [if_neg hu]
    refine Eq.trans ?_ (setPort_portOf l s).symm
    cases hall
    · have ho : isOpen (portOf s l) = false := by
        rw [← Bool.not_eq_true]
        intro h1
        exact hu ⟨rfl, by simpa [isOpen] using h1⟩
      simp only [Bool.false_eq_true, if_false, makeReply, ho]
    · rfl

/-- What a conclusion leaves, for every control but the two reports. -/
theorem conclude_concluded {code : Byte} (h1 : code ≠ 1) (h2 : code ≠ 2) (l : Link) (w : Wire) (o : ControlOutcome)
    (data : List Byte) (pois : Bool) (s : State) :
    Concluded l code w o data pois s (conclude l code w.tag (toHall w) o data pois s) := by
  have hr : recordConclusion l code w.tag (toHall w) o s =
      { s with
        control.controlError := decide (o ≠ .taken)
        control.hallReceived := decide (w.address = Config.hallAddress)
        control.last := some { code := code, tag := w.tag, link := l, outcome := o } } := by
    unfold recordConclusion
    rw [if_neg (by rintro (h | h); exacts [h1 h, h2 h])]
    rfl
  unfold Concluded conclude
  dsimp only
  rw [makeReply_eq, hr, unitStatus_setPort_reply, toHall_eq]
  simp only [decide_eq_false_iff_not]
  rfl

/-- What a conclusion of a report leaves. -/
theorem conclude_reported {code : Byte} (h : code = 1 ∨ code = 2) (l : Link) (w : Wire) (o : ControlOutcome)
    (data : List Byte) (pois : Bool) (s : State) :
    Reported l code w o data pois s (conclude l code w.tag (toHall w) o data pois s) := by
  have hr : recordConclusion l code w.tag (toHall w) o s = s := by
    unfold recordConclusion
    exact if_pos h
  unfold Reported conclude
  dsimp only
  rw [makeReply_eq, hr, unitStatus_setPort_reply, toHall_eq]
  simp only [decide_eq_false_iff_not]

end Sys2Proof.Machine
end

