-- ==== Sys2Proof/Laws/Blocks.lean ====
section
/-!
SUPPORT. Blocks and lists: what a change of one directory entry does to the blocks listed in all versions, and what joining
the free list does to its members and its order.
-/

namespace Sys2Proof.Machine

/-- Replacing one item of a list, seen through the lists that the items stand for. -/
theorem flatMap_set_perm {α β : Type} (f : α → List β) : ∀ (l : List α) (i : Nat) (e : α) (h : i < l.length),
    ((l.set i e).flatMap f ++ f l[i]).Perm (f e ++ l.flatMap f)
  | x :: xs, 0, e, _ => by
    simp only [List.set_cons_zero, List.flatMap_cons, List.getElem_cons_zero, List.append_assoc]
    exact List.Perm.append_left _ List.perm_append_comm
  | x :: xs, i + 1, e, h => by
    simp only [List.set_cons_succ, List.flatMap_cons, List.getElem_cons_succ, List.append_assoc]
    have ih := flatMap_set_perm f xs i e (by simpa using h)
    refine (List.Perm.append_left _ ih).trans ?_
    rw [← List.append_assoc, ← List.append_assoc]
    exact List.Perm.append_right _ List.perm_append_comm

/-- Replacing one directory entry exchanges its blocks among those listed. -/
theorem listed_setEntry (i : RosterIndex) (e : DirEntry) (s : State) :
    (listedBlocks (setEntry i e s) ++ entryBlocks (entryOf s i)).Perm (entryBlocks e ++ listedBlocks s) := by
  have := flatMap_set_perm entryBlocks s.intake.directory.toList i.val e (by simp)
  simpa [listedBlocks, setEntry, entryOf, Vector.toList_set] using this

/-- The same, counted for one block number. -/
theorem count_setEntry (a : Nat) (i : RosterIndex) (e : DirEntry) (s : State) :
    (listedBlocks (setEntry i e s)).count a + (entryBlocks (entryOf s i)).count a
      = (entryBlocks e).count a + (listedBlocks s).count a := by
  have := (listed_setEntry i e s).count_eq a
  simpa [List.count_append] using this

/-- A block that joins the free list is one member more. -/
theorem insertBlock_perm (b : Nat) : ∀ l, (insertBlock b l).Perm (b :: l)
  | [] => .refl _
  | c :: cs => by
    unfold insertBlock
    split
    · exact .refl _
    · exact ((insertBlock_perm b cs).cons c).trans (List.Perm.swap _ _ _)

/-- Blocks that return together are so many members more. -/
theorem insertBlocks_perm : ∀ (bs l : List Nat), (bs.foldl (fun fl b => insertBlock b fl) l).Perm (bs ++ l)
  | [], l => .refl _
  | b :: bs, l => by
    refine (insertBlocks_perm bs _).trans ?_
    refine (List.Perm.append_left _ (insertBlock_perm b l)).trans ?_
    simp

/-- A block joins the free list at its place in the order. -/
theorem insertBlock_sorted (b : Nat) : ∀ l : List Nat, l.Pairwise (· ≤ ·) → (insertBlock b l).Pairwise (· ≤ ·)
  | [], _ => by simp [insertBlock]
  | c :: cs, h => by
    unfold insertBlock
    rw [List.pairwise_cons] at h
    split
    · rename_i hbc
      refine List.pairwise_cons.2 ⟨fun x hx => ?_, List.pairwise_cons.2 h⟩
      rcases List.mem_cons.1 hx with rfl | hx
      · exact hbc
      · exact le_trans hbc (h.1 x hx)
    · rename_i hbc
      refine List.pairwise_cons.2 ⟨fun x hx => ?_, insertBlock_sorted b cs h.2⟩
      rcases List.mem_cons.1 ((insertBlock_perm b cs).mem_iff.1 hx) with rfl | hx
      · omega
      · exact h.1 x hx

end Sys2Proof.Machine
end

