-- ==== Sys2Proof/Laws/Entries.lean ====
section
/-!
SUPPORT. What freeing, voiding and clearing leave of the roster records and directory entries, what a roster load does
to them, and a body that the staging has room for.
-/

namespace Sys2Proof.Machine

/-! ## Records and entries that stand -/

/-- Latching a kind leaves every record and entry. -/
theorem latchKind_leaves (k : NoticeKind) (s : State) (i : RosterIndex) :
    recordOf (latchKind k s) i = recordOf s i ∧ entryOf (latchKind k s) i = entryOf s i := by
  unfold latchKind sendNotice
  dsimp only
  repeat' split
  all_goals exact ⟨rfl, rfl⟩

/-- Changing a delivery record leaves every roster record and entry. -/
theorem changeRecord_leaves (q : BitVec 32) (f : DeliveryRecord → DeliveryRecord) (s : State) (i : RosterIndex) :
    recordOf (changeRecord q f s) i = recordOf s i ∧ entryOf (changeRecord q f s) i = entryOf s i := by
  unfold changeRecord
  repeat' split
  all_goals exact ⟨rfl, rfl⟩

/-! ## Freeing, voiding, clearing -/

/-- Freeing the incoming version empties that slot of the one entry. -/
theorem freeIncoming_frame (i j : RosterIndex) (s : State) :
    recordOf (freeIncoming i s) j = recordOf s j
    ∧ entryOf (freeIncoming i s) j = if j = i then { entryOf s i with incoming := none } else entryOf s j := by
  unfold freeIncoming
  split
  · rename_i h
    refine ⟨rfl, ?_⟩
    split
    · subst j
      cases he : entryOf s i
      simp_all
    · rfl
  · refine ⟨rfl, ?_⟩
    show entryOf (setEntry _ _ _) _ = _
    split
    · subst j
      simp
    · rw [entryOf_setEntry_ne _ _ (by assumption)]

/-- Freeing the held version empties that slot of the one entry. -/
theorem freeHeld_frame (i j : RosterIndex) (s : State) :
    recordOf (freeHeld i s) j = recordOf s j
    ∧ entryOf (freeHeld i s) j = if j = i then { entryOf s i with held := none } else entryOf s j := by
  unfold freeHeld
  split
  · rename_i h
    refine ⟨rfl, ?_⟩
    split
    · subst j
      cases he : entryOf s i
      simp_all
    · rfl
  · refine ⟨rfl, ?_⟩
    show entryOf (setEntry _ _ _) _ = _
    split
    · subst j
      simp
    · rw [entryOf_setEntry_ne _ _ (by assumption)]

/-- Voiding the train of an index leaves the other entries and every held version. -/
theorem voidTrainIf_frame (i j : RosterIndex) (o : Delivery) (l : Link) (s : State) :
    recordOf (voidTrainIf i o l s) j = recordOf s j
    ∧ (j ≠ i → entryOf (voidTrainIf i o l s) j = entryOf s j)
    ∧ (entryOf (voidTrainIf i o l s) i).held = (entryOf s i).held := by
  unfold voidTrainIf
  split
  · split
    · rename_i t ht hi
      unfold voidTrain
      rw [ht]
      dsimp only
      rw [(latchKind_leaves _ _ _).1, (latchKind_leaves _ _ _).2, (latchKind_leaves _ _ _).2]
      unfold completeRecord
      rw [(changeRecord_leaves _ _ _ _).1, (changeRecord_leaves _ _ _ _).2, (changeRecord_leaves _ _ _ _).2, hi]
      simp only [entryOf_setTrain]
      refine ⟨(freeIncoming_frame _ _ _).1, fun h => ?_, ?_⟩
      · rw [(freeIncoming_frame _ _ _).2, if_neg h]
      · rw [(freeIncoming_frame _ _ _).2, if_pos rfl]
    · exact ⟨rfl, fun _ => rfl, rfl⟩
  · exact ⟨rfl, fun _ => rfl, rfl⟩

/-- Clearing an entry empties both slots of the one entry (R16, R47). -/
theorem clearEntry_frame (i j : RosterIndex) (s : State) :
    recordOf (clearEntry i s) j = recordOf s j
    ∧ entryOf (clearEntry i s) j = if j = i then { held := none, incoming := none } else entryOf s j := by
  unfold clearEntry dropIncoming voidTrainOf
  have a := voidTrainIf_frame i j .abandoned .a s
  have b := voidTrainIf_frame i j .abandoned .b (voidTrainIf i .abandoned .a s)
  rw [(freeHeld_frame _ _ _).1, (freeHeld_frame _ _ _).2, (freeIncoming_frame _ _ _).1,
    (freeIncoming_frame _ _ _).2, (freeIncoming_frame _ _ _).2, if_pos rfl]
  refine ⟨b.1.trans a.1, ?_⟩
  split
  · rfl
  · rename_i h
    rw [b.2.1 h, a.2.1 h]

/-! ## Roster loads -/

/-- A staged entry replaces its record, and clears its directory entry where the student id changes (R15, R16). -/
theorem applyEntry_frame (i j : RosterIndex) (e : RosterEntry) (s : State) :
    (recordOf (applyEntry i e s) j =
      if j = i then
        { recordOf s i with
          listed := decide (e.studentId ≠ 0), studentId := e.studentId
          caption := if e.studentId = 0 then [] else e.caption }
      else recordOf s j)
    ∧ entryOf (applyEntry i e s) j =
        if j = i ∧ e.studentId ≠ (recordOf s i).studentId then { held := none, incoming := none }
        else entryOf s j := by
  have key : applyEntry i e s =
      (if (recordOf s i).studentId = e.studentId then id else clearEntry i)
        (setRecord i
          { recordOf s i with
            listed := decide (e.studentId ≠ 0), studentId := e.studentId
            caption := if e.studentId = 0 then [] else e.caption } s) := by
    unfold applyEntry
    by_cases h : e.studentId = 0 <;>
      simp only [h, if_true, if_false, ne_eq, not_true_eq_false, not_false_eq_true, decide_true, decide_false] <;>
      split <;> rfl
  rw [key]
  have hs : ∀ r : RosterRecord, recordOf (setRecord i r s) j = if j = i then r else recordOf s j := by
    intro r
    split
    · subst j
      simp
    · rw [recordOf_setRecord_ne _ _ (by assumption)]
  split
  · rename_i h
    refine ⟨hs _, ?_⟩
    rw [if_neg (c := j = i ∧ _) (by intro q; exact q.2 h.symm)]
    rfl
  · rename_i h
    refine ⟨(clearEntry_frame _ _ _).1.trans (hs _), ?_⟩
    rw [(clearEntry_frame _ _ _).2]
    by_cases hj : j = i
    · rw [if_pos hj, if_pos (c := j = i ∧ _) ⟨hj, fun q => h q.symm⟩]
    · rw [if_neg hj, if_neg (c := j = i ∧ _) fun q => hj q.1]
      rfl

/-- The entries that a roster load reads are as many as it asks for. -/
theorem readRoster_length : ∀ (n : Nat) (bs : List Byte) (es : List RosterEntry) (more : List Byte),
    readRoster n bs = some (es, more) → es.length = n := by
  intro n
  induction n with
  | zero =>
    intro bs es more h
    simp [readRoster] at h
    simp [h.1]
  | succ n ih =>
    intro bs es more h
    simp [readRoster] at h
    obtain ⟨-, a, h1, h2⟩ := h
    subst h2
    simp [ih _ _ _ h1]

/-! ## Staging -/

/-- A body that the staging has room for is appended whole (R168). -/
theorem appendBody_fits {g : Staging} {p : List Byte} (h : g.bytes.length + p.length ≤ stagingLimit g.target) :
    appendBody g p = { g with bytes := g.bytes ++ p, gapTimer := 0 } := by
  unfold appendBody
  dsimp only
  rw [List.take_of_length_le (by omega)]
  have : decide (stagingLimit g.target - g.bytes.length < p.length) = false := decide_eq_false (by omega)
  simp [this]

end Sys2Proof.Machine
end

