-- ==== Sys2Proof/Laws/Paths.lean ====
section
/-!
SUPPORT. What a command can do to the tile memory and the directory, to the queue of commands, to the straps and to the
line count, said once: a path of primitive moves. Blocks that a command has taken out of the free list or of a directory
entry and not yet put back stand in a list of their own beside the state. One lemma for each shared operation says that
the operation is such a path.
-/

namespace Sys2Proof.Machine

/-- One primitive move, from a state with some blocks in hand to another, and how many line syncs it answers. -/
inductive Move : Nat → State → List Nat → State → List Nat → Prop where
  /-- Nothing the path speaks of changes. -/
  | other {s t : State} {L : List Nat} (hs : t.store = s.store) (hd : t.intake.directory = s.intake.directory)
      (hp : t.pending = s.pending) (ha : t.straps = s.straps) (hl : t.press.lineCount = s.press.lineCount) :
      Move 0 s L t L
  /-- A line sync is answered. -/
  | line {s : State} {L : List Nat} (x : List Pixel) : Move 1 s L (emitLine x s) L
  /-- Bytes of tile memory are written. -/
  | write {s : State} {L : List Nat} (bl : List Nat) (n : Nat) (bs : List Byte) :
      Move 0 s L { s with store.bytes := writeVersion bl s.store.bytes n bs } L
  /-- The versions of an entry change, but not the blocks they list or which slots hold one. -/
  | edit {s : State} {L : List Nat} (i : RosterIndex) (e : DirEntry)
      (hh : e.held.map (·.version.blocks) = (entryOf s i).held.map (·.version.blocks))
      (hi : e.incoming.map (·.version.blocks) = (entryOf s i).incoming.map (·.version.blocks)) :
      Move 0 s L (setEntry i e s) L
  /-- A held version leaves its entry and the Arrival List, and its blocks come in hand. -/
  | freed {s : State} {L : List Nat} (i : RosterIndex) (h : Held) (hh : (entryOf s i).held = some h) :
      Move 0 s L (leaveArrival i (setEntry i { entryOf s i with held := none } s)) (h.version.blocks ++ L)
  /-- An incoming version leaves its entry, and its blocks come in hand. -/
  | lifted {s : State} {L : List Nat} (i : RosterIndex) (v : Incoming) (hi : (entryOf s i).incoming = some v) :
      Move 0 s L (setEntry i { entryOf s i with incoming := none } s) (v.version.blocks ++ L)
  /-- Blocks in hand return to the free list. -/
  | returned {s : State} {L : List Nat} (bs : List Nat) : Move 0 s (bs ++ L) (returnBlocks bs s) L
  /-- The front of the free list comes in hand. -/
  | taken {s : State} {L : List Nat} (n : Nat) (hn : n ≤ s.store.freeCount) :
      Move 0 s L (takeBlocks n s) (s.store.freeList.take n ++ L)
  /-- A version with blocks in hand takes an empty incoming slot. -/
  | placedIncoming {s : State} {L : List Nat} (i : RosterIndex) (v : Incoming) (hi : (entryOf s i).incoming = none) :
      Move 0 s (v.version.blocks ++ L) (setEntry i { entryOf s i with incoming := some v } s) L
  /-- A version with blocks in hand takes an empty held slot beside an empty incoming slot. -/
  | placedHeld {s : State} {L : List Nat} (i : RosterIndex) (st : HeldState) (v : Version)
      (hh : (entryOf s i).held = none) (hi : (entryOf s i).incoming = none) :
      Move 0 s (v.blocks ++ L) (becomeHeld i st v s) L

/-- A path of moves, with the number of line syncs answered along it. -/
inductive Path : Nat → State → List Nat → State → List Nat → Prop where
  | refl (s : State) (L : List Nat) : Path 0 s L s L
  | step {n k : Nat} {s t u : State} {L M N : List Nat} (p : Path n s L t M) (m : Move k t M u N) :
      Path (n + k) s L u N

theorem Path.trans {n k : Nat} {s t u : State} {L M N : List Nat} (p : Path n s L t M) (q : Path k t M u N) :
    Path (n + k) s L u N := by
  induction q with
  | refl => exact p
  | step _ m ih => rw [← Nat.add_assoc]; exact Path.step (ih p) m

theorem Path.single {k : Nat} {s t : State} {L M : List Nat} (m : Move k s L t M) : Path k s L t M := by
  have := (Path.refl s L).step m
  rwa [Nat.zero_add] at this

/-- A path that answers no line sync and ends with the blocks in hand that it began with, whatever they are. -/
def Calm (s t : State) : Prop := ∀ L : List Nat, Path 0 s L t L

theorem Calm.refl (s : State) : Calm s s := fun L => Path.refl s L

theorem Calm.trans {s t u : State} (p : Calm s t) (q : Calm t u) : Calm s u := fun L => (p L).trans (q L)

theorem Calm.other {s t : State} (hs : t.store = s.store) (hd : t.intake.directory = s.intake.directory)
    (hp : t.pending = s.pending) (ha : t.straps = s.straps) (hl : t.press.lineCount = s.press.lineCount) : Calm s t :=
  fun _ => Path.single (Move.other hs hd hp ha hl)

/-- A calm path, begun by a change of what no path speaks of. -/
theorem Calm.before {s t u : State} (q : Calm t u) (hs : t.store = s.store)
    (hd : t.intake.directory = s.intake.directory) (hp : t.pending = s.pending) (ha : t.straps = s.straps)
    (hl : t.press.lineCount = s.press.lineCount) : Calm s u := (Calm.other hs hd hp ha hl).trans q

/-- A calm path, ended by a change of what no path speaks of. -/
theorem Calm.next {s t u : State} (p : Calm s t) (hs : u.store = t.store)
    (hd : u.intake.directory = t.intake.directory) (hp : u.pending = t.pending) (ha : u.straps = t.straps)
    (hl : u.press.lineCount = t.press.lineCount) : Calm s u := p.trans (Calm.other hs hd hp ha hl)

theorem Calm.foldl {α : Type} {f : State → α → State} (h : ∀ s x, Calm s (f s x)) :
    ∀ (xs : List α) (s : State), Calm s (xs.foldl f s)
  | [], s => Calm.refl s
  | x :: xs, s => (h s x).trans (Calm.foldl h xs (f s x))

/-- What a path keeps: the queue of commands and the straps stay, and the line count rises by the line syncs answered. -/
theorem Path.keeps {n : Nat} {s t : State} {L M : List Nat} (p : Path n s L t M) :
    t.pending = s.pending ∧ t.straps = s.straps ∧ t.press.lineCount = s.press.lineCount + BitVec.ofNat 48 n := by
  induction p with
  | refl => simp
  | step p m ih =>
    obtain ⟨h1, h2, h3⟩ := ih
    cases m with
    | other _ _ hp ha hl => exact ⟨hp.trans h1, ha.trans h2, by rw [hl, h3]; simp⟩
    | line x =>
      refine ⟨h1, h2, ?_⟩
      simp only [emitLine, h3, BitVec.ofNat_add]
      rw [BitVec.add_assoc]; rfl
    | _ => exact ⟨h1, h2, by rw [Nat.add_zero]; exact h3⟩

/-! ## Notices, calls and ports -/

theorem calm_setPort (l : Link) (p : Port) (s : State) : Calm s (setPort l p s) := .other rfl rfl rfl rfl rfl
theorem calm_modPort (l : Link) (f : Port → Port) (s : State) : Calm s (modPort l f s) := .other rfl rfl rfl rfl rfl
theorem calm_setTrain (l : Link) (t : Option Train) (s : State) : Calm s (setTrain l t s) := .other rfl rfl rfl rfl rfl
theorem calm_setRecord (i : RosterIndex) (r : RosterRecord) (s : State) : Calm s (setRecord i r s) :=
  .other rfl rfl rfl rfl rfl
theorem calm_setSlot (l : Link) (x : Slot) (s : State) : Calm s (setSlot l x s) := .other rfl rfl rfl rfl rfl
theorem calm_modImpression (f : Impression → Impression) (s : State) : Calm s (modImpression f s) :=
  .other rfl rfl rfl rfl rfl

theorem calm_modHead (f : Order → Order) (s : State) : Calm s (modHead f s) := by
  unfold modHead
  split
  · exact .refl s
  · exact .other rfl rfl rfl rfl rfl

theorem calm_sendNotice (s : State) : Calm s (sendNotice s) := calm_modPort _ _ s

theorem calm_latchKind (k : NoticeKind) (s : State) : Calm s (latchKind k s) := by
  unfold latchKind
  split
  · exact .refl s
  · have h : Calm s { s with notices.latched := s.notices.latched ||| kindBit k } := .other rfl rfl rfl rfl rfl
    dsimp only
    split
    · exact h.trans (calm_sendNotice _)
    · exact h

theorem calm_moveWaiting (src dst : Link) (s : State) : Calm s (moveWaiting src dst s) :=
  (calm_setPort _ _ s).trans (calm_setPort _ _ _)

theorem calm_rerouteWaiting (s : State) : Calm s (rerouteWaiting s) := by
  unfold rerouteWaiting
  split
  · exact calm_moveWaiting _ _ s
  · exact calm_moveWaiting _ _ s
  · exact .refl s
  · exact .refl s

theorem calm_countReceive (l : Link) (k : ReceiveCounter) (s : State) : Calm s (countReceive l k s) := by
  unfold countReceive
  dsimp only
  split
  · exact (calm_modPort _ _ s).trans (calm_latchKind _ _)
  · exact calm_modPort _ _ s

/-! ## Tile memory -/

theorem calm_freeHeld (i : RosterIndex) (s : State) : Calm s (freeHeld i s) := by
  unfold freeHeld
  split
  · exact .refl s
  · rename_i h hh
    exact fun L => (Path.single (Move.freed i h hh)).step (Move.returned h.version.blocks)

theorem calm_freeIncoming (i : RosterIndex) (s : State) : Calm s (freeIncoming i s) := by
  unfold freeIncoming
  split
  · exact .refl s
  · rename_i v hv
    exact fun L => (Path.single (Move.lifted i v hv)).step (Move.returned v.version.blocks)

theorem calm_reclaimWalk (target : Nat) : ∀ (is : List RosterIndex) (s : State), Calm s (reclaimWalk target is s)
  | [], s => .refl s
  | i :: rest, s => by
    unfold reclaimWalk
    split
    · exact .refl s
    · split
      · exact (calm_freeHeld i s).trans (calm_reclaimWalk target rest _)
      · exact calm_reclaimWalk target rest s

theorem calm_reclaim (target : Nat) (s : State) : Calm s (reclaim target s) := calm_reclaimWalk target _ s

theorem calm_latchStoreLow (s : State) : Calm s (latchStoreLow s) := by
  unfold latchStoreLow
  split
  · exact calm_latchKind _ s
  · exact .refl s

theorem calm_lowWaterTest (s : State) : Calm s (lowWaterTest s) := by
  unfold lowWaterTest
  split
  · exact (calm_reclaim _ s).trans (calm_latchStoreLow _)
  · exact .refl s

theorem calm_reclaimAtOpen (n : Nat) (s : State) : Calm s (reclaimAtOpen n s) := by
  unfold reclaimAtOpen
  split
  · exact calm_reclaim n s
  · exact .refl s

theorem calm_freeAfterUse (is : List RosterIndex) (s : State) : Calm s (freeAfterUse is s) := by
  refine Calm.foldl (fun s i => ?_) is s
  split
  · exact calm_freeHeld i s
  · exact .refl s

/-! ## Tile Intake -/

theorem calm_writeRecord (r : DeliveryRecord) (s : State) : Calm s (writeRecord r s) := .other rfl rfl rfl rfl rfl

theorem calm_changeRecord (q : BitVec 32) (f : DeliveryRecord → DeliveryRecord) (s : State) :
    Calm s (changeRecord q f s) := by
  unfold changeRecord
  split
  · split
    · exact .other rfl rfl rfl rfl rfl
    · exact .refl s
  · exact .refl s

theorem calm_completeRecord (q : BitVec 32) (n : Nat) (o : Delivery) (a b : Bool) (s : State) :
    Calm s (completeRecord q n o a b s) := calm_changeRecord _ _ s

theorem calm_voidTrain (l : Link) (o : Option Delivery) (s : State) : Calm s (voidTrain l o s) := by
  unfold voidTrain
  split
  · exact .refl s
  · rename_i t _
    have h := (calm_freeIncoming t.index s).trans (calm_setTrain l none _)
    dsimp only
    split
    · exact (h.trans (calm_completeRecord _ _ _ _ _ _)).trans (calm_latchKind _ _)
    · exact (h.trans (calm_changeRecord _ _ _)).trans (calm_latchKind _ _)

theorem calm_voidTrainIf (i : RosterIndex) (o : Delivery) (l : Link) (s : State) : Calm s (voidTrainIf i o l s) := by
  unfold voidTrainIf
  split
  · split
    · exact calm_voidTrain _ _ s
    · exact .refl s
  · exact .refl s

theorem calm_dropIncoming (i : RosterIndex) (o : Delivery) (s : State) : Calm s (dropIncoming i o s) :=
  ((calm_voidTrainIf i o .a s).trans (calm_voidTrainIf i o .b _)).trans (calm_freeIncoming i _)

theorem calm_refuseHead (l : Link) (o : Delivery) (id : BitVec 32) (i : Option RosterIndex) (s : State) :
    Calm s (refuseHead l o id i s) := (calm_writeRecord _ s).trans (calm_latchKind _ _)

/-- Once its incoming version is freed, an entry has none. -/
theorem incoming_freeIncoming (i : RosterIndex) (s : State) : (entryOf (freeIncoming i s) i).incoming = none := by
  unfold freeIncoming
  split
  · assumption
  · show (entryOf (setEntry i _ s) i).incoming = none
    simp

/-- Once its held version is freed, an entry has none. -/
theorem held_freeHeld (i : RosterIndex) (s : State) : (entryOf (freeHeld i s) i).held = none := by
  unfold freeHeld
  split
  · assumption
  · show (entryOf (setEntry i _ s) i).held = none
    simp

/-- The freeing of a held version leaves the incoming slot as it was. -/
theorem incoming_freeHeld (i : RosterIndex) (s : State) :
    (entryOf (freeHeld i s) i).incoming = (entryOf s i).incoming := by
  unfold freeHeld
  split
  · rfl
  · show (entryOf (setEntry i _ s) i).incoming = _
    simp

theorem path_openTrain (l : Link) (h : TileHead) (i : RosterIndex) (n : Fin 16) (blocks L : List Nat) (s : State) :
    Path 0 s (blocks ++ L) (openTrain l h i n blocks s) L := by
  have h1 := calm_dropIncoming i .superseded s (blocks ++ L)
  have h2 := h1.step (Move.placedIncoming (L := L) i
    { version := newVersion l h n blocks s, state := .filling } (incoming_freeIncoming i _))
  exact (h2.trans (calm_setTrain l _ _ L)).trans (calm_writeRecord _ _ L)

theorem calm_reserveAndOpen (l : Link) (h : TileHead) (i : RosterIndex) (n : Fin 16) (s : State) :
    Calm s (reserveAndOpen l h i n s) := by
  have h1 := calm_reclaimAtOpen (blocksNeeded h.width h.height) s
  unfold reserveAndOpen
  dsimp only
  split
  · exact (h1.trans (calm_refuseHead _ _ _ _ _)).trans (calm_latchStoreLow _)
  · rename_i hn
    intro L
    have h2 := (h1 L).step (Move.taken (blocksNeeded h.width h.height) (Nat.le_of_not_lt hn))
    exact (h2.trans (calm_lowWaterTest _ _)).trans (path_openTrain l h i n _ L _)

theorem calm_takeTileHead (l : Link) (w : Wire) (s : State) : Calm s (takeTileHead l w s) := by
  unfold takeTileHead
  dsimp only
  have h1 := calm_voidTrain l (some .superseded) s
  split
  · exact h1.trans (calm_refuseHead _ _ _ _ _)
  · exact h1.trans (calm_reserveAndOpen _ _ _ _ _)

/-- The path by which the incoming version of an entry becomes its held version, where the held slot is empty. -/
theorem calm_raise {s : State} (i : RosterIndex) (st : HeldState) (v : Version) (inc : Incoming)
    (hi : (entryOf s i).incoming = some inc) (hb : inc.version.blocks = v.blocks) (hh : (entryOf s i).held = none) :
    Calm s (becomeHeld i st v (emptyIncoming i s)) := by
  intro L
  have h1 := Path.single (Move.lifted (L := L) i inc hi)
  rw [hb] at h1
  refine h1.step (Move.placedHeld i st v ?_ ?_)
  · show (entryOf (setEntry i _ s) i).held = none
    simpa using hh
  · show (entryOf (setEntry i _ s) i).incoming = none
    simp

/-- The path by which the incoming version of an entry replaces its held version, which is freed. -/
theorem calm_replace {s : State} (i : RosterIndex) (st : HeldState) (v : Version) (inc : Incoming)
    (hi : (entryOf s i).incoming = some inc) (hb : inc.version.blocks = v.blocks) :
    Calm s (becomeHeld i st v (freeHeld i (emptyIncoming i s))) := by
  intro L
  have h1 := Path.single (Move.lifted (L := L) i inc hi)
  rw [hb] at h1
  refine (h1.trans (calm_freeHeld i _ _)).step (Move.placedHeld i st v (held_freeHeld i _) ?_)
  have h2 : (entryOf (setEntry i { entryOf s i with incoming := none } s) i).incoming = none := by simp
  exact (incoming_freeHeld i _).trans h2

theorem calm_fileReady {s : State} (i : RosterIndex) (v : Version) (inc : Incoming)
    (hi : (entryOf s i).incoming = some inc) (hb : inc.version.blocks = v.blocks) :
    Calm s (fileReady i v s).1 := by
  unfold fileReady
  split
  · rename_i hh
    exact calm_raise i .ready v inc hi hb hh
  · dsimp only
    split
    · exact calm_replace i .ready { v with retake := true } inc hi hb
    · exact fun _ => Path.single (Move.edit i _ rfl (by rw [hi]; simp [hb]))

theorem calm_fileDamaged {s : State} (i : RosterIndex) (v : Version) (inc : Incoming)
    (hi : (entryOf s i).incoming = some inc) (hb : inc.version.blocks = v.blocks) :
    Calm s (fileDamaged i v s).1 := by
  unfold fileDamaged
  dsimp only
  refine Calm.trans ?_ (calm_latchKind _ _)
  split
  · rename_i hh
    exact calm_raise i .damaged v inc hi hb hh
  · split
    · exact calm_replace i .damaged v inc hi hb
    · intro L
      have h1 := Path.single (Move.lifted (L := L) i inc hi)
      rw [hb] at h1
      exact h1.step (Move.returned v.blocks)

theorem calm_answerCalls (i : RosterIndex) (s : State) : Calm s (answerCalls i s).1 := .other rfl rfl rfl rfl rfl

theorem calm_noteLate (o : Option Nat) (s : State) : Calm s (noteLate o s) := by
  unfold noteLate
  split
  · exact .refl s
  · exact (calm_latchKind _ s).trans (calm_modImpression _ _)

theorem calm_closeTrain (l : Link) (b : Bool) (s : State) : Calm s (closeTrain l b s) := by
  unfold closeTrain
  split
  · exact .refl s
  · rename_i t _
    dsimp only
    have h1 := calm_setTrain l none s
    split
    · exact h1
    · rename_i inc hinc
      by_cases hr : (b && decide (inc.version.rows = inc.version.height) && !inc.version.poisonedSeen) = true
      all_goals simp only [hr, if_true, Bool.false_eq_true, if_false]
      all_goals refine Calm.trans ?_ (calm_completeRecord _ _ _ _ _ _)
      all_goals refine Calm.trans ?_ (calm_noteLate _ _)
      · refine Calm.trans ?_ (calm_answerCalls _ _)
        exact h1.trans (calm_fileReady t.index _ inc hinc rfl)
      · exact h1.trans (calm_fileDamaged t.index _ inc hinc rfl)

theorem calm_storeRow {s : State} (i : RosterIndex) (inc : Incoming) (w : Wire)
    (hi : (entryOf s i).incoming = some inc) : Calm s (storeRow i inc.version w s) := by
  intro L
  unfold storeRow
  have h1 := Path.single (Move.write (s := s) (L := L) inc.version.blocks (inc.version.rows * inc.version.width * 3)
    (tonedBytes s inc.version.session (bodyBytes w.payload)))
  refine Path.step h1 (Move.edit i _ ?_ ?_)
  · rfl
  · show some inc.version.blocks = (entryOf s i).incoming.map _
    rw [hi]; rfl

theorem calm_takeTileBody (l : Link) (w : Wire) (s : State) : Calm s (takeTileBody l w s) := by
  unfold takeTileBody
  split
  · exact calm_countReceive _ _ s
  · split
    · exact calm_countReceive _ _ s
    · rename_i inc hinc
      split
      · have h1 := (calm_storeRow _ inc w hinc).trans (calm_setTrain l (some { (‹Train› : Train) with
            lastRow := some (bodyRow w.payload), gapTimer := 0 }) _)
        dsimp only
        split
        · exact h1.trans (calm_closeTrain _ _ _)
        · exact h1
      · split
        · exact calm_closeTrain _ _ s
        · exact calm_setTrain _ _ s
      · exact calm_closeTrain _ _ s

theorem calm_expireTrain (l : Link) (s : State) : Calm s (expireTrain l s) := by
  unfold expireTrain
  split
  · exact calm_voidTrain _ _ s
  · exact .refl s

theorem calm_edit {s : State} (i : RosterIndex) (e : DirEntry)
    (hh : e.held.map (·.version.blocks) = (entryOf s i).held.map (·.version.blocks))
    (hi : e.incoming.map (·.version.blocks) = (entryOf s i).incoming.map (·.version.blocks)) :
    Calm s (setEntry i e s) := fun _ => Path.single (Move.edit i e hh hi)

theorem calm_lockEntry (i : RosterIndex) (s : State) : Calm s (lockEntry i s) := by
  unfold lockEntry
  split
  · exact .refl s
  · rename_i h hh
    exact calm_edit i _ (by simp [hh]) rfl

theorem calm_promote (i : RosterIndex) (s : State) : Calm s (promote i s) := by
  unfold promote
  split
  · rename_i v hv
    exact calm_replace i .ready v _ hv rfl
  · exact .refl s
  · exact .refl s

theorem calm_unlockEntry (i : RosterIndex) (s : State) : Calm s (unlockEntry i s) := by
  unfold unlockEntry
  split
  · exact .refl s
  · rename_i h hh
    have h1 : Calm s (setEntry i { entryOf s i with held := some { h with lock := h.lock - 1 } } s) :=
      calm_edit i _ (by simp [hh]) rfl
    dsimp only
    split
    · split
      · exact h1.trans (calm_freeHeld _ _)
      · exact h1.trans (calm_promote _ _)
    · exact h1

theorem calm_withholdEntry (i : RosterIndex) (s : State) : Calm s (withholdEntry i s) := by
  have h1 := calm_dropIncoming i .withheld s
  unfold withholdEntry
  dsimp only
  split
  · split
    · exact h1.trans (calm_freeHeld _ _)
    · exact h1
  · exact h1

theorem calm_clearEntry (i : RosterIndex) (s : State) : Calm s (clearEntry i s) :=
  (calm_dropIncoming i .abandoned s).trans (calm_freeHeld i _)

theorem calm_purgeEntry (i : RosterIndex) (s : State) : Calm s (purgeEntry i s) := by
  have h1 := calm_freeIncoming i s
  unfold purgeEntry
  dsimp only
  split
  · split
    · exact h1.trans (calm_freeHeld _ _)
    · exact h1
  · exact h1

theorem calm_purgeStore (s : State) : Calm s (purgeStore s) :=
  ((calm_voidTrain .a _ s).trans (calm_voidTrain .b _ _)).trans (Calm.foldl (fun s i => calm_purgeEntry i s) _ _)

/-! ## Seats -/

theorem calm_decideSeat (tag : BitVec 16) (n : Nat) (i : RosterIndex) (s : State) : Calm s (decideSeat tag n i s) := by
  unfold decideSeat
  dsimp only
  split
  · exact ((calm_modHead _ s).trans (calm_lockEntry _ _)).next rfl rfl rfl rfl rfl
  · exact (calm_modHead _ s).next rfl rfl rfl rfl rfl

theorem calm_freezeSeat (tag : BitVec 16) (k : Nat) (s : State) (x : Seat × Nat) : Calm s (freezeSeat tag k s x) := by
  unfold freezeSeat
  split
  · split
    · exact calm_decideSeat _ _ _ s
    · exact .refl s
  · exact .refl s

theorem calm_freezeBand (s : State) : Calm s (freezeBand s) := by
  unfold freezeBand
  split
  · exact .refl s
  · split
    · exact .refl s
    · exact (Calm.foldl (calm_freezeSeat _ _) _ s).trans (calm_modImpression _ _)

theorem calm_dropCall (s : State) : Calm s (dropCall s) :=
  (calm_latchKind _ _).before rfl rfl rfl rfl rfl

theorem calm_issueCall (tag : BitVec 16) (i : RosterIndex) (due : LineValue) (s : State) :
    Calm s (issueCall tag i due s) := by
  unfold issueCall
  dsimp only
  split
  · exact (calm_modPort _ _ _).before rfl rfl rfl rfl rfl
  · exact calm_dropCall s

theorem calm_takeCallPoint (tag : BitVec 16) (n : Nat) (i : RosterIndex) (due : LineValue) (s : State) :
    Calm s (takeCallPoint tag n i due s) := by
  unfold takeCallPoint
  dsimp only
  split
  · exact (calm_modHead _ s).trans (calm_issueCall _ _ _ _)
  · exact calm_modHead _ s

theorem calm_callSeatAt (tag : BitVec 16) (s : State) (x : Seat × Nat) : Calm s (callSeatAt tag s x) := by
  unfold callSeatAt
  split
  · split
    · exact calm_takeCallPoint _ _ _ _ s
    · exact .refl s
  · exact .refl s

theorem calm_callSeatReached (tag : BitVec 16) (s : State) (x : Seat × Nat) : Calm s (callSeatReached tag s x) := by
  unfold callSeatReached
  split
  · split
    · split
      · exact calm_takeCallPoint _ _ _ _ s
      · exact .refl s
    · exact .refl s
  · exact .refl s

theorem calm_overFirstSeats {f : BitVec 16 → State → Seat × Nat → State} (h : ∀ tag s x, Calm s (f tag s x))
    (s : State) : Calm s (overFirstSeats f s) := by
  unfold overFirstSeats
  split
  · split
    · exact Calm.foldl (h _) _ s
    · exact .refl s
    · exact .refl s
  · exact .refl s

theorem calm_freezeReached : ∀ (n : Nat) (s : State), Calm s (freezeReached n s)
  | 0, s => .refl s
  | n + 1, s => by
    unfold freezeReached
    split
    · split
      · exact (calm_freezeBand s).trans (calm_freezeReached n _)
      · exact .refl s
    · exact .refl s

theorem calm_takeReached (n : Nat) (s : State) : Calm s (takeReached n s) :=
  (calm_freezeReached n s).trans (calm_overFirstSeats calm_callSeatReached _)

theorem calm_offerLine (s : State) : Calm s (offerLine s) := by
  unfold offerLine
  dsimp only
  split
  · exact (calm_freezeBand s).trans (calm_overFirstSeats calm_callSeatAt _)
  · exact calm_overFirstSeats calm_callSeatAt s

/-! ## Orders -/

theorem calm_beginImpression (s : State) : Calm s (beginImpression s) := by
  unfold beginImpression
  split
  · exact .refl s
  · split
    · exact .refl s
    · refine Calm.trans ?_ (calm_takeReached _ _)
      exact (calm_modHead _ s).next rfl rfl rfl rfl rfl

theorem calm_giveBackLock (s : State) (x : Seat × SeatEntry) : Calm s (giveBackLock s x) := by
  unfold giveBackLock
  split
  · exact calm_unlockEntry _ s
  · exact .refl s

theorem calm_removeOrder (o : Order) (s : State) : Calm s (removeOrder o s) := by
  have h1 := (Calm.foldl calm_giveBackLock ((seatsOf s o).zip o.decisions) s).trans
    (Calm.foldl (f := lowerUse) (fun s _ => calm_setRecord _ _ s) (seatsOf s o) _)
  have h2 := h1.trans (u := leaveQueue o.tag (dropCallsOf o.tag _)) (.other rfl rfl rfl rfl rfl)
  unfold removeOrder
  dsimp only
  split
  · exact (h2.trans (calm_freeAfterUse _ _)).trans (calm_lowWaterTest _)
  · exact h2.trans (calm_lowWaterTest _)

theorem calm_settleFate (s : State) : Calm s (settleFate s) := by
  unfold settleFate
  split
  · exact .refl s
  · split
    · exact (calm_removeOrder _ s).trans (calm_latchKind _ _)
    · split
      · split
        · exact .other rfl rfl rfl rfl rfl
        · exact .refl s
      · exact .refl s

theorem calm_endImpression (s : State) : Calm s (endImpression s) := by
  unfold endImpression
  split
  · rename_i c o _ _
    dsimp only
    have h1 : ∀ r, Calm s (writePage r (modHead (fun o => { o with done := o.done + 1 }) s)) :=
      fun r => (calm_modHead _ s).next rfl rfl rfl rfl rfl
    refine Calm.trans (Calm.trans ?_ (calm_settleFate _)) (calm_beginImpression _)
    split
    · exact ((h1 (pageRecord s c o)).trans (calm_latchKind .pageDeficient _)).next rfl rfl rfl rfl rfl
    · exact (h1 (pageRecord s c o)).next rfl rfl rfl rfl rfl
  · exact .refl s

theorem calm_takeOrder (q : List Order) (p : Plan) (s : State) : Calm s (takeOrder q p s) := by
  have h1 : Calm s (p.seats.foldl raiseUse { s with scheduler.queue := q }) :=
    (Calm.foldl (f := raiseUse) (fun s _ => calm_setRecord _ _ s) _ _).before rfl rfl rfl rfl rfl
  unfold takeOrder
  dsimp only
  split
  · exact h1.trans (calm_beginImpression _)
  · exact h1

theorem calm_withdraw (o : Order) (s : State) : Calm s (withdraw o s) := by
  unfold withdraw
  split
  · exact calm_removeOrder o s
  · exact calm_removeOrder o s
  · exact .other rfl rfl rfl rfl rfl
  · exact .refl s

theorem calm_markWithheldPending (i : RosterIndex) (s : State) : Calm s (markWithheldPending i s) := by
  unfold markWithheldPending
  split
  · exact .refl s
  · split
    · exact calm_modImpression _ s
    · exact .refl s
    · exact .refl s
    · exact .refl s
    · exact .refl s

theorem calm_withholdIndex (i : RosterIndex) (s : State) : Calm s (withholdIndex i s) :=
  ((calm_setRecord _ _ s).trans (calm_withholdEntry _ _)).trans (calm_markWithheldPending _ _)

/-! ## Renders and the Press Port -/

theorem calm_startRender (s : State) : Calm s (startRender s) := by
  unfold startRender
  split
  · exact .other rfl rfl rfl rfl rfl
  · exact .refl s

theorem calm_endHold (k : Nat) (s : State) : Calm s (endHold k s) := by
  unfold endHold
  split
  · split
    · exact (calm_modImpression _ _).before rfl rfl rfl rfl rfl
    · exact .refl s
  · exact .refl s
  · exact .refl s

theorem calm_completeRender (g : Render) (s : State) : Calm s (completeRender g s) :=
  (calm_endHold _ _).before rfl rfl rfl rfl rfl

theorem calm_abandonRender (k : Nat) (s : State) : Calm s (abandonRender k s) := by
  unfold abandonRender
  cases s.renderer.current with
  | none => exact .other rfl rfl rfl rfl rfl
  | some g =>
    by_cases h : g.band = k
    · simp only [h, if_true]; exact .other rfl rfl rfl rfl rfl
    · simp only [h, if_false]; exact .other rfl rfl rfl rfl rfl

theorem calm_fillBand (k : Nat) (s : State) : Calm s (fillBand k s) :=
  ((calm_abandonRender k s).trans (calm_modImpression _ _)).trans (calm_latchKind _ _)

theorem calm_expireHold (s : State) : Calm s (expireHold s) := by
  unfold expireHold
  split
  · refine Calm.trans ?_ (calm_fillBand _ _)
    exact (calm_startRender s).next rfl rfl rfl rfl rfl
  · exact .refl s

theorem calm_endBand (k : Nat) (s : State) : Calm s (endBand k s) := by
  unfold endBand
  dsimp only
  split
  · exact .other rfl rfl rfl rfl rfl
  · exact .other rfl rfl rfl rfl rfl

/-- A line sync that is answered is a path that answers one. -/
def Answers (s t : State) : Prop := ∀ L : List Nat, Path 1 s L t L

theorem Answers.after {s t u : State} (p : Calm s t) (q : Answers t u) : Answers s u := fun L => by
  have := (p L).trans (q L)
  rwa [Nat.zero_add] at this

theorem Answers.then {s t u : State} (p : Answers s t) (q : Calm t u) : Answers s u := fun L => (p L).trans (q L)

theorem answers_emitLine (x : List Pixel) (s : State) : Answers s (emitLine x s) := fun _ => Path.single (Move.line x)

theorem answers_emitPageLine (c : Impression) (p : Plan) (m : BandMode) (y : Nat) (s : State) :
    Answers s (emitPageLine c p m y s) := by
  have h1 : ∀ x, Answers s (emitLine x { s with press.mode := some m }) :=
    fun x => Answers.after (t := { s with press.mode := some m }) (.other rfl rfl rfl rfl rfl) (answers_emitLine x _)
  unfold emitPageLine
  dsimp only
  split
  · refine Answers.then ?_ (calm_endImpression _)
    split
    · exact (h1 _).then (calm_endBand _ _)
    · exact h1 _
  · refine Answers.then ?_ (calm_offerLine _)
    split
    · exact (h1 _).then (calm_endBand _ _)
    · exact h1 _

theorem answers_emitBlank (s : State) : Answers s (emitBlank s) := (answers_emitLine _ s).then (calm_offerLine _)

/-- What a line sync does: it is answered, by one line, or it is held. -/
theorem takeLineSync_path (s : State) : Answers s (takeLineSync s) ∨ Calm s (takeLineSync s) := by
  have h0 := calm_startRender s
  unfold takeLineSync
  dsimp only
  split
  · exact .inr h0
  · left
    refine Answers.after h0 ?_
    unfold reissuedSync
    dsimp only
    have h1 : Calm (startRender s) { startRender s with press.hold := .clear } := .other rfl rfl rfl rfl rfl
    split
    · exact Answers.after h1 (answers_emitBlank _)
    · exact Answers.after h1 (answers_emitPageLine _ _ _ _ _)
  · unfold clearSync
    split
    · exact .inl (Answers.after h0 (answers_emitBlank _))
    · dsimp only
      split
      · unfold firstLine
        split
        · exact .inl (Answers.after h0 (answers_emitPageLine _ _ _ _ _))
        · split
          · exact .inl (Answers.after (h0.trans (calm_fillBand _ _)) (answers_emitPageLine _ _ _ _ _))
          · exact .inr (h0.trans (.other rfl rfl rfl rfl rfl))
      · split
        · exact .inl (Answers.after h0 (answers_emitPageLine _ _ _ _ _))
        · exact .inl (Answers.after h0 (answers_emitPageLine _ _ _ _ _))

theorem calm_tick (s : State) : Calm s (tick s) := .other rfl rfl rfl rfl rfl

theorem calm_discardStaging (l : Link) (s : State) : Calm s (discardStaging l s) := calm_setSlot _ _ s

theorem calm_expireTable (l : Link) (s : State) : Calm s (expireTable l s) := by
  unfold expireTable
  split
  · exact calm_discardStaging l s
  · exact .refl s

theorem calm_expireTrains (s : State) : Calm s (expireTrains s) :=
  (((calm_expireTrain .a s).trans (calm_expireTrain .b _)).trans (calm_expireTable .a _)).trans (calm_expireTable .b _)

/-! ## Exchange -/

theorem calm_enterFault (l : Link) (s : State) : Calm s (enterFault l s) :=
  ((calm_modPort _ _ s).trans (calm_latchKind _ _)).trans (calm_rerouteWaiting _)

theorem calm_enterUp (l : Link) (s : State) : Calm s (enterUp l s) :=
  ((calm_modPort _ _ s).trans (calm_latchKind _ _)).trans (calm_rerouteWaiting _)

theorem calm_takeAbility (l : Link) (x : Exchange) (page : List Byte) (s : State) : Calm s (takeAbility l x page s) := by
  unfold takeAbility
  split
  · exact calm_enterFault _ s
  · exact calm_modPort _ _ s

theorem calm_adoptMessage (l : Link) (page : List Byte) (s : State) : Calm s (adoptMessage l page s) := by
  unfold adoptMessage
  split
  · split
    · exact (calm_expireTrains _).before rfl rfl rfl rfl rfl
    · exact calm_modPort _ _ s
    · exact .refl s
  · exact .refl s

theorem calm_takeNext (l : Link) (x : Exchange) (page : List Byte) (s : State) : Calm s (takeNext l x page s) :=
  (calm_modPort _ _ s).trans (calm_adoptMessage _ _ _)

theorem calm_completeRound (l : Link) (x : Exchange) (page : List Byte) (s : State) :
    Calm s (completeRound l x page s) := by
  unfold completeRound
  split
  · exact calm_modPort _ _ s
  · exact calm_enterUp _ s

theorem calm_takeRoundPage (l : Link) (x : Exchange) (page : List Byte) (s : State) :
    Calm s (takeRoundPage l x page s) := by
  unfold takeRoundPage
  dsimp only
  split
  · split
    · split
      · exact calm_takeAbility _ _ _ s
      · exact calm_takeNext _ _ _ s
    · exact calm_modPort _ _ s
  · split
    · split
      · exact calm_completeRound _ _ _ s
      · exact calm_modPort _ _ s
    · exact .refl s

theorem calm_takePage (l : Link) (w : Wire) (s : State) : Calm s (takePage l w s) := by
  unfold takePage
  split
  · exact .refl s
  · dsimp only
    split
    · exact calm_takeRoundPage _ _ _ s
    · exact .refl s

theorem calm_takeSignal (l : Link) (s : State) : Calm s (takeSignal l s) := by
  unfold takeSignal
  dsimp only
  split
  · exact calm_setPort _ _ s
  · exact calm_setPort _ _ s

theorem calm_loseSignal (l : Link) (s : State) : Calm s (loseSignal l s) := by
  have h1 : ∀ f, Calm s (rerouteWaiting (discardStaging l (voidTrain l none (modPort l f s)))) := fun f =>
    (((calm_modPort _ _ s).trans (calm_voidTrain _ _ _)).trans (calm_discardStaging _ _)).trans (calm_rerouteWaiting _)
  unfold loseSignal
  dsimp only
  split
  · exact h1 _
  · exact (h1 _).trans (calm_latchKind _ _)

/-! ## Tables and controls -/

theorem calm_applyEntry (i : RosterIndex) (e : RosterEntry) (s : State) : Calm s (applyEntry i e s) := by
  unfold applyEntry
  dsimp only
  split
  all_goals
    split
    · exact calm_setRecord _ _ s
    · exact (calm_setRecord _ _ s).trans (calm_clearEntry _ _)

theorem calm_applyRoster : ∀ (i : Nat) (es : List RosterEntry) (s : State), Calm s (applyRoster i es s)
  | _, [], s => .refl s
  | i, e :: es, s => (calm_applyEntry _ e s).trans (calm_applyRoster (i + 1) es _)

theorem calm_applyTable (g : Staging) (s : State) : Calm s (applyTable g s) := by
  unfold applyTable
  split
  · exact .other rfl rfl rfl rfl rfl
  · split
    · exact calm_applyRoster _ _ s
    · exact .refl s
  · exact .other rfl rfl rfl rfl rfl
  · exact (calm_startRender s).trans (.other rfl rfl rfl rfl rfl)

theorem calm_makeReply (l : Link) (code : Byte) (tag : BitVec 16) (o : ControlOutcome) (d : List Byte) (b : Bool)
    (s : State) : Calm s (makeReply l code tag o d b s) := by
  unfold makeReply
  split
  · exact calm_modPort _ _ s
  · exact .refl s

theorem calm_conclude (l : Link) (code : Byte) (tag : BitVec 16) (hall : Bool) (o : ControlOutcome) (d : List Byte)
    (b : Bool) (s : State) : Calm s (conclude l code tag hall o d b s) := by
  have h1 : Calm s (recordConclusion l code tag hall o s) := by
    unfold recordConclusion
    split
    · exact .refl s
    · exact .other rfl rfl rfl rfl rfl
  unfold conclude
  dsimp only
  split
  · exact h1
  · exact h1.trans (calm_makeReply _ _ _ _ _ _ _)

theorem calm_supersede (l : Link) (s : State) : Calm s (supersede l s) := by
  unfold supersede
  dsimp only
  split
  · exact calm_setSlot _ _ s
  · exact .refl s

theorem calm_clearForUnitReset (s : State) : Calm s (clearForUnitReset s) :=
  (calm_rerouteWaiting _).before rfl rfl rfl rfl rfl

theorem calm_makeQuiet (l : Link) (s : State) : Calm s (makeQuiet l s) :=
  (calm_modPort _ _ s).trans (calm_rerouteWaiting _)

theorem calm_makeUnquiet (l : Link) (s : State) : Calm s (makeUnquiet l s) :=
  (calm_modPort _ _ s).trans (calm_rerouteWaiting _)

theorem calm_settleSettings (s : State) : Calm s (settleSettings s) :=
  ((calm_expireTrains s).trans (calm_expireHold _)).trans (calm_lowWaterTest _)

/-- A rule leaves, where it takes the control, a state to which a calm path leads. -/
def CalmRule (rule : List Byte → State → Ruling) : Prop :=
  ∀ p s t d b, rule p s = .take t d b → Calm s t

theorem calm_takeControl (c : Control) (l : Link) (w : Wire) {rule : List Byte → State → Ruling}
    {after : State → State} (hr : CalmRule rule) (ha : ∀ s, Calm s (after s)) (s : State) :
    Calm s (takeControl c l w rule after s) := by
  have h1 := calm_supersede l s
  have h2 : ∀ o, Calm s (conclude l (controlCode c) w.tag (toHall w) o [] false (supersede l s)) :=
    fun o => h1.trans (calm_conclude _ _ _ _ _ _ _ _)
  unfold takeControl
  dsimp only
  split
  · exact h2 _
  · split
    · exact h2 _
    · split
      · exact h2 _
      · split
        · exact h2 _
        · rename_i t d b he
          exact ((h1.trans (hr _ _ _ _ _ he)).trans (calm_conclude _ _ _ _ _ _ _ _)).trans (ha _)
        · exact h1.trans (calm_setSlot _ _ _)

theorem calm_takeUnknownControl (l : Link) (code : Byte) (w : Wire) (s : State) :
    Calm s (takeUnknownControl l code w s) := (calm_supersede l s).trans (calm_conclude _ _ _ _ _ _ _ _)

theorem calm_closeTable (l : Link) (g : Staging) (s : State) : Calm s (closeTable l g s) := by
  unfold closeTable
  dsimp only
  split
  · exact ((calm_applyTable g s).trans (calm_discardStaging _ _)).trans (calm_conclude _ _ _ _ _ _ _ _)
  · exact (calm_discardStaging _ s).trans (calm_conclude _ _ _ _ _ _ _ _)

theorem calm_takeTableBody (l : Link) (w : Wire) (s : State) : Calm s (takeTableBody l w s) := by
  unfold takeTableBody
  split
  · exact .refl s
  · split
    · exact calm_countReceive _ _ s
    · dsimp only
      split
      · exact calm_closeTable _ _ s
      · exact calm_setSlot _ _ s

end Sys2Proof.Machine
end

