-- ==== Sys2Proof/Laws/Exec.lean ====
section
/-!
SUPPORT. Every command is a path of primitive moves, but for a power-on reset: the controls' rules, the parcels'
arrival, the releases of parcels held back, and `exec` as a whole.
-/

namespace Sys2Proof.Machine

/-! ## The controls' rules -/

/-- A rule that leaves the state as it was, or opens staging or refuses. -/
theorem CalmRule.same {rule : List Byte → State → Ruling}
    (h : ∀ p s t d b, rule p s = .take t d b → t = s) : CalmRule rule := by
  intro p s t d b he
  rw [h p s t d b he]
  exact .refl s

theorem calmRule_reportStatus : CalmRule (reportStatusRule) := by
  refine .same fun p s t d b he => ?_
  simp only [reportStatusRule, Ruling.take.injEq] at he
  exact he.1.symm

theorem calmRule_unitReset : CalmRule (unitResetRule) := by
  refine .same fun p s t d b he => ?_
  simp only [unitResetRule, Ruling.take.injEq] at he
  exact he.1.symm

theorem calmRule_readQueue : CalmRule (readQueueRule) := by
  refine .same fun p s t d b he => ?_
  simp only [readQueueRule, Ruling.take.injEq] at he
  exact he.1.symm

theorem calmRule_reportLastControl : CalmRule (reportLastControlRule) := by
  refine .same fun p s t d b he => ?_
  unfold reportLastControlRule at he
  split at he
  all_goals
    cases he
    rfl

theorem calmRule_quietOther (l : Link) : CalmRule (quietOtherRule l) := by
  intro p s t d b he
  simp only [quietOtherRule, Ruling.take.injEq] at he
  rw [← he.1]
  exact calm_makeQuiet _ s

theorem calmRule_unquietOther (l : Link) : CalmRule (unquietOtherRule l) := by
  intro p s t d b he
  simp only [unquietOtherRule, Ruling.take.injEq] at he
  rw [← he.1]
  exact calm_makeUnquiet _ s

theorem calmRule_inhibitAttention : CalmRule (inhibitAttentionRule) := by
  intro p s t d b he
  simp only [inhibitAttentionRule, Ruling.take.injEq] at he
  rw [← he.1]
  exact .other rfl rfl rfl rfl rfl

theorem calmRule_restoreAttention : CalmRule (restoreAttentionRule) := by
  intro p s t d b he
  simp only [restoreAttentionRule, Ruling.take.injEq] at he
  rw [← he.1]
  exact .other rfl rfl rfl rfl rfl

theorem calmRule_setTime : CalmRule (setTimeRule) := by
  intro p s t d b he
  simp only [setTimeRule, Ruling.take.injEq] at he
  rw [← he.1]
  exact .other rfl rfl rfl rfl rfl

theorem calmRule_readNotices : CalmRule (readNoticesRule) := by
  intro p s t d b he
  simp only [readNoticesRule, Ruling.take.injEq] at he
  rw [← he.1]
  exact .other rfl rfl rfl rfl rfl

theorem calmRule_purgeStore : CalmRule (purgeStoreRule) := by
  intro p s t d b he
  simp only [purgeStoreRule, Ruling.take.injEq] at he
  rw [← he.1]
  exact calm_purgeStore s

theorem calmRule_setNoticeEnables : CalmRule (setNoticeEnablesRule) := by
  intro p s t d b he
  unfold setNoticeEnablesRule at he
  split at he
  all_goals first
    | (cases he; done)
    | (cases he; exact .other rfl rfl rfl rfl rfl)

theorem calmRule_readCounters : CalmRule (readCountersRule) := by
  intro p s t d b he
  unfold readCountersRule at he
  split at he
  · cases he
    split
    · exact .other rfl rfl rfl rfl rfl
    · exact .refl s
  · exact absurd he (by simp)

theorem calmRule_settings : CalmRule (settingsRule) := by
  intro p s t d b he
  unfold settingsRule at he
  split at he
  · cases he
    exact (calm_settleSettings _).before rfl rfl rfl rfl rfl
  · exact absurd he (by simp)

theorem calmRule_queueOrder : CalmRule (queueOrderRule) := by
  intro p s t d b he
  unfold queueOrderRule at he
  split at he
  · exact absurd he (by simp)
  · cases he
    exact calm_takeOrder _ _ s

theorem calmRule_rushOrder : CalmRule (rushOrderRule) := by
  intro p s t d b he
  unfold rushOrderRule at he
  split at he
  · exact absurd he (by simp)
  · cases he
    exact calm_takeOrder _ _ s

theorem calmRule_withdrawOrder : CalmRule (withdrawOrderRule) := by
  intro p s t d b he
  unfold withdrawOrderRule at he
  dsimp only at he
  split at he
  · exact absurd he (by simp)
  · split at he
    · cases he
      exact calm_withdraw _ s
    · exact absurd he (by simp)

theorem calmRule_withhold : CalmRule (withholdRule) := by
  intro p s t d b he
  unfold withholdRule at he
  split at he
  · cases he
    exact calm_withholdIndex _ s
  · exact absurd he (by simp)

theorem calmRule_release : CalmRule (releaseRule) := by
  intro p s t d b he
  unfold releaseRule at he
  split at he
  · cases he
    exact calm_setRecord _ _ s
  · exact absurd he (by simp)

theorem calmRule_dropTile : CalmRule (dropTileRule) := by
  intro p s t d b he
  unfold dropTileRule at he
  split at he
  · split at he
    · exact absurd he (by simp)
    · cases he
      exact calm_clearEntry _ s
  · exact absurd he (by simp)

theorem calmRule_clearPlan : CalmRule (clearPlanRule) := by
  intro p s t d b he
  unfold clearPlanRule at he
  split at he
  · split at he
    · exact absurd he (by simp)
    · cases he
      exact .other rfl rfl rfl rfl rfl
  · exact absurd he (by simp)

theorem calmRule_readDirectory : CalmRule (readDirectoryRule) := by
  refine .same fun p s t d b he => ?_
  unfold readDirectoryRule at he
  split at he
  · split at he
    all_goals
      cases he
      rfl
  · exact absurd he (by simp)

theorem calmRule_readDeliveryLog : CalmRule (readDeliveryLogRule) := by
  refine .same fun p s t d b he => ?_
  unfold readDeliveryLogRule at he
  dsimp only at he
  split at he
  · exact absurd he (by simp)
  · split at he
    all_goals
      cases he
      rfl

theorem calmRule_readPageLog : CalmRule (readPageLogRule) := by
  refine .same fun p s t d b he => ?_
  unfold readPageLogRule at he
  dsimp only at he
  split at he
  · exact absurd he (by simp)
  · split at he
    all_goals
      cases he
      rfl

theorem calmRule_loadPlan : CalmRule (loadPlanRule) := by
  refine .same fun p s t d b he => ?_
  unfold loadPlanRule at he
  split at he
  · split at he
    all_goals exact absurd he (by simp)
  · exact absurd he (by simp)

theorem calmRule_loadTone : CalmRule (loadToneRule) := by
  refine .same fun p s t d b he => ?_
  unfold loadToneRule at he
  split at he
  · split at he
    all_goals exact absurd he (by simp)
  · exact absurd he (by simp)

theorem calmRule_loadRoster : CalmRule (loadRosterRule) := by
  refine .same fun p s t d b he => ?_
  unfold loadRosterRule at he
  dsimp only at he
  split at he
  all_goals exact absurd he (by simp)

theorem calmRule_loadGlyphs : CalmRule (loadGlyphsRule) := by
  refine .same fun p s t d b he => ?_
  exact absurd he (by simp [loadGlyphsRule])

/-! ## Arrival -/

theorem calm_holdBack (l : Link) (i : Instr) (s : State) : Calm s (holdBack l i s) := calm_modPort _ _ s

theorem calm_admit (l : Link) (kind code : Byte) (w : Wire) {body : State → State} (h : ∀ s, Calm s (body s))
    (s : State) : Calm s (dispose l kind code w body s) := by
  unfold dispose
  split
  · exact .refl s
  · exact .refl s
  · exact calm_countReceive _ _ s
  · exact calm_takePage _ _ s
  · exact calm_enterFault _ s
  · split
    · exact calm_holdBack _ _ s
    · exact h s

theorem calm_arrive (l : Link) (kind code : Byte) (w : Wire) {body : State → State} (h : ∀ s, Calm s (body s))
    (s : State) : Calm s (arrive l kind code w body s) := by
  unfold arrive
  split
  · exact calm_holdBack _ _ s
  · exact calm_admit _ _ _ _ h s

theorem calm_nothingAfter (s : State) : Calm s (nothingAfter s) := .refl s

theorem calm_tileHeadStep (l : Link) (code : Byte) (w : Wire) (s : State) : Calm s (tileHeadStep l code w s) :=
  calm_arrive _ _ _ _ (calm_takeTileHead l w) s

theorem calm_tileBodyStep (l : Link) (code : Byte) (w : Wire) (s : State) : Calm s (tileBodyStep l code w s) :=
  calm_arrive _ _ _ _ (calm_takeTileBody l w) s

theorem calm_tableBodyStep (l : Link) (code : Byte) (w : Wire) (s : State) : Calm s (tableBodyStep l code w s) :=
  calm_arrive _ _ _ _ (calm_takeTableBody l w) s

theorem calm_exchangePageStep (l : Link) (code : Byte) (w : Wire) (s : State) :
    Calm s (exchangePageStep l code w s) := calm_arrive _ _ _ _ (fun s => .refl s) s

theorem calm_reportStatusStep (l : Link) (w : Wire) (s : State) : Calm s (reportStatusStep l w s) :=
  calm_arrive _ _ _ _ (calm_takeControl _ _ _ calmRule_reportStatus calm_nothingAfter) s

theorem calm_reportLastControlStep (l : Link) (w : Wire) (s : State) : Calm s (reportLastControlStep l w s) :=
  calm_arrive _ _ _ _ (calm_takeControl _ _ _ calmRule_reportLastControl calm_nothingAfter) s

theorem calm_unitResetStep (l : Link) (w : Wire) (s : State) : Calm s (unitResetStep l w s) :=
  calm_arrive _ _ _ _ (calm_takeControl _ _ _ calmRule_unitReset calm_clearForUnitReset) s

theorem calm_quietOtherStep (l : Link) (w : Wire) (s : State) : Calm s (quietOtherStep l w s) :=
  calm_arrive _ _ _ _ (calm_takeControl _ _ _ (calmRule_quietOther l) calm_nothingAfter) s

theorem calm_unquietOtherStep (l : Link) (w : Wire) (s : State) : Calm s (unquietOtherStep l w s) :=
  calm_arrive _ _ _ _ (calm_takeControl _ _ _ (calmRule_unquietOther l) calm_nothingAfter) s

theorem calm_inhibitAttentionStep (l : Link) (w : Wire) (s : State) : Calm s (inhibitAttentionStep l w s) :=
  calm_arrive _ _ _ _ (calm_takeControl _ _ _ calmRule_inhibitAttention calm_nothingAfter) s

theorem calm_restoreAttentionStep (l : Link) (w : Wire) (s : State) : Calm s (restoreAttentionStep l w s) :=
  calm_arrive _ _ _ _ (calm_takeControl _ _ _ calmRule_restoreAttention calm_nothingAfter) s

theorem calm_setTimeStep (l : Link) (w : Wire) (s : State) : Calm s (setTimeStep l w s) :=
  calm_arrive _ _ _ _ (calm_takeControl _ _ _ calmRule_setTime calm_nothingAfter) s

theorem calm_setNoticeEnablesStep (l : Link) (w : Wire) (s : State) : Calm s (setNoticeEnablesStep l w s) :=
  calm_arrive _ _ _ _ (calm_takeControl _ _ _ calmRule_setNoticeEnables calm_nothingAfter) s

theorem calm_readNoticesStep (l : Link) (w : Wire) (s : State) : Calm s (readNoticesStep l w s) :=
  calm_arrive _ _ _ _ (calm_takeControl _ _ _ calmRule_readNotices calm_nothingAfter) s

theorem calm_readCountersStep (l : Link) (w : Wire) (s : State) : Calm s (readCountersStep l w s) :=
  calm_arrive _ _ _ _ (calm_takeControl _ _ _ calmRule_readCounters calm_nothingAfter) s

theorem calm_settingsStep (l : Link) (w : Wire) (s : State) : Calm s (settingsStep l w s) :=
  calm_arrive _ _ _ _ (calm_takeControl _ _ _ calmRule_settings calm_nothingAfter) s

theorem calm_queueOrderStep (l : Link) (w : Wire) (s : State) : Calm s (queueOrderStep l w s) :=
  calm_arrive _ _ _ _ (calm_takeControl _ _ _ calmRule_queueOrder calm_nothingAfter) s

theorem calm_rushOrderStep (l : Link) (w : Wire) (s : State) : Calm s (rushOrderStep l w s) :=
  calm_arrive _ _ _ _ (calm_takeControl _ _ _ calmRule_rushOrder calm_nothingAfter) s

theorem calm_withdrawOrderStep (l : Link) (w : Wire) (s : State) : Calm s (withdrawOrderStep l w s) :=
  calm_arrive _ _ _ _ (calm_takeControl _ _ _ calmRule_withdrawOrder calm_nothingAfter) s

theorem calm_readQueueStep (l : Link) (w : Wire) (s : State) : Calm s (readQueueStep l w s) :=
  calm_arrive _ _ _ _ (calm_takeControl _ _ _ calmRule_readQueue calm_nothingAfter) s

theorem calm_withholdStep (l : Link) (w : Wire) (s : State) : Calm s (withholdStep l w s) :=
  calm_arrive _ _ _ _ (calm_takeControl _ _ _ calmRule_withhold calm_nothingAfter) s

theorem calm_releaseStep (l : Link) (w : Wire) (s : State) : Calm s (releaseStep l w s) :=
  calm_arrive _ _ _ _ (calm_takeControl _ _ _ calmRule_release calm_nothingAfter) s

theorem calm_dropTileStep (l : Link) (w : Wire) (s : State) : Calm s (dropTileStep l w s) :=
  calm_arrive _ _ _ _ (calm_takeControl _ _ _ calmRule_dropTile calm_nothingAfter) s

theorem calm_purgeStoreStep (l : Link) (w : Wire) (s : State) : Calm s (purgeStoreStep l w s) :=
  calm_arrive _ _ _ _ (calm_takeControl _ _ _ calmRule_purgeStore calm_nothingAfter) s

theorem calm_clearPlanStep (l : Link) (w : Wire) (s : State) : Calm s (clearPlanStep l w s) :=
  calm_arrive _ _ _ _ (calm_takeControl _ _ _ calmRule_clearPlan calm_nothingAfter) s

theorem calm_readDirectoryStep (l : Link) (w : Wire) (s : State) : Calm s (readDirectoryStep l w s) :=
  calm_arrive _ _ _ _ (calm_takeControl _ _ _ calmRule_readDirectory calm_nothingAfter) s

theorem calm_readDeliveryLogStep (l : Link) (w : Wire) (s : State) : Calm s (readDeliveryLogStep l w s) :=
  calm_arrive _ _ _ _ (calm_takeControl _ _ _ calmRule_readDeliveryLog calm_nothingAfter) s

theorem calm_readPageLogStep (l : Link) (w : Wire) (s : State) : Calm s (readPageLogStep l w s) :=
  calm_arrive _ _ _ _ (calm_takeControl _ _ _ calmRule_readPageLog calm_nothingAfter) s

theorem calm_loadPlanStep (l : Link) (w : Wire) (s : State) : Calm s (loadPlanStep l w s) :=
  calm_arrive _ _ _ _ (calm_takeControl _ _ _ calmRule_loadPlan calm_nothingAfter) s

theorem calm_loadRosterStep (l : Link) (w : Wire) (s : State) : Calm s (loadRosterStep l w s) :=
  calm_arrive _ _ _ _ (calm_takeControl _ _ _ calmRule_loadRoster calm_nothingAfter) s

theorem calm_loadToneStep (l : Link) (w : Wire) (s : State) : Calm s (loadToneStep l w s) :=
  calm_arrive _ _ _ _ (calm_takeControl _ _ _ calmRule_loadTone calm_nothingAfter) s

theorem calm_loadGlyphsStep (l : Link) (w : Wire) (s : State) : Calm s (loadGlyphsStep l w s) :=
  calm_arrive _ _ _ _ (calm_takeControl _ _ _ calmRule_loadGlyphs calm_nothingAfter) s

theorem calm_controlStep (c : Control) (l : Link) (w : Wire) (s : State) : Calm s (controlStep c l w s) := by
  cases c
  · exact calm_reportStatusStep l w s
  · exact calm_reportLastControlStep l w s
  · exact calm_unitResetStep l w s
  · exact calm_quietOtherStep l w s
  · exact calm_unquietOtherStep l w s
  · exact calm_inhibitAttentionStep l w s
  · exact calm_restoreAttentionStep l w s
  · exact calm_setTimeStep l w s
  · exact calm_setNoticeEnablesStep l w s
  · exact calm_readNoticesStep l w s
  · exact calm_readCountersStep l w s
  · exact calm_settingsStep l w s
  · exact calm_queueOrderStep l w s
  · exact calm_rushOrderStep l w s
  · exact calm_withdrawOrderStep l w s
  · exact calm_readQueueStep l w s
  · exact calm_withholdStep l w s
  · exact calm_releaseStep l w s
  · exact calm_dropTileStep l w s
  · exact calm_purgeStoreStep l w s
  · exact calm_clearPlanStep l w s
  · exact calm_readDirectoryStep l w s
  · exact calm_readDeliveryLogStep l w s
  · exact calm_readPageLogStep l w s
  · exact calm_loadPlanStep l w s
  · exact calm_loadRosterStep l w s
  · exact calm_loadToneStep l w s
  · exact calm_loadGlyphsStep l w s

theorem calm_controlParcelStep (l : Link) (code : Byte) (w : Wire) (s : State) :
    Calm s (controlParcelStep l code w s) := by
  unfold controlParcelStep
  split
  · exact calm_controlStep _ l w s
  · exact calm_arrive _ _ _ _ (calm_takeUnknownControl l code w) s

theorem calm_parcelStep (l : Link) (kind code : Byte) (w : Wire) (s : State) : Calm s (parcelStep l kind code w s) := by
  unfold parcelStep
  split
  · exact calm_tileHeadStep l code w s
  · exact calm_tileBodyStep l code w s
  · exact calm_controlParcelStep l code w s
  · exact calm_tableBodyStep l code w s
  · exact calm_exchangePageStep l code w s
  · exact calm_arrive _ _ _ _ (fun s => .refl s) s

theorem calm_receiveParcel (s : State) (i : Instr) : Calm s (receiveParcel s i) := by
  unfold receiveParcel
  split
  · exact calm_parcelStep _ _ _ _ s
  · exact .refl s

theorem calm_releaseHeld (l : Link) (s : State) : Calm s (releaseHeld l s) :=
  (calm_modPort _ _ s).trans (Calm.foldl calm_receiveParcel _ _)

theorem calm_releaseSome : ∀ (n : Nat) (s : State), Calm s (releaseSome n s)
  | 0, s => .refl s
  | n + 1, s => by
    unfold releaseSome
    split
    · exact (calm_releaseHeld .a s).trans (calm_releaseSome n _)
    · split
      · exact (calm_releaseHeld .b s).trans (calm_releaseSome n _)
      · exact .refl s

theorem calm_releaseAll (s : State) : Calm s (releaseAll s) := calm_releaseSome _ s

theorem calm_refillCalls (l : Link) (s : State) : Calm s (refillCalls l s) := by
  unfold refillCalls
  split
  · split
    · exact (calm_modPort _ _ s).trans (calm_modPort _ _ _)
    · exact .refl s
  · exact .refl s
  · exact .refl s

theorem calm_startWaiting (l : Link) (s : State) : Calm s (startWaiting l s) := by
  unfold startWaiting
  dsimp only
  split
  · exact calm_setPort _ _ s
  · exact (calm_setPort _ _ s).trans (calm_refillCalls _ _)
  · exact calm_setPort _ _ s
  · exact calm_setPort _ _ s

theorem calm_freeReturn (l : Link) (s : State) : Calm s (freeReturn l s) := by
  unfold freeReturn
  dsimp only
  split
  · exact calm_setPort _ _ s
  · split
    · exact calm_startWaiting l s
    all_goals exact calm_setPort _ _ s

/-! ## Every command -/

/-- The meaning of every command answers a next state. -/
theorem exec_next (c : Instr) (s : State) : ∃ t, exec c s = .next t := by
  cases c <;> exact ⟨_, rfl⟩

/-- What a command can do: a power-on reset; a line sync answered; or a path that answers none. -/
theorem exec_path {c : Instr} {s t : State} (h : exec c s = .next t) :
    (∃ a, c = .powerOnReset a ∧ t = powerOn a s) ∨ (c = .lineSync ∧ Answers s t) ∨ Calm s t := by
  cases c
  case powerOnReset a => cases h; exact .inl ⟨a, rfl, rfl⟩
  case lineSync =>
    cases h
    rcases takeLineSync_path s with h | h
    · exact .inr (.inl ⟨rfl, h⟩)
    · exact .inr (.inr h)
  all_goals
    right; right; cases h
  case timeTick => exact calm_tick s
  case signalPresent l => exact calm_takeSignal l s
  case sensingTimeout l =>
    show Calm s (if sensingDue l s then enterExchange l s else s)
    split
    · exact calm_modPort _ _ s
    · exact .refl s
  case signalLost l => exact calm_loseSignal l s
  case exchangePage l code w => exact calm_exchangePageStep l code w s
  case exchangeTimeout l =>
    show Calm s (if exchangeDue l s then restartExchange l s else s)
    split
    · exact calm_modPort _ _ s
    · exact .refl s
  case unknownKindParcel l kind code w => exact (calm_parcelStep l kind code w s).trans (calm_releaseAll _)
  case tileHead l code w => exact calm_tileHeadStep l code w s
  case tileBody l code w => exact calm_tileBodyStep l code w s
  case tableBody l code w => exact calm_tableBodyStep l code w s
  case trainGapExpiry l => exact calm_expireTrain l s
  case tableTrainExpiry l => exact calm_expireTable l s
  case renderStart => exact calm_startRender s
  case renderComplete n =>
    refine (calm_startRender s).trans ?_
    unfold takeCompletion
    split
    · split
      · exact calm_completeRender _ _
      · exact .refl _
    · exact .refl _
  case holdExpiry => exact calm_expireHold s
  case returnDirectionFree l => exact (calm_freeReturn l s).trans (calm_releaseAll _)
  case unknownControl l code w => exact (calm_controlParcelStep l code w s).trans (calm_releaseAll _)
  case quietOther l w => exact (calm_quietOtherStep l w s).trans (calm_releaseAll _)
  case reportStatus l w => exact calm_reportStatusStep l w s
  case reportLastControl l w => exact calm_reportLastControlStep l w s
  case unitReset l w => exact calm_unitResetStep l w s
  case unquietOther l w => exact calm_unquietOtherStep l w s
  case inhibitAttention l w => exact calm_inhibitAttentionStep l w s
  case restoreAttention l w => exact calm_restoreAttentionStep l w s
  case setTime l w => exact calm_setTimeStep l w s
  case setNoticeEnables l w => exact calm_setNoticeEnablesStep l w s
  case readNotices l w => exact calm_readNoticesStep l w s
  case readCounters l w => exact calm_readCountersStep l w s
  case settings l w => exact calm_settingsStep l w s
  case queueOrder l w => exact calm_queueOrderStep l w s
  case rushOrder l w => exact calm_rushOrderStep l w s
  case withdrawOrder l w => exact calm_withdrawOrderStep l w s
  case readQueue l w => exact calm_readQueueStep l w s
  case withhold l w => exact calm_withholdStep l w s
  case release l w => exact calm_releaseStep l w s
  case dropTile l w => exact calm_dropTileStep l w s
  case purgeStore l w => exact calm_purgeStoreStep l w s
  case clearPlan l w => exact calm_clearPlanStep l w s
  case readDirectory l w => exact calm_readDirectoryStep l w s
  case readDeliveryLog l w => exact calm_readDeliveryLogStep l w s
  case readPageLog l w => exact calm_readPageLogStep l w s
  case loadPlan l w => exact calm_loadPlanStep l w s
  case loadRoster l w => exact calm_loadRosterStep l w s
  case loadTone l w => exact calm_loadToneStep l w s
  case loadGlyphs l w => exact calm_loadGlyphsStep l w s

end Sys2Proof.Machine
end

