-- ==== Sys2Proof/Laws/Lookup.lean ====
section
/-!
SUPPORT. What a search of the roster, of the buffers or of a plan's seats finds.
-/

namespace Sys2Proof.Machine

/-- The first index of a vector at which a test holds. -/
theorem findFinIdx?_eq_some {α : Type} {n : Nat} {p : α → Bool} {xs : Vector α n} {i : Fin n} (hi : p xs[i] = true)
    (hj : ∀ j : Fin n, j < i → p xs[j] = false) : xs.findFinIdx? p = some i := by
  obtain ⟨a, rfl⟩ := xs
  have h : Array.findFinIdx? p a = some i :=
    Array.findFinIdx?_eq_some_iff.2 ⟨by simpa using hi, fun j hji => by simpa using hj j hji⟩
  simp [h]

/-- The roster index that a nonzero student id names, where only one LISTED record holds it. -/
theorem indexOfStudent_eq_some {s : State} {i : RosterIndex} {id : BitVec 32} (h0 : id ≠ 0)
    (hl : (recordOf s i).listed = true) (hi : (recordOf s i).studentId = id)
    (hu : ∀ j : RosterIndex, (recordOf s j).listed = true → (recordOf s j).studentId = id → j = i) :
    indexOfStudent s id = some i := by
  unfold indexOfStudent
  rw [if_neg h0]
  refine findFinIdx?_eq_some ?_ fun j hj => ?_
  · have h1 : s.tables.roster[i].listed = true := hl
    have h2 : s.tables.roster[i].studentId = id := hi
    simp only [Bool.and_eq_true, beq_iff_eq]
    exact ⟨h1, h2⟩
  · rw [← Bool.not_eq_true]
    intro hc
    simp only [Bool.and_eq_true, beq_iff_eq] at hc
    exact absurd (hu j hc.1 hc.2) (ne_of_lt hj)

/-- A student id that is 0, or that no LISTED record holds, names no roster index. -/
theorem indexOfStudent_eq_none {s : State} {id : BitVec 32}
    (h : id = 0 ∨ ∀ j : RosterIndex, (recordOf s j).listed = true → (recordOf s j).studentId ≠ id) :
    indexOfStudent s id = none := by
  unfold indexOfStudent
  split
  · rfl
  · rename_i h0
    rw [Vector.findFinIdx?_eq_none_iff]
    intro r hr hc
    obtain ⟨j, hj, rfl⟩ := Vector.mem_iff_getElem.1 hr
    simp only [Bool.and_eq_true, beq_iff_eq] at hc
    rcases h with h | h
    · exact h0 h
    · exact h ⟨j, hj⟩ hc.1 hc.2

/-- The seat of a plan for an index is the first that names it (R7). -/
theorem seatOfIndex_iff (p : Plan) (i : RosterIndex) (n : Nat) : seatOfIndex p i = some n ↔
    ∃ x, p.seats[n]? = some x ∧ x.index = i ∧ ∀ m y, m < n → p.seats[m]? = some y → y.index ≠ i := by
  unfold seatOfIndex
  rw [List.findIdx?_eq_some_iff_getElem]
  constructor
  · rintro ⟨h, h1, h2⟩
    refine ⟨p.seats[n], by simp [h], by simpa using h1, fun m y hm hy => ?_⟩
    have := h2 m hm
    rw [List.getElem?_eq_some_iff] at hy
    obtain ⟨h3, rfl⟩ := hy
    simpa using this
  · rintro ⟨x, h1, h2, h3⟩
    rw [List.getElem?_eq_some_iff] at h1
    obtain ⟨h, rfl⟩ := h1
    refine ⟨h, by simpa using h2, fun j hj => ?_⟩
    simpa using h3 j _ hj (List.getElem?_eq_getElem _)

/-- The seat that a close is late for (R37). -/
theorem lateSeat_iff (s : State) (i : RosterIndex) (n : Nat) : lateSeat s i = some n ↔ LateFor s i n := by
  unfold lateSeat printingOrder LateFor
  cases hq : s.scheduler.queue with
  | nil => simp
  | cons o rest =>
    dsimp only
    by_cases ho : o.state = .active ∨ o.state = .ending
    · rw [if_pos ho]
      dsimp only
      unfold decisionFor
      cases hp : planOf s o.plan with
      | none => simp; intro a b h; simp_all
      | some p =>
        dsimp only
        cases hs : seatOfIndex p i with
        | none =>
          simp only [reduceCtorEq, false_iff]
          rintro ⟨o', rest', p', x, e, h1, h2, h3, h4, h5, h6, h7⟩
          cases h1
          rw [hp] at h3; cases h3
          have := (seatOfIndex_iff p i n).2 ⟨x, h4, h5, h6⟩
          rw [hs] at this; cases this
        | some m =>
          dsimp only
          obtain ⟨x, hx, hxi, hmin⟩ := (seatOfIndex_iff p i m).1 hs
          constructor
          · intro h
            cases hd : o.decisions[m]? with
            | none => rw [hd] at h; simp at h
            | some e =>
              rw [hd] at h
              cases he : e.decision <;> simp [he] at h
              subst h
              exact ⟨o, rest, p, x, e, rfl, ho, hp, hx, hxi, hmin, hd, he⟩
          · rintro ⟨o', rest', p', x', e, h1, h2, h3, h4, h5, h6, h7, h8⟩
            cases h1
            rw [hp] at h3; cases h3
            have := (seatOfIndex_iff p i n).2 ⟨x', h4, h5, h6⟩
            rw [hs] at this; cases this
            rw [h7]; simp [h8]
    · rw [if_neg ho]; dsimp only
      constructor
      · simp
      · rintro ⟨o', rest', p', x', e, h1, h2, _⟩
        cases h1; exact absurd h2 ho

end Sys2Proof.Machine
end

