-- ==== Sys2Proof/Laws/Memory.lean ====
section
/-!
SUPPORT. The laws of tile memory's contents: reading after writing, and the canonical form.
-/

namespace Sys2Proof.Machine

theorem readByte_of_risingFrom : ∀ (m : List Host.Cell) (n a : Nat), risingFrom n m = true → a < n →
    readByte m a = Config.unwrittenByte
  | [], _, _, _, _ => rfl
  | (k, v) :: m, n, a, h, ha => by
    simp only [risingFrom, Bool.and_eq_true, decide_eq_true_eq] at h
    have hk : k ≠ a := by omega
    simp only [readByte, hk, if_false]
    exact readByte_of_risingFrom m (k + 1) a h.2 (by omega)

theorem risingFrom_mono {n n' : Nat} (h : n' ≤ n) : ∀ {m : List Host.Cell}, risingFrom n m = true → risingFrom n' m = true
  | [], _ => rfl
  | (k, v) :: m, hr => by
    simp only [risingFrom, Bool.and_eq_true, decide_eq_true_eq] at hr ⊢
    exact ⟨by omega, hr.2⟩

/-- A byte written reads back, in a memory whose addresses rise (R52). -/
theorem readByte_writeByte_same : ∀ (m : List Host.Cell) (n a : Nat) (b : Byte), risingFrom n m = true →
    readByte (writeByte m a b) a = b
  | [], _, a, b, _ => by
    unfold writeByte
    split
    · rename_i h; simp [readByte, h]
    · simp [readByte]
  | (k, v) :: m, n, a, b, h => by
    simp only [risingFrom, Bool.and_eq_true, decide_eq_true_eq] at h
    unfold writeByte
    split
    · rename_i hlt
      split
      · rename_i hb
        have : k ≠ a := by omega
        simp only [readByte, this, if_false, hb]
        exact readByte_of_risingFrom m (k + 1) a h.2 (by omega)
      · simp [readByte]
    · split
      · rename_i hka
        split
        · rename_i hb
          rw [hb]; exact readByte_of_risingFrom m (k + 1) a h.2 (by omega)
        · simp [readByte]
      · rename_i hka
        have : k ≠ a := fun e => hka e.symm
        simp only [readByte, this, if_false]
        exact readByte_writeByte_same m (k + 1) a b h.2

/-- A write leaves every other address reading as it did, in a memory whose addresses rise. -/
theorem readByte_writeByte_ne : ∀ (m : List Host.Cell) (n a c : Nat) (b : Byte), risingFrom n m = true → c ≠ a →
    readByte (writeByte m a b) c = readByte m c
  | [], _, a, c, b, _, hc => by
    unfold writeByte
    split
    · rfl
    · simp [readByte, hc.symm]
  | (k, v) :: m, n, a, c, b, h, hc => by
    simp only [risingFrom, Bool.and_eq_true, decide_eq_true_eq] at h
    unfold writeByte
    split
    · split
      · rfl
      · simp [readByte, hc.symm]
    · split
      · rename_i hka
        subst hka
        split
        · simp [readByte, hc.symm]
        · simp [readByte, hc.symm]
      · by_cases hkc : k = c
        · simp [readByte, hkc]
        · simp only [readByte, hkc, if_false]
          exact readByte_writeByte_ne m (k + 1) a c b h.2 hc

theorem risingFrom_writeByte : ∀ (m : List Host.Cell) (n a : Nat) (b : Byte), risingFrom n m = true → n ≤ a →
    risingFrom n (writeByte m a b) = true
  | [], n, a, b, _, hn => by
    unfold writeByte
    split
    · rfl
    · simp [risingFrom, hn]
  | (k, v) :: m, n, a, b, h, hn => by
    simp only [risingFrom, Bool.and_eq_true, decide_eq_true_eq] at h
    unfold writeByte
    split
    · split
      · simp only [risingFrom, Bool.and_eq_true, decide_eq_true_eq]; exact h
      · simp only [risingFrom, Bool.and_eq_true, decide_eq_true_eq]
        exact ⟨hn, by omega, h.2⟩
    · split
      · rename_i hka
        subst hka
        split
        · exact risingFrom_mono (by omega) h.2
        · simp only [risingFrom, Bool.and_eq_true, decide_eq_true_eq]; exact ⟨hn, h.2⟩
      · simp only [risingFrom, Bool.and_eq_true, decide_eq_true_eq]
        exact ⟨h.1, risingFrom_writeByte m (k + 1) a b h.2 (by omega)⟩

theorem noUnwritten_writeByte : ∀ (m : List Host.Cell) (a : Nat) (b : Byte),
    (m.all fun c => c.2 != Config.unwrittenByte) = true →
    ((writeByte m a b).all fun c => c.2 != Config.unwrittenByte) = true
  | [], a, b, _ => by
    unfold writeByte
    split
    · rfl
    · rename_i hb; simp [hb]
  | (k, v) :: m, a, b, h => by
    simp only [List.all_cons, Bool.and_eq_true] at h
    unfold writeByte
    split
    · split
      · simp only [List.all_cons, Bool.and_eq_true]; exact h
      · rename_i hb
        simp only [List.all_cons, Bool.and_eq_true]; exact ⟨by simpa using hb, h⟩
    · split
      · split
        · exact h.2
        · rename_i hb
          simp only [List.all_cons, Bool.and_eq_true]; exact ⟨by simpa using hb, h.2⟩
      · simp only [List.all_cons, Bool.and_eq_true]
        exact ⟨h.1, noUnwritten_writeByte m a b h.2⟩

/-- A write keeps the canonical form. -/
theorem wf_writeByte {m : List Host.Cell} (h : Memory.wf m = true) (a : Nat) (b : Byte) :
    Memory.wf (writeByte m a b) = true := by
  simp only [Memory.wf, Bool.and_eq_true] at h ⊢
  exact ⟨risingFrom_writeByte m 0 a b h.1 (Nat.zero_le _), noUnwritten_writeByte m a b h.2⟩

/-- The writing of a run of bytes keeps the canonical form. -/
theorem wf_writeVersion (blocks : List Nat) : ∀ (bs : List Byte) {m : List Host.Cell} (n : Nat), Memory.wf m = true →
    Memory.wf (writeVersion blocks m n bs) = true
  | [], _, _, h => h
  | b :: bs, m, n, h => by
    unfold writeVersion
    split
    · exact wf_writeVersion blocks bs (n + 1) (wf_writeByte h _ b)
    · exact wf_writeVersion blocks bs (n + 1) h

/-- The memory of the reset state is canonical. -/
theorem wf_reset : Memory.wf State.reset.store.bytes = true := rfl

/-- A canonical memory's addresses rise. -/
theorem rising_of_wf {m : List Host.Cell} (h : Memory.wf m = true) : risingFrom 0 m = true := by
  simp only [Memory.wf, Bool.and_eq_true] at h; exact h.1

/-- Bytes written to a version leave every address of no byte written as it was. -/
theorem readByte_writeVersion_ne (blocks : List Nat) : ∀ (bs : List Byte) {m : List Host.Cell} (n c : Nat),
    Memory.wf m = true → (∀ k, k < bs.length → tileAddress blocks (n + k) ≠ some c) →
    readByte (writeVersion blocks m n bs) c = readByte m c
  | [], _, _, _, _, _ => rfl
  | b :: bs, m, n, c, h, hne => by
    have hrest : ∀ k, k < bs.length → tileAddress blocks (n + 1 + k) ≠ some c := by
      intro k hk
      have := hne (k + 1) (by simpa using hk)
      rwa [show n + (k + 1) = n + 1 + k by omega] at this
    unfold writeVersion
    split
    · rename_i a ha
      rw [readByte_writeVersion_ne blocks bs (n + 1) c (wf_writeByte h a b) hrest]
      have hca : c ≠ a := by
        intro e
        have := hne 0 (by simp)
        rw [Nat.add_zero, ha, e] at this
        exact this rfl
      exact readByte_writeByte_ne m 0 a c b (rising_of_wf h) hca
    · exact readByte_writeVersion_ne blocks bs (n + 1) c h hrest

end Sys2Proof.Machine
end

