-- ==== Sys2Proof/Laws/Notices.lean ====
section
/-!
SUPPORT. What latching a notice kind, counting a receive error and moving waiting parcels leave, each said once.
-/

namespace Sys2Proof.Machine

/-! ## Kind sets -/

/-- A kind that joins a set is in it. -/
@[simp] theorem holdsKind_or_self (x : BitVec 9) (k : NoticeKind) : holdsKind (x ||| kindBit k) k = true := by
  cases k <;> revert x <;> decide +kernel

/-- A kind that joins a set leaves the others as they were. -/
theorem holdsKind_or_other (x : BitVec 9) {j k : NoticeKind} (h : j ≠ k) :
    holdsKind (x ||| kindBit k) j = holdsKind x j := by
  unfold holdsKind
  have h0 : kindBit k &&& kindBit j = 0 := by revert h; cases j <;> cases k <;> decide
  rw [show (x ||| kindBit k) &&& kindBit j = (x &&& kindBit j) ||| (kindBit k &&& kindBit j) by
    ext i; simp [Bool.and_or_distrib_right], h0]
  simp

/-! ## Latching -/

/-- Latching changes the latch, and the notice of one link at most. -/
theorem latchKind_only (k : NoticeKind) (s : State) :
    latchKind k s = { s with notices := (latchKind k s).notices, ports := (latchKind k s).ports } := by
  unfold latchKind
  split
  · rfl
  · dsimp only
    split <;> rfl

/-- A kind that has been latched is in the latch. -/
@[simp] theorem latchKind_holds (k : NoticeKind) (s : State) :
    holdsKind (latchKind k s).notices.latched k = true := by
  unfold latchKind
  split
  · assumption
  · dsimp only
    split
    · exact holdsKind_or_self _ _
    · exact holdsKind_or_self _ _

/-- Another kind's presence in the latch is not changed. -/
theorem latchKind_other {j k : NoticeKind} (h : j ≠ k) (s : State) :
    holdsKind (latchKind k s).notices.latched j = holdsKind s.notices.latched j := by
  unfold latchKind
  split
  · rfl
  · dsimp only
    split
    · exact holdsKind_or_other _ h
    · exact holdsKind_or_other _ h

/-- A kind in the latch stays there through any latching. -/
theorem latchKind_keeps {j : NoticeKind} (k : NoticeKind) {s : State} (h : holdsKind s.notices.latched j = true) :
    holdsKind (latchKind k s).notices.latched j = true := by
  by_cases hj : j = k
  · subst hj
    exact latchKind_holds j s
  · rw [latchKind_other hj]
    exact h

/-- Latching changes nothing of a port but its waiting notice. -/
theorem portOf_latchKind (k : NoticeKind) (s : State) (l : Link) :
    portOf (latchKind k s) l = { portOf s l with notice := (portOf (latchKind k s) l).notice } := by
  unfold latchKind
  split
  · rfl
  · dsimp only
    split
    · unfold sendNotice modPort setPort portOf
      generalize routeLink _ _ = m
      cases m <;> cases l <;> rfl
    · rfl

/-- A receive error changes one port, and the latch and a waiting notice where the counter was 0. -/
theorem countReceive_only (l : Link) (k : ReceiveCounter) (s : State) :
    countReceive l k s =
      { s with notices := (countReceive l k s).notices, ports := (countReceive l k s).ports } := by
  unfold countReceive
  dsimp only
  split
  · rw [latchKind_only]
    rfl
  · rfl

/-! ## Moving -/

/-- Moving what waits changes the ports alone. -/
theorem rerouteWaiting_only (s : State) : rerouteWaiting s = { s with ports := (rerouteWaiting s).ports } := by
  unfold rerouteWaiting
  split <;> rfl

/-- Moving what waits changes nothing of a port but its calls and its notice. -/
theorem portOf_rerouteWaiting (s : State) (l : Link) :
    portOf (rerouteWaiting s) l =
      { portOf s l with
        calls := (portOf (rerouteWaiting s) l).calls, notice := (portOf (rerouteWaiting s) l).notice } := by
  unfold rerouteWaiting moveWaiting
  cases l <;> dsimp only <;> split <;> rfl

/-- A link is open exactly when the port's own test says so. -/
theorem isOpen_iff (s : State) (l : Link) : isOpen (portOf s l) = true ↔ OpenLink s l := by
  simp [isOpen, OpenLink]

/-- Moving what waits leaves what `Rerouted` says (R160, R183). -/
theorem rerouteWaiting_rerouted (s : State) : Rerouted s (rerouteWaiting s) := by
  have ha := isOpen_iff s .a
  have hb := isOpen_iff s .b
  refine ⟨rerouteWaiting_only s, fun h => ?_, fun l h1 h2 => ?_⟩
  · have e : isOpen (portOf s .a) = isOpen (portOf s .b) := Bool.eq_iff_iff.2 (ha.trans (h.trans hb.symm))
    unfold rerouteWaiting
    rw [e]
    cases isOpen (portOf s .b) <;> rfl
  · unfold rerouteWaiting
    cases l
    · rw [ha.2 h1, Bool.eq_false_iff.2 fun e => h2 (hb.1 e)]
      exact ⟨rfl, rfl⟩
    · rw [hb.2 h1, Bool.eq_false_iff.2 fun e => h2 (ha.1 e)]
      exact ⟨rfl, rfl⟩

end Sys2Proof.Machine
end

