-- ==== Sys2Proof/Laws/Reclaim.lean ====
section
/-!
SUPPORT. What a reclaim, the low-water test, the voiding of a train and the freeing of a version leave, each said once.
-/

namespace Sys2Proof.Machine

/-! ## Returning blocks -/

/-- Blocks that join the free list are counted there. -/
theorem count_insertBlocks (b : Nat) : ∀ (bs fl : List Nat),
    (bs.foldl (fun fl c => insertBlock c fl) fl).count b = fl.count b + bs.count b := by
  intro bs
  induction bs with
  | nil => intro fl; rfl
  | cons c bs ih =>
    intro fl
    rw [List.foldl_cons, ih, (insertBlock_perm c fl).count_eq, List.count_cons, List.count_cons]
    omega

/-! ## Freeing -/

/-- Freeing a held version changes the directory, the free list with its count, and the Arrival List alone. -/
theorem freeHeld_only (i : RosterIndex) (s : State) :
    freeHeld i s =
      { s with
        intake.directory := (freeHeld i s).intake.directory
        store := { (freeHeld i s).store with bytes := s.store.bytes } } := by
  unfold freeHeld
  split <;> rfl

/-- What freeing a held version does (R54, R56). -/
theorem freeHeld_some {i : RosterIndex} {s : State} {h : Held} (hh : (entryOf s i).held = some h) :
    (freeHeld i s).store.freeCount = s.store.freeCount + h.version.blocks.length
    ∧ (∀ b : Nat, (freeHeld i s).store.freeList.count b = s.store.freeList.count b + h.version.blocks.count b)
    ∧ (freeHeld i s).store.arrival = s.store.arrival.filter fun j => decide (j ≠ i) := by
  unfold freeHeld
  rw [hh]
  exact ⟨rfl, fun b => count_insertBlocks b _ _, rfl⟩

/-- Freeing a held version leaves every incoming version. -/
theorem incoming_of_freeHeld (i j : RosterIndex) (s : State) :
    (entryOf (freeHeld i s) j).incoming = (entryOf s j).incoming := by
  rw [(freeHeld_frame i j s).2]
  split
  · rename_i h; rw [h]
  · rfl

/-! ## Reclaim -/

/-- A reclaim changes the directory, the free list with its count, and the Arrival List alone. -/
theorem reclaimWalk_only (n : Nat) : ∀ (is : List RosterIndex) (s : State),
    reclaimWalk n is s =
      { s with
        intake.directory := (reclaimWalk n is s).intake.directory
        store := { (reclaimWalk n is s).store with bytes := s.store.bytes } } := by
  intro is
  induction is with
  | nil => intro s; rfl
  | cons i is ih =>
    intro s
    unfold reclaimWalk
    split
    · rfl
    · split
      · have h := ih (freeHeld i s)
        rw [freeHeld_only i s] at h
        rw [← freeHeld_only i s] at h
        conv_lhs => rw [h]
        rw [freeHeld_only i s]
      · exact ih s

/-- A reclaim leaves every incoming version. -/
theorem incoming_reclaimWalk (n : Nat) (j : RosterIndex) : ∀ (is : List RosterIndex) (s : State),
    (entryOf (reclaimWalk n is s) j).incoming = (entryOf s j).incoming := by
  intro is
  induction is with
  | nil => intro s; rfl
  | cons i is ih =>
    intro s
    unfold reclaimWalk
    split
    · rfl
    · split
      · rw [ih, incoming_of_freeHeld]
      · exact ih s

/-- The same of a whole reclaim. -/
theorem reclaim_only (n : Nat) (s : State) :
    reclaim n s =
      { s with
        intake.directory := (reclaim n s).intake.directory
        store := { (reclaim n s).store with bytes := s.store.bytes } } := reclaimWalk_only n _ s

/-- The low-water test changes what a reclaim changes, and what latching STORE_LOW changes. -/
theorem lowWaterTest_only (s : State) :
    lowWaterTest s =
      { s with
        intake.directory := (lowWaterTest s).intake.directory
        store := { (lowWaterTest s).store with bytes := s.store.bytes }
        notices := (lowWaterTest s).notices
        ports := (lowWaterTest s).ports } := by
  unfold lowWaterTest latchStoreLow
  split
  · split
    · rw [latchKind_only, reclaim_only]
    · rw [reclaim_only]
  · rfl

/-- The low-water test leaves every incoming version. -/
theorem incoming_lowWaterTest (j : RosterIndex) (s : State) :
    (entryOf (lowWaterTest s) j).incoming = (entryOf s j).incoming := by
  unfold lowWaterTest latchStoreLow
  split
  · split
    · rw [(latchKind_leaves _ _ _).2]; exact incoming_reclaimWalk _ _ _ _
    · exact incoming_reclaimWalk _ _ _ _
  · rfl

/-! ## Voiding -/

/-- An open train that is voided with an outcome leaves what `Voided` says (R38, R50). -/
theorem voidTrain_voided {l : Link} {o : Delivery} {s : State} {x : Train} {v : Incoming}
    (ht : trainOf s l = some x) (hv : (entryOf s x.index).incoming = some v) :
    Voided l x v o s (voidTrain l (some o) s) := by
  have hr : incomingRows s x.index = v.version.rows := by unfold incomingRows; rw [hv]
  unfold voidTrain
  rw [ht]
  dsimp only
  rw [hr]
  unfold completeRecord changeRecord freeIncoming
  rw [hv]
  dsimp only [setTrain, returnBlocks, setEntry]
  split
  · rename_i r hlog
    split
    · rename_i hq
      refine ⟨?_, ?_, ?_, fun b => ?_, ?_, ?_, fun h => absurd hq (h r hlog), ?_, latchKind_holds _ _, fun m => ?_, ?_⟩ <;>
        rw [latchKind_only]
      · exact count_insertBlocks b _ _
      · exact ⟨rfl, rfl⟩
      · intro r' h1 h2
        rw [hlog] at h1
        cases h1
        rfl
      · rw [← latchKind_only, portOf_latchKind]
        rfl
    · rename_i hq
      refine ⟨?_, ?_, ?_, fun b => ?_, ?_, ?_, fun _ => ?_, ?_, latchKind_holds _ _, fun m => ?_, ?_⟩ <;>
        rw [latchKind_only]
      · exact count_insertBlocks b _ _
      · exact ⟨rfl, rfl⟩
      · intro r' h1 h2
        rw [hlog] at h1
        cases h1
        exact absurd h2 hq
      · rw [← latchKind_only, portOf_latchKind]
        rfl
  · rename_i hlog
    refine ⟨?_, ?_, ?_, fun b => ?_, ?_, ?_, fun _ => ?_, ?_, latchKind_holds _ _, fun m => ?_, ?_⟩ <;>
      rw [latchKind_only]
    · exact count_insertBlocks b _ _
    · exact ⟨rfl, rfl⟩
    · intro r' h1 h2
      rw [hlog] at h1
      cases h1
    · rw [← latchKind_only, portOf_latchKind]
      rfl

/-- The train of an index, where the link has one open for it, is voided as `TrainGone` says. -/
theorem voidTrainIf_gone (i : RosterIndex) (o : Delivery) (l : Link) (s : State) :
    TrainGone l (fun x => x.index = i) o s (voidTrainIf i o l s) := by
  refine ⟨fun x v ht hi hv => ?_, fun h => ?_⟩ <;> unfold voidTrainIf
  · simp only [ht, hi, if_true]
    exact voidTrain_voided ht hv
  · split
    · rename_i x ht
      exact if_neg (h x ht)
    · rfl

/-- Whatever train a link has open is voided as `TrainGone` says. -/
theorem voidTrain_gone (o : Delivery) (l : Link) (s : State) :
    TrainGone l (fun _ => True) o s (voidTrain l (some o) s) := by
  refine ⟨fun x v ht _ hv => voidTrain_voided ht hv, fun h => ?_⟩
  unfold voidTrain
  split
  · rfl
  · rename_i x ht
    exact absurd trivial (h x ht)

end Sys2Proof.Machine
end

