-- ==== Sys2Proof/Tests/Slice0.lean ====
section
/-!
SUPPORT. Tests: ill-formed commands, the byte layouts written out from the manual, its worked numbers, and, for every
statement with hypotheses, a concrete state and operands that meet them (`witness_…`), each clause at the ends of its
range.
-/

open Sys2Proof Sys2Proof.Machine

namespace Sys2Proof.Tests

/-! ## Helpers -/

/-- A parcel to unit 4 with this payload, its length field and check not yet filled in. -/
def plain (payload : List Byte) : Wire :=
  { address := 4, last := false, response := false, poisoned := false, nocheck := false, reserved := 0, tag := 0x0102
    lengthField := 0, payload := payload, check := 0 }

/-- The parcel with the length field and the check that its bytes call for. -/
def framed (kind code : Byte) (w : Wire) : Wire :=
  let v : Wire := { w with lengthField := BitVec.ofNat 16 w.payload.length }
  { v with check := properCheck kind code v }

/-- A control parcel to unit 4 with this payload. -/
def control (c : Control) (payload : List Byte) : Wire := framed 3 (controlCode c) (plain payload)

/-- Unit 4 with both links up. -/
def up : State :=
  { State.reset with straps := 4, ports := ⟨{ Port.reset with state := .up }, { Port.reset with state := .up }⟩ }

/-- The state that a command leaves. -/
def after (i : Instr) (s : State) : State :=
  match exec i s with
  | .next t => t
  | .fault _ | .refused _ => s

/-! ## Ill-formed commands -/

theorem test_payload_over_4096_is_ill_formed :
    (Instr.tileBody .a 0 (plain (List.replicate 4097 0))).wellFormed = false := by decide +kernel

theorem test_unknown_kind_with_a_kind_of_its_own_is_ill_formed :
    (Instr.unknownKindParcel .b 4 0 (plain [])).wellFormed = false := by decide

theorem test_unknown_control_with_a_known_code_is_ill_formed :
    (Instr.unknownControl .a 28 (plain [])).wellFormed = false := by decide

/-! ## Layouts and checks written out from the manual -/

/-- The check of R154 over the nine digits of the usual trial string of this polynomial and initial value. -/
theorem test_check_of_digits : checkOf [0x31, 0x32, 0x33, 0x34, 0x35, 0x36, 0x37, 0x38, 0x39] = 0x29B1 := by decide +kernel

/-- WITHDRAW ORDER, code 15, tag field 1234h, sent to unit 4: section 12.1 bit by bit, the check left aside. -/
theorem test_header_layout :
    (encodeParcel (.withdrawOrder .a { plain [0, 7] with tag := 0x1234, lengthField := 2 })).map (List.take 10) =
      some [0x03, 0x40, 0x0F, 0x00, 0x12, 0x34, 0x00, 0x02, 0x00, 0x07] := by decide

/-- The same bytes with a wrong check read as the command. -/
theorem test_withdraw_order_reads_back :
    decodeParcel .a [0x03, 0x40, 0x0F, 0x00, 0x12, 0x34, 0x00, 0x02, 0x00, 0x07, 0xAB, 0xCD] =
      some (.withdrawOrder .a { plain [0, 7] with tag := 0x1234, lengthField := 2, check := 0xABCD }) := by decide

/-- A TILE_BODY with LAST, POISONED and NOCHECK set to the hall address. -/
theorem test_markers_read_back :
    decodeParcel .b [0x02, 0xFB, 0x00, 0x00, 0x00, 0x00, 0x00, 0x00, 0x00, 0x00] =
      some (.tileBody .b 0
        { plain [] with address := 15, last := true, poisoned := true, nocheck := true, tag := 0 }) := by decide

/-- A kind byte that is none of the manual's. -/
theorem test_unknown_kind_reads_as_such :
    decodeParcel .a [0x09, 0x40, 0x01, 0x00, 0x00, 0x00, 0x00, 0x00, 0x00, 0x00] =
      some (.unknownKindParcel .a 9 1 { plain [] with tag := 0 }) := by decide

/-- Code 29 names no control. -/
theorem test_code_29_is_unknown :
    decodeParcel .a [0x03, 0x40, 0x1D, 0x00, 0x00, 0x00, 0x00, 0x00, 0x00, 0x00] =
      some (.unknownControl .a 29 { plain [] with tag := 0 }) := by decide

/-- The coverage bits of a bitmap line, most significant bit leftmost (section 12.4). -/
theorem test_coverage_line :
    coverageLine [0xA0, 0x80] 9 = [true, false, true, false, false, false, false, false, true] := by decide

/-! ## Worked numbers -/

/-- Section 6.7: seat 40 of row 3. -/
theorem test_worked_case_scale_step : rawScaleStep 347 180 = 7896 ∧ scaleStep 7896 1024 12288 = 7896 := by decide

theorem test_worked_case_origin : originX 298 240 7896 = 273088 ∧ originY 310 120 7896 = 322240 := by decide

theorem test_worked_case_weights :
    weightOf 280984 = 9 ∧ (280984 : Int) / 4096 = 68 ∧ weightOf 322240 = 10 ∧ (322240 : Int) / 4096 = 78 := by decide

theorem test_worked_case_pixel : blend 9 10 100 120 140 160 = 136 ∧ blend 9 10 200 200 200 200 = 200 := by decide

/-- Section 6.8: the raw step of a small head is held at sMin. -/
theorem test_clamp_case : rawScaleStep 20 180 = 455 ∧ scaleStep 455 1024 12288 = 1024
    ∧ originX 298 240 1024 = 1097728 ∧ originY 310 120 1024 = 1146880 := by decide

/-- Section 7.4: the longest prefix of the caption that fits, and its width. -/
theorem test_worked_caption :
    let gs : List Glyph := [10, 9, 11, 10, 10, 5, 10, 9, 10].map fun a => { advance := a, bitmap := [] }
    runWidth 2 gs = 100 ∧ fitFrom 2 84 0 0 gs = 7 ∧ runWidth 2 (gs.take 7) = 77 := by decide

/-- Section 3.5: a version of 480 by 600 takes 14 blocks, one of 800 by 1000 takes 37, one of 1024 by 1280 takes 60. -/
theorem test_blocks_needed : blocksNeeded 480 600 = 14 ∧ blocksNeeded 800 1000 = 37 ∧ blocksNeeded 1024 1280 = 60 := by
  decide

/-! ## States for the witnesses -/

theorem framed_check (kind code : Byte) (w : Wire) :
    (framed kind code w).check = properCheck kind code (framed kind code w) := by
  simp only [framed, properCheck, headerBytes]

/-- A parcel so framed passes the receive tests of an up link that holds nothing back. -/
theorem framed_passes {s : State} {l : Link} {kind code : Byte} {w : Wire}
    (hp : (portOf s l).state = .up ∧ (portOf s l).heldBack = [] ∧ (portOf s l).threshold = 4096)
    (ha : w.address = s.straps ∨ w.address = 15) (hl : w.payload.length ≤ 4096) :
    Passes s l kind code (framed kind code w) := by
  refine ⟨hp.1, hp.2.1, by rw [hp.2.2]; exact hl, ?_, Or.inr (framed_check kind code w), ha⟩
  show (BitVec.ofNat 16 w.payload.length).toNat = w.payload.length
  rw [BitVec.toNat_ofNat]; omega

/-- A control so framed reaches its own rule on Link A of unit 4, up and with nothing waiting there. -/
theorem control_asked {s : State} {c : Control} {payload : List Byte}
    (hp : portOf s .a = { Port.reset with state := .up }) (hs : s.straps = 4)
    (hl : payload.length = controlLength c) (h4 : controlLength c ≤ 4096 := by decide) :
    Asked s .a c (control c payload) := by
  refine ⟨⟨framed_passes (by rw [hp]; exact ⟨rfl, rfl, rfl⟩) (Or.inl hs.symm) ?_, by rw [hp]; rfl⟩, ?_, hl⟩
  · show payload.length ≤ 4096
    omega
  · intro h; exact absurd h (by show ¬(4 : BitVec 4) = 15; decide)

def grey : Pixel := { r := 128, g := 128, b := 128 }

/-- One row, from the top line of the page. -/
def row : Row :=
  { top := 0, cellHeight := 64, captionHeight := 16, headTarget := 16, eyeOffset := 32, sMin := 256, sMax := 65535
    margin := grey, absentFill := grey, ink := grey, paper := grey, tracking := 1, sideMargin := 2 }

/-- A page of 256 by 256 with two seats in the row. -/
def plan : Plan :=
  { width := 256, height := 256, background := grey, rows := [row]
    seats := [{ row := 0, left := 0, width := 64, index := 5 }, { row := 0, left := 64, width := 64, index := 6 }] }

/-- A whole portrait of 64 by 64 in one block. -/
def portrait (block : Nat) : Version :=
  { width := 64, height := 64, eyeRow := 30, centreColumn := 32, headHeight := 20, session := 0, blocks := [block]
    rows := 64, origin := .a, openMark := 0, closeMark := some 0, retake := false, late := false, poisonedSeen := false }

/-- The same portrait with this many rows received. -/
def filling (block rows : Nat) : Version := { portrait block with rows := rows, closeMark := none }

/-- A tile train of this index. -/
def train (i : RosterIndex) (last : Option Nat) (gap : Nat) : Train :=
  { index := i, studentId := 70, record := 0, lastRow := last, gapTimer := gap }

/-- A listed roster record. -/
def student (id : BitVec 32) : RosterRecord :=
  { listed := true, studentId := id, caption := [0x41], withheld := false, uses := 1 }

def lines (f : Nat) : SeatLines := { firstBand := f, freezeLine := 744, callLine := none, callTaken := false }

/-- The order that prints: its first seat placed, its second absent. -/
def order (tag : BitVec 16) (st : OrderState) : Order :=
  { tag := tag, plan := 0, copies := 2, done := 0, rush := false, state := st
    decisions := [{ decision := .placed, lockMark := true }, { decision := .absent, lockMark := false }]
    linesFixed := true, seatLines := [lines 0, lines 0] }

/-- Its first impression, on lines 1000 to 1255. -/
def impression : Impression :=
  { tag := 1, plan := 0, copy := 1, snapshot := { bandHeight := 16, bandLead := 256, callLead := 0, pageGap := 32 }
    start := 1000, endLine := 1255, first := true, nextFreeze := 16, lateSeats := [], clampedSet := []
    marginSet := [], captionSet := [], clamped := 0, margins := 0, truncated := 0, missing := 0, filled := 0
    heldBands := 0, withholdPending := false }

/-- Unit 4 with a plan, two listed students and the portrait of the first, held with one lock. -/
def stocked : State :=
  { up with
    tables := { up.tables with
      plans := up.tables.plans.set 0 (some plan), planRows := 1, planSeats := 2
      roster := (up.tables.roster.set 5 (student 50)).set 6 (student 60)
      tones := up.tables.tones.set 0 (some (readTone [])) }
    intake := { up.intake with
      directory := up.intake.directory.set 5
        { held := some { version := portrait 0, state := .ready, lock := 1 }, incoming := none } }
    store := { up.store with freeList := List.range' 1 8191, freeCount := 8191, arrival := [5] } }

/-- The same unit printing its impression, about to answer page line `y`. -/
def printing (y : Nat) : State :=
  { stocked with
    scheduler := { stocked.scheduler with queue := [order 1 .active], impression := some impression }
    press := { stocked.press with lineCount := 1000 + BitVec.ofNat 48 y, blankWidth := 256 } }

/-- The same unit with a tile train open on Link B: rows of 64 pixels for index 7 in block 1. -/
def receiving (rows gap : Nat) : State :=
  { stocked with
    intake := { stocked.intake with
      directory := stocked.intake.directory.set 7
        { held := none, incoming := some { version := filling 1 rows, state := .filling } }
      trains := { stocked.intake.trains with b := some (train 7 (if rows = 0 then none else some (rows - 1)) gap) } }
    store := { stocked.store with freeList := List.range' 2 8190, freeCount := 8190 } }

theorem portrait_entry : entryOf stocked 5 =
    { held := some { version := portrait 0, state := .ready, lock := 1 }, incoming := none } := by
  simp [entryOf, stocked]

theorem record_of_stocked (i : RosterIndex) : recordOf stocked i =
    if i = 6 then student 60 else if i = 5 then student 50
    else { listed := false, studentId := 0, caption := [], withheld := false, uses := 0 } := by
  have e : recordOf stocked i = ((State.reset.tables.roster.set 5 (student 50)).set 6 (student 60))[i.val] := rfl
  rw [e, Vector.getElem_set, Vector.getElem_set]
  have r : State.reset.tables.roster[i.val] =
      { listed := false, studentId := 0, caption := [], withheld := false, uses := 0 } := by
    simp [State.reset, RosterRecord.empty]
  have w6 : (6 = i.val) ↔ i = 6 := by rw [Fin.ext_iff]; exact eq_comm
  have w5 : (5 = i.val) ↔ i = 5 := by rw [Fin.ext_iff]; exact eq_comm
  rw [r]; simp only [w6, w5]

/-! ## Witnesses: the queue and the laws -/

theorem witness_CommandsLeaveQueueStrapsAndLineCount :
    exec .lineSync State.reset = .next (after .lineSync State.reset) ∧ Instr.lineSync ≠ .powerOnReset 0 :=
  ⟨rfl, by decide⟩

/-- The unit that receives, with a tick waiting. -/
def lawful : State := { receiving 1 0 with pending := [.timeTick] }

theorem witness_step_of_lawful : step lawful = .next (after .timeTick { lawful with pending := [] }) := rfl

theorem entry_of_receiving (rows gap : Nat) (i : RosterIndex) : entryOf (receiving rows gap) i =
    if i = 7 then { held := none, incoming := some { version := filling 1 rows, state := .filling } }
    else if i = 5 then { held := some { version := portrait 0, state := .ready, lock := 1 }, incoming := none }
    else { held := none, incoming := none } := by
  have e : entryOf (receiving rows gap) i =
      (((State.reset.intake.directory.set 5
        { held := some { version := portrait 0, state := .ready, lock := 1 }, incoming := none }).set 7
        { held := none, incoming := some { version := filling 1 rows, state := .filling } }))[i.val] := rfl
  rw [e, Vector.getElem_set, Vector.getElem_set]
  have r : State.reset.intake.directory[i.val] = { held := none, incoming := none } := by
    simp [State.reset]
  rw [r]
  have w7 : (7 = i.val) ↔ i = 7 := by rw [Fin.ext_iff]; exact eq_comm
  have w5 : (5 = i.val) ↔ i = 5 := by rw [Fin.ext_iff]; exact eq_comm
  simp only [w7, w5]

theorem receiving_incoming (rows gap : Nat) :
    (entryOf (receiving rows gap) 7).incoming = some { version := filling 1 rows, state := .filling } :=
  congrArg DirEntry.incoming (entry_of_receiving rows gap 7)

theorem witness_BlockLawKept : BlockLaw lawful := by
  refine ⟨by decide +kernel, ?_⟩
  have h : listedBlocks lawful = [0, 1] := by decide +kernel
  rw [h]
  have h1 : lawful.store.freeList = List.range' 2 8190 := rfl
  have h2 : List.range Config.blockCount = [0, 1] ++ List.range' 2 8190 := by
    rw [List.range_eq_range']; exact (List.range'_append (s := 0) (m := 2) (n := 8190) (step := 1)).symm
  rw [h1, h2]
  exact List.perm_append_comm

theorem witness_ArrivalLawKept : ArrivalLaw lawful := by
  refine ⟨by decide, fun i => ?_⟩
  show i ∈ ([5] : List RosterIndex) ↔ (entryOf (receiving 1 0) i).held.isSome = true
  rw [entry_of_receiving]
  by_cases h7 : i = 7
  · subst h7; decide
  · by_cases h5 : i = 5
    · simp [h5]
    · simp [h7, h5]

theorem witness_TrainLawKept : TrainLaw lawful where
  fills l t h := by
    cases l
    · cases h
    · cases h
      exact ⟨{ version := filling 1 1, state := .filling }, congrArg DirEntry.incoming (entry_of_receiving 1 0 7), rfl⟩
  apart t u h := by cases h
  filled i v h hv := by
    have e : (entryOf (receiving 1 0) i).incoming = some v := h
    rw [entry_of_receiving] at e
    by_cases h7 : i = 7
    · exact ⟨.b, _, rfl, h7.symm⟩
    · rw [if_neg h7] at e
      split at e <;> cases e

theorem witness_FormsPlacesAndTotalsKept :
    FreeListAscends lawful ∧ Memory.wf [(3, 7)] = true ∧ WithinPlaces lawful ∧ TotalsLaw lawful :=
  ⟨List.pairwise_le_range', rfl, ⟨by decide, by decide, fun m => by cases m <;> decide⟩, by constructor <;> decide⟩

/-- The printing unit, with a line sync waiting: an order that holds a lock on a READY version. -/
def ordered : State := { printing 0 with pending := [.lineSync] }

theorem witness_step_of_ordered : step ordered = .next (after .lineSync { ordered with pending := [] }) := rfl

theorem witness_QueueLawKept : QueueLaw ordered where
  loaded o h := by rw [List.mem_singleton.1 h]; decide
  tags := by decide
  idle := by decide
  printing c o rest hc hq := by cases hc; cases hq; exact ⟨rfl, rfl⟩
  places o rest hq := by
    cases hq
    exact ⟨Or.inl rfl, [], [], [], rfl, fun _ h => (by cases h), fun _ h => (by cases h), fun _ h => (by cases h),
      by decide, fun h => absurd rfl h⟩

theorem names_of_ordered (i : RosterIndex) :
    orderNames ordered (order 1 .active) i = (decide ((5 : RosterIndex) = i) || (decide ((6 : RosterIndex) = i) || false)) :=
  rfl

theorem locks_of_ordered (i : RosterIndex) :
    orderLocks ordered (order 1 .active) i
      = (decide ((5 : RosterIndex) = i) && true || (decide ((6 : RosterIndex) = i) && false || false)) := rfl

theorem entry_of_ordered (i : RosterIndex) : entryOf ordered i =
    if i = 5 then { held := some { version := portrait 0, state := .ready, lock := 1 }, incoming := none }
    else { held := none, incoming := none } := by
  have e : entryOf ordered i =
      (State.reset.intake.directory.set 5
        { held := some { version := portrait 0, state := .ready, lock := 1 }, incoming := none })[i.val] := rfl
  rw [e, Vector.getElem_set]
  have r : State.reset.intake.directory[i.val] = { held := none, incoming := none } := by
    simp [State.reset]
  rw [r]
  have w5 : (5 = i.val) ↔ i = 5 := by rw [Fin.ext_iff]; exact eq_comm
  simp only [w5]

theorem witness_RosterLawKept : RosterLaw ordered where
  listed i := by
    rw [show recordOf ordered i = recordOf stocked i from rfl, record_of_stocked]
    split
    · decide
    · split <;> decide
  unique i j := by
    rw [show recordOf ordered i = recordOf stocked i from rfl, show recordOf ordered j = recordOf stocked j from rfl,
      record_of_stocked, record_of_stocked]
    split <;> split <;> (try split) <;> (try split) <;> simp_all [student]
  once id p h := by
    have e : (State.reset.tables.plans.set 0 (some plan))[id.val] = some p := h
    rw [Vector.getElem_set] at e
    split at e
    · cases e; decide
    · rw [show State.reset.tables.plans[id.val] = none by simp [State.reset]] at e; cases e
  range l g first count h := by cases l <;> cases h
  uses i := by
    show (recordOf stocked i).uses = [order 1 .active].countP fun o => orderNames ordered o i
    rw [List.countP_singleton, names_of_ordered, record_of_stocked]
    by_cases h6 : i = 6
    · subst h6; rfl
    · by_cases h5 : i = 5
      · subst h5; rfl
      · simp [h6, h5, Ne.symm h6, Ne.symm h5]

theorem witness_LockLawKept : LockLaw ordered where
  entries o ho p hp := by rw [List.mem_singleton.1 ho] at hp ⊢; cases hp; rfl
  marks o ho e he := by
    rw [List.mem_singleton.1 ho] at he
    simp only [order, List.mem_cons, List.not_mem_nil, or_false] at he
    rcases he with rfl | rfl <;> decide
  held i h hh := by
    show h.lock = [order 1 .active].countP fun o => orderLocks ordered o i
    rw [List.countP_singleton, locks_of_ordered]
    rw [entry_of_ordered] at hh
    by_cases h5 : i = 5
    · subst h5; cases hh; rfl
    · rw [if_neg h5] at hh; cases hh
  free i h o ho := by
    rw [List.mem_singleton.1 ho, locks_of_ordered]
    rw [entry_of_ordered] at h
    by_cases h5 : i = 5
    · rw [if_pos h5] at h; cases h
    · simp [Ne.symm h5]
  damaged i h hh hd := by
    rw [entry_of_ordered] at hh
    split at hh <;> cases hh; cases hd
  waiting i v hv := by
    rw [entry_of_ordered] at hv
    split at hv <;> cases hv
  withheld i h := by
    rw [show recordOf ordered i = recordOf stocked i from rfl, record_of_stocked] at h
    split at h
    · cases h
    · split at h <;> cases h

/-! ## Witnesses: parcels and lines -/

/-- An own kind, an unknown kind and an unknown code, with payloads of 0 and 4096 bytes. -/
theorem witness_ParcelsReadBackAsSent :
    let w := plain (List.replicate 4096 0)
    (Instr.tileBody .a 255 w).wellFormed = true ∧ parcelParts (.tileBody .a 255 w) = some (.a, 2, 255, w)
    ∧ (Instr.unknownKindParcel .b 9 0 (plain [])).wellFormed = true
    ∧ (Instr.unknownControl .b 29 (plain [])).wellFormed = true :=
  ⟨by decide +kernel, rfl, by decide, by decide⟩

/-- The line before the impression and the line after its last. -/
theorem witness_LineOutsideAnImpressionIsBlank :
    (up.press.hold = .clear ∧ up.scheduler.impression = none)
    ∧ (∀ y ∈ [256, 2 ^ 48 - 1], (printing y).press.hold = .clear
      ∧ (printing y).scheduler.impression = some impression ∧ planOf (printing y) impression.plan = some plan
      ∧ plan.height ≤ ((printing y).press.lineCount - impression.start).toNat) := by decide +kernel

theorem printing_line_due (y : Nat) (h : y < 256) : LineDue (printing y) impression plan y := by
  refine ⟨rfl, rfl, ?_, h⟩
  show (1000 + BitVec.ofNat 48 y - 1000 : BitVec 48).toNat = y
  rw [show (1000 + BitVec.ofNat 48 y - 1000 : BitVec 48) = BitVec.ofNat 48 y by bv_omega, BitVec.toNat_ofNat]
  omega

/-- The printing unit with band `k` in buffer 3. -/
def buffered (k y : Nat) : State :=
  { printing y with
    renderer := { (printing y).renderer with buffers := up.renderer.buffers.set 3 (.complete k [[grey]]) }
    press := { (printing y).press with mode := some .buffer } }

theorem buffered_holds (k y : Nat) : HoldsBand (buffered k y) k 3 [[grey]] := by
  refine ⟨rfl, fun j ls h => ?_⟩
  match j with
  | 0 => cases h
  | 1 => cases h
  | 2 => cases h
  | 3 => rfl

/-- The first and the last line of a band, and the end line. -/
theorem witness_CompleteBandIsEmittedFromItsBuffer :
    ∀ y ∈ [0, 15, 240, 255], LineDue (buffered (y / 16) y) impression plan y
      ∧ (buffered (y / 16) y).press.hold = .clear ∧ 0 < impression.snapshot.bandHeight
      ∧ HoldsBand (buffered (y / 16) y) (y / impression.snapshot.bandHeight) 3 [[grey]]
      ∧ (y % impression.snapshot.bandHeight = 0 ∨ (buffered (y / 16) y).press.mode = some .buffer) := by
  intro y hy
  have h : y < 256 := by fin_cases hy <;> decide
  have d := printing_line_due y h
  exact ⟨⟨rfl, d.plan, d.line, h⟩, rfl, by decide, buffered_holds _ _, Or.inr rfl⟩

/-- A render of band `k` into buffer 2. -/
def render (k : Nat) : Render :=
  { work := 9, band := k, buffer := 2, glyphs := none, placements := [], captions := [] }

/-- The printing unit with the render of band `k` in progress and this hold state. -/
def underrun (k limit : Nat) (h : HoldState) : State :=
  { printing (k * 16) with
    tables := { stocked.tables with settings := { stocked.tables.settings with holdLimit := limit } }
    renderer :=
      { up.renderer with buffers := up.renderer.buffers.set 2 (.rendering k), current := some (render k), works := 10 }
    press := { (printing (k * 16)).press with hold := h } }

theorem underrun_not_complete (k n limit : Nat) (h : HoldState) : NotComplete (underrun k limit h) n := by
  intro j ls e
  match j with
  | 0 => cases e
  | 1 => cases e
  | 2 => cases e
  | 3 => cases e

theorem underrun_line_due (k limit : Nat) (h : HoldState) (hk : k < 16) :
    LineDue (underrun k limit h) impression plan (k * 16) := by
  have d := printing_line_due (k * 16) (by omega)
  exact ⟨rfl, rfl, d.line, d.within⟩

/-- The first band and the last. -/
theorem witness_UnderrunIsFilled :
    ∀ k ∈ [0, 15], LineDue (underrun k 0 .clear) impression plan (k * 16) ∧ (underrun k 0 .clear).press.hold = .clear
      ∧ k * 16 % impression.snapshot.bandHeight = 0 ∧ NotComplete (underrun k 0 .clear) (k * 16 / 16)
      ∧ (underrun k 0 .clear).tables.settings.holdLimit = 0
      ∧ (underrun k 0 .clear).renderer.current = some (render k) ∧ (render k).band = k * 16 / 16
      ∧ k * 16 + 1 < plan.height := by
  intro k hk
  have h : k < 16 := by fin_cases hk <;> decide
  exact ⟨underrun_line_due k 0 .clear h, rfl, by simp [impression], underrun_not_complete _ _ _ _, rfl, rfl,
    by simp [render], by show k * 16 + 1 < 256; omega⟩

/-- The second line of a band in mode FILL, the last one, and the end line, none with a buffer that holds the band. -/
theorem witness_later_filled_lines :
    ∀ y ∈ [1, 15, 241, 255],
      let s : State := { printing y with press := { (printing y).press with mode := some .fill } }
      LineDue s impression plan y ∧ s.press.hold = .clear ∧ 0 < impression.snapshot.bandHeight
      ∧ y % impression.snapshot.bandHeight ≠ 0 ∧ s.press.mode = some .fill
      ∧ NotComplete s (y / impression.snapshot.bandHeight) := by
  intro y hy s
  have h : y < 256 := by fin_cases hy <;> decide
  refine ⟨⟨rfl, rfl, (printing_line_due y h).line, h⟩, rfl, by decide, ?_, rfl, fun j ls e => ?_⟩
  · fin_cases hy <;> decide
  · match j with
    | 0 => cases e
    | 1 => cases e
    | 2 => cases e
    | 3 => cases e

theorem witness_UnderrunIsHeld :
    (∀ limit ∈ [1, 250], LineDue (underrun 15 limit .clear) impression plan 240
      ∧ (underrun 15 limit .clear).press.hold = .clear ∧ 240 % impression.snapshot.bandHeight = 0
      ∧ NotComplete (underrun 15 limit .clear) (240 / 16)
      ∧ 0 < (underrun 15 limit .clear).tables.settings.holdLimit)
    ∧ (underrun 15 250 (.holding 15 249)).press.hold = .holding 15 249 := by
  refine ⟨fun limit hl => ⟨underrun_line_due 15 limit .clear (by decide), rfl, by decide,
    underrun_not_complete _ _ _ _, ?_⟩, rfl⟩
  fin_cases hl <;> decide

/-- With verdict FILL on an abandoned render, and with verdict BUFFER on a complete one. -/
theorem witness_ReissuedLineIsAnsweredByTheVerdict :
    (LineDue (underrun 15 1 (.awaiting 15 .fill)) impression plan (15 * impression.snapshot.bandHeight)
      ∧ (underrun 15 1 (.awaiting 15 .fill)).press.hold = .awaiting 15 .fill)
    ∧ (∃ s : State, LineDue s impression plan (0 * impression.snapshot.bandHeight)
      ∧ s.press.hold = .awaiting 0 .buffer ∧ HoldsBand s 0 3 [[grey]]
      ∧ 1 < impression.snapshot.bandHeight ∧ 0 * impression.snapshot.bandHeight + 1 < plan.height) :=
  ⟨⟨underrun_line_due 15 1 _ (by decide), rfl⟩,
    { buffered 0 0 with press := { (buffered 0 0).press with hold := .awaiting 0 .buffer } },
    ⟨rfl, rfl, (printing_line_due 0 (by decide)).line, by decide⟩, rfl, buffered_holds 0 0, by decide, by decide⟩

/-- The printing unit at its end line, in a band emitted as fill, with this queue. -/
def ending (queue : List Order) : State :=
  { printing 255 with
    scheduler := { (printing 255).scheduler with queue := queue }
    press := { (printing 255).press with mode := some .fill } }

/-- The order ends, is suspended by a rush order, and stays at the head. -/
theorem witness_LastLineEndsTheImpression :
    let rushed : Order := { order 2 .queued with rush := true }
    (∀ q ∈ [[order 1 .ending], [order 1 .active, rushed, order 3 .queued], [order 1 .active, order 3 .queued]],
      ∃ o rest, q = o :: rest ∧ LineDue (ending q) impression plan 255 ∧ 255 + 1 = plan.height
        ∧ Emits (ending q) impression impression 255 ∧ (ending q).scheduler.queue = o :: rest
        ∧ (∀ x ∈ rest, x.tag ≠ o.tag) ∧ o.plan = impression.plan)
    ∧ (plan.seats.map Seat.index).Nodup := by
  intro rushed
  refine ⟨fun q hq => ?_, by decide⟩
  have d (q : List Order) : LineDue (ending q) impression plan 255 :=
    ⟨rfl, rfl, (printing_line_due 255 (by decide)).line, by decide⟩
  have e (q : List Order) : Emits (ending q) impression impression 255 :=
    Or.inl ⟨rfl, by decide, (fun h => by cases h), rfl⟩
  fin_cases hq
  · exact ⟨_, _, rfl, d _, rfl, e _, rfl, by decide, rfl⟩
  · exact ⟨_, _, rfl, d _, rfl, e _, rfl, by decide, rfl⟩
  · exact ⟨_, _, rfl, d _, rfl, e _, rfl, by decide, rfl⟩

/-- The end line as a band of its own, complete, filled and reissued: a page of 241 lines in bands of 16. -/
theorem witness_a_last_band_of_one_line :
    let tall : Plan := { plan with height := 241 }
    let grow (s : State) : State := { s with tables.plans := s.tables.plans.set 0 (some tall) }
    (LineDue (grow (buffered 15 240)) impression tall 240 ∧ Emits (grow (buffered 15 240)) impression impression 240)
    ∧ (LineDue (grow (underrun 15 0 .clear)) impression tall 240
      ∧ Emits (grow (underrun 15 0 .clear)) impression { impression with filled := 1 } 240)
    ∧ (LineDue (grow (underrun 15 1 (.awaiting 15 .fill))) impression tall 240
      ∧ Emits (grow (underrun 15 1 (.awaiting 15 .fill))) impression impression 240) := by
  intro tall grow
  have c : ∀ h : NotComplete (grow (buffered 15 240)) (240 / impression.snapshot.bandHeight), False :=
    fun h => h 3 [[grey]] rfl
  have n : NotComplete (grow (underrun 15 0 .clear)) (240 / impression.snapshot.bandHeight) :=
    underrun_not_complete 15 _ 0 .clear
  exact ⟨⟨⟨rfl, rfl, (printing_line_due 240 (by decide)).line, by decide⟩, Or.inr (Or.inl ⟨rfl, by decide, c, rfl⟩)⟩,
    ⟨⟨rfl, rfl, (printing_line_due 240 (by decide)).line, by decide⟩,
      Or.inr (Or.inr (Or.inl ⟨rfl, by decide, fun h => h n, rfl, rfl⟩))⟩,
    ⟨rfl, rfl, (printing_line_due 240 (by decide)).line, by decide⟩,
    Or.inr (Or.inr (Or.inr ⟨⟨15, .fill, rfl⟩, rfl⟩))⟩

theorem witness_TickCountsTheMilliseconds :
    (underrun 15 250 (.holding 15 249)).press.hold = .holding 15 249 ∧ ∀ k n, up.press.hold ≠ .holding k n :=
  ⟨rfl, fun _ _ h => by cases h⟩

/-! ## Witnesses: links -/

/-- Unit `straps` with this port on Link A. -/
def linked (straps : BitVec 4) (p : Port) : State := { State.reset with straps := straps, ports := ⟨p, Port.reset⟩ }

/-- An exchange with this progress timer. -/
def exchanging (timer : Nat) : Exchange :=
  { round := 0, previous := none, takenIn := none, lastToggle := none, page := .ability false, timer := timer }

theorem witness_LinkTimersMoveTheLink :
    (let s := linked 4 { Port.reset with state := .sensing, sensingTimer := 1 };
      (portOf s .a).state = .sensing ∧ 1 ≤ (portOf s .a).sensingTimer)
    ∧ (portOf (linked 4 { Port.reset with state := .sensing }) .a).sensingTimer = 0
    ∧ (portOf up .a).state ≠ .sensing ∧ (portOf up .a).state ≠ .exchange
    ∧ (∀ n ∈ [49, 50], ∃ x, x.timer = n ∧
      (portOf (linked 4 { Port.reset with state := .exchange, exchange := some (exchanging n) }) .a).exchange = some x) :=
  ⟨by decide, by decide, by decide, by decide, fun n _ => ⟨exchanging n, rfl, rfl⟩⟩

/-- A signal that comes, with straps of 14 and of 15; a link lost with a train open, down or up, with the other link open and
not. -/
theorem witness_SignalComesAndGoes :
    ((portOf (linked 14 Port.reset) .a).state = .down ∧ (linked 14 Port.reset).straps ≠ 15)
    ∧ ((linked 15 Port.reset).straps = 15 ∧ (portOf up .a).state ≠ .down)
    ∧ (trainOf (receiving 63 9) .b = some (train 7 (some 62) 9)
      ∧ (entryOf (receiving 63 9) (train 7 (some 62) 9).index).incoming =
          some { version := filling 1 63, state := .filling }
      ∧ (portOf (receiving 63 9) .b).state ≠ .down ∧ (portOf (receiving 63 9) .a).state = .up
      ∧ (portOf (receiving 63 9) .a).quiet = false)
    ∧ trainOf State.reset .a = none ∧ (portOf State.reset .a).state = .down
    ∧ ¬((portOf State.reset .b).state = .up ∧ (portOf State.reset .b).quiet = false) :=
  ⟨by decide, by decide,
    ⟨rfl, congrArg DirEntry.incoming (entry_of_receiving 63 9 7), by decide, by decide, by decide⟩, rfl, rfl, by decide⟩

/-- An exchange page that arrives on Link A in the exchange `x`. -/
def pageWire (page : List Byte) : Wire := framed 8 0 (plain page)

def inExchange (x : Exchange) : State := linked 4 { Port.reset with state := .exchange, exchange := some x }

theorem page_arrives (x : Exchange) (page : List Byte) (h : page.length = 8) :
    PageArrives (inExchange x) .a 0 (pageWire page) x := by
  refine ⟨rfl, rfl, ?_, ?_, h, framed_check 8 0 _⟩
  · show page.length ≤ 4096
    omega
  · show (BitVec.ofNat 16 page.length).toNat = page.length
    rw [h]; rfl

/-- A server of revision 2 is taken in; roles of unit and revisions of 0 and 3 are faults. -/
theorem witness_AbilityPageIsTakenIn :
    (∀ p ∈ ([[0, 1, 0, 2, 16, 0, 0, 0], [0, 0, 0, 0, 16, 0, 0, 0], [0, 0, 0, 3, 16, 0, 0, 0]] : List (List Byte)),
      let x : Exchange := { exchanging 49 with previous := some p }
      PageArrives (inExchange x) .a 0 (pageWire p) x ∧ x.round = 0 ∧ x.takenIn = none
      ∧ byteAt (pageWire p).payload 0 = 0 ∧ x.previous = some ((pageWire p).payload.set 7 0)
      ∧ (byteAt p 1 = 1 ∨ byteAt p 3 = 0 ∨ 2 < byteAt p 3))
    ∧ (∀ p ∈ ([[0, 0, 0, 1, 0, 255, 0, 0], [0, 0, 0, 2, 16, 1, 0, 0]] : List (List Byte)),
      let x : Exchange := { exchanging 49 with previous := some p }
      PageArrives (inExchange x) .a 0 (pageWire p) x ∧ x.round = 0 ∧ x.takenIn = none
      ∧ byteAt (pageWire p).payload 0 = 0 ∧ x.previous = some ((pageWire p).payload.set 7 0)
      ∧ byteAt p 1 ≠ 1 ∧ 1 ≤ byteAt p 3 ∧ byteAt p 3 ≤ 2) := by
  constructor <;> intro p hp x <;> fin_cases hp <;>
    exact ⟨page_arrives x _ rfl, rfl, rfl, by decide, by decide, by decide⟩

/-- Train gaps of 0 and 101 and payload limits of 255 and 4097, which are clamped; a code of neither; no message. -/
theorem witness_NextPageIsAnswered :
    ∀ p ∈ ([[1, 4, 1, 0, 0, 0, 0, 0], [1, 20, 1, 0, 0, 101, 0, 0], [1, 4, 2, 0, 0, 255, 0, 0], [1, 20, 2, 0, 16, 1, 0, 0],
        [1, 4, 3, 0, 0, 0, 0, 0], [1, 4, 0, 0, 0, 0, 0, 0], [1, 0, 1, 0, 0, 0, 0, 0]] : List (List Byte)),
      let x : Exchange := { exchanging 0 with round := 1, previous := some p }
      PageArrives (inExchange x) .a 0 (pageWire p) x ∧ 1 ≤ x.round ∧ x.takenIn = none
      ∧ byteAt (pageWire p).payload 0 ≠ 0 ∧ x.lastToggle ≠ some ((byteAt (pageWire p).payload 1).testBit 4)
      ∧ x.previous = some ((((pageWire p).payload.set 3 0).set 6 0).set 7 0) := by
  intro p hp x
  fin_cases hp <;>
    exact ⟨page_arrives x _ rfl, by decide, rfl, by decide, by decide, by decide⟩

/-- A page of another round; the first of a round; the acknowledged page of the last round and of a round before it, once
and twice running; a page that differs. -/
theorem witness_RoundsPairAndComplete :
    (let p : List Byte := [0, 0, 0, 2, 16, 0, 0, 0]
      let x : Exchange := { exchanging 49 with round := 1 }
      PageArrives (inExchange x) .a 0 (pageWire p) x ∧ x.round ≠ 0 ∧ byteAt p 0 = 0)
    ∧ (let p : List Byte := [1, 16, 0, 0, 0, 0, 0, 0]
      let x : Exchange := { exchanging 49 with round := 2, lastToggle := some true }
      PageArrives (inExchange x) .a 0 (pageWire p) x ∧ x.lastToggle = some ((byteAt p 1).testBit 4))
    ∧ ∀ f ∈ ([0, 1] : List Byte), ∀ seen ∈ ([none, some [0, 0, 0, 2, 16, 0, f ||| 2, 0]] : List (Option (List Byte))),
      let page : List Byte := [0, 0, 0, 2, 16, 0, f, 0]
      let acked : List Byte := [0, 0, 0, 2, 16, 0, f ||| 2, 0]
      let x : Exchange := { exchanging 49 with takenIn := some page, previous := seen, page := .ability true }
      let y : Exchange := { exchanging 49 with previous := seen }
      (PageArrives (inExchange y) .a 0 (pageWire page) y ∧ y.takenIn = none ∧ y.previous ≠ some page)
      ∧ PageArrives (inExchange x) .a 0 (pageWire acked) x ∧ x.round = 0 ∧ x.takenIn = some page ∧ byteAt page 0 = 0
      ∧ (pageWire acked).payload.set 7 0 = page.set 6 (page.getD 6 0 ||| 2)
      ∧ PageArrives (inExchange x) .a 0 (pageWire [0, 0, 0, 1, 16, 0, f ||| 2, 0]) x
      ∧ ([0, 0, 0, 1, 16, 0, f ||| 2, 0] : List Byte) ≠ page.set 6 (page.getD 6 0 ||| 2) := by
  refine ⟨⟨page_arrives _ _ rfl, by decide, rfl⟩, ⟨page_arrives _ _ rfl, by decide⟩, fun f hf seen hs => ?_⟩
  refine ⟨⟨page_arrives _ _ rfl, rfl, ?_⟩, page_arrives _ _ rfl, rfl, rfl, rfl, rfl, page_arrives _ _ rfl, ?_⟩
  · fin_cases hf <;> fin_cases hs <;> decide
  · fin_cases hf <;> decide

/-- A waiting call. -/
def callFor (rank : Nat) : CallParcel :=
  { studentId := 50, index := 5, tag := 1, due := 744, remaining := 10, mark := 0, rank := rank }

/-- A link whose exchange completes, or goes to FAULT, beside one that is not open and beside one that is, with full call
queues and a notice on both. -/
theorem witness_calls_move_between_the_links :
    let waits : Port :=
      { Port.reset with calls := List.replicate 64 (callFor 3), notice := some { kinds := 128, mark := 0 } }
    let page : List Byte := [0, 0, 0, 2, 16, 0, 0, 0]
    let x : Exchange :=
      { exchanging 49 with takenIn := some page, previous := some (page.set 6 2), page := .ability true }
    let s (p : Port) : State :=
      { State.reset with straps := 4, ports := ⟨{ waits with state := .exchange, exchange := some x }, p⟩ }
    (∀ p, PageArrives (s p) .a 0 (pageWire (page.set 6 2)) x ∧ (portOf (s p) .a).quiet = false)
    ∧ page.set 6 2 = page.set 6 (page.getD 6 0 ||| 2) ∧ (page.getD 6 0).toNat.testBit 0 = false
    ∧ ¬OpenLink (s waits) .b ∧ ¬OpenLink (s { waits with state := .up, quiet := true }) .b
    ∧ OpenLink (s { waits with state := .up }) .b := by
  refine ⟨fun p => ⟨⟨rfl, rfl, ?_, ?_, rfl, framed_check 8 0 _⟩, rfl⟩, rfl, rfl, fun h => ?_, fun h => ?_, rfl, rfl⟩
  · show 8 ≤ 4096
    decide
  · rfl
  · exact absurd h.1 (by decide)
  · exact absurd h.2 (by decide)

/-! ## Witnesses: receive tests and tiles -/

/-- The states that read nothing; the threshold met and passed; a wrong length field and a wrong check; unknown kinds and
an exchange page out of place; a tile head in EXCHANGE; a parcel for unit 5. -/
theorem witness_ReceiveTestsDispose :
    NoneHeldBack up
    ∧ (∀ st ∈ [LinkState.down, .sensing, .fault], NoneHeldBack (linked 4 { Port.reset with state := st }))
    ∧ ((portOf (linked 4 { Port.reset with state := .up, threshold := 256 }) .a).threshold
        < (plain (List.replicate 257 0)).payload.length)
    ∧ (plain [1]).payload.length ≠ (plain [1]).lengthField.toNat
    ∧ { framed 1 0 (plain [1]) with check := 0 }.check ≠ properCheck 1 0 { framed 1 0 (plain [1]) with check := 0 }
    ∧ ((0 : Byte) ∉ ([1, 2, 3, 4, 8] : List Byte) ∧ (9 : Byte) ∉ ([1, 2, 3, 4, 8] : List Byte))
    ∧ (framed 8 0 (plain [])).payload.length ≠ 8
    ∧ ((4 : Byte) ∈ ([1, 2, 3, 4] : List Byte) ∧ (portOf (inExchange (exchanging 0)) .a).state = .exchange)
    ∧ (let w := framed 4 0 { plain [] with address := 5 };
        w.address ≠ up.straps ∧ w.address ≠ 15 ∧ w.payload.length = w.lengthField.toNat ∧ w.check = properCheck 4 0 w) := by
  refine ⟨fun m => by cases m <;> rfl, fun st _ m => by cases m <;> rfl, by decide +kernel, by decide,
    by decide +kernel, by decide, by decide, by decide, by decide +kernel⟩

/-- No other record holds the second student's id. -/
theorem student_60_alone (i : RosterIndex) (_ : (recordOf stocked i).listed = true)
    (h : (recordOf stocked i).studentId = 60) : i = 6 := by
  rw [record_of_stocked] at h
  by_cases h6 : i = 6
  · exact h6
  · rw [if_neg h6] at h
    split at h <;> exact absurd h (by decide)

/-- No record holds this id. -/
theorem student_61_unlisted (i : RosterIndex) (_ : (recordOf stocked i).listed = true) :
    (recordOf stocked i).studentId ≠ 61 := by
  rw [record_of_stocked]
  split
  · decide
  · split <;> decide

/-- A tile head of this student, session and geometry. -/
def headOf (id session : Byte) (ws hs es cs hh : Nat) : List Byte :=
  [0, 0, 0, id, session, 0] ++ bytesBE 2 ws ++ bytesBE 2 hs ++ bytesBE 2 es ++ bytesBE 2 cs ++ bytesBE 2 hh

/-- The stocked unit with this many free blocks counted. -/
def withFree (n : Nat) : State := { stocked with store := { stocked.store with freeCount := n } }

/-- The smallest portrait, and the largest with just as many free blocks as it and low-water ask for. -/
theorem witness_TileHeadOpensATrain :
    ∀ g ∈ [(64, 64, 513, 63, 63, 16), (1024, 1280, 572, 1279, 1023, 1280)],
      let p := headOf 60 0 g.1 g.2.1 g.2.2.2.1 g.2.2.2.2.1 g.2.2.2.2.2
      let s := withFree g.2.2.1
      Passes s .a 1 0 (framed 1 0 (plain p)) ∧ p.length = 16 ∧ trainOf s .a = none
      ∧ (∀ u, trainOf s .b = some u → u.index ≠ 6) ∧ be32 p 0 ≠ 0 ∧ (recordOf s 6).listed = true
      ∧ (recordOf s 6).studentId = BitVec.ofNat 32 (be32 p 0)
      ∧ (∀ j, (recordOf s j).listed = true → (recordOf s j).studentId = 60 → j = 6)
      ∧ (recordOf s 6).withheld = false ∧ byteAt p 4 = (0 : Fin 16).val ∧ s.tables.tones[(0 : Fin 16)] ≠ none
      ∧ 64 ≤ be16 p 6 ∧ be16 p 6 ≤ 1024 ∧ 64 ≤ be16 p 8 ∧ be16 p 8 ≤ 1280 ∧ be16 p 10 < be16 p 8
      ∧ be16 p 12 < be16 p 6 ∧ 16 ≤ be16 p 14 ∧ be16 p 14 ≤ be16 p 8
      ∧ (be16 p 6 * be16 p 8 * 3 + 65535) / 65536 ≤ s.store.freeCount ∧ (entryOf s 6).incoming = none := by
  intro g hg p s
  have hp : p.length = 16 := rfl
  refine ⟨framed_passes ⟨rfl, rfl, rfl⟩ (Or.inl rfl) (by show p.length ≤ 4096; omega), hp, rfl, fun u h => (by cases h),
    ?_, congrArg RosterRecord.listed (record_of_stocked 6), ?_, student_60_alone, rfl, rfl, (by intro h; cases h), ?_⟩
  · fin_cases hg <;> decide
  · fin_cases hg <;> decide
  · fin_cases hg <;> decide

/-- A head on a link with an open train; a student with a WAITING version, and one whose train fills on the other link; a
head that finds room only once a held version has been reclaimed. -/
theorem witness_heads_that_supersede_and_reclaim :
    (let w := framed 1 0 (plain (headOf 60 0 64 64 0 0 16));
      Passes (receiving 1 9) .b 1 0 w ∧ trainOf (receiving 1 9) .b = some (train 7 (some 0) 9)
      ∧ (entryOf (receiving 1 9) 7).incoming = some { version := filling 1 1, state := .filling })
    ∧ (let s : State := setEntry 6
          { held := none, incoming := some { version := portrait 1, state := .waiting } } stocked;
        (∀ x : Train, trainOf s .b = some x → x.index ≠ 6)
        ∧ (entryOf s 6).incoming = some { version := portrait 1, state := .waiting })
    ∧ (trainOf (receiving 1 9) Link.a.other = some (train 7 (some 0) 9) ∧ (train 7 (some 0) 9).index = 7
      ∧ trainOf (receiving 1 9) .a = none)
    ∧ (let s : State := setRecord 5 { student 50 with uses := 0 }
          (setEntry 5 { held := some { version := portrait 0, state := .ready, lock := 0 }, incoming := none }
            (withFree 0));
        s.store.freeCount < (64 * 64 * 3 + 65535) / 65536
        ∧ (64 * 64 * 3 + 65535) / 65536 ≤ (reclaim ((64 * 64 * 3 + 65535) / 65536) s).store.freeCount
        ∧ (64 * 64 * 3 + 65535) / 65536 + 1 > (reclaim 2 s).store.freeCount) := by
  refine ⟨⟨framed_passes ⟨rfl, rfl, rfl⟩ (Or.inl rfl) (by decide), rfl, receiving_incoming 1 9⟩,
    ⟨fun x h => (by cases h), ?_⟩, ⟨rfl, rfl, rfl⟩, ?_⟩
  · simp [entryOf, setEntry]
  · decide +kernel

/-- A held version of the worked example of section 3.5: so many blocks, locks and pending uses. -/
def shelved (i : RosterIndex) (blocks lock uses : Nat) (s : State) : State :=
  setRecord i { student 1 with uses := uses }
    (setEntry i
      { held := some { version := { portrait 0 with blocks := List.replicate blocks 8000 }, state := .ready, lock := lock }
        incoming := none } s)

/-- Section 3.5 at its start: versions VA to VE at indices 10 to 14, 30 free blocks and a low-water of 40. -/
def shelf : State :=
  shelved 14 37 0 0 (shelved 13 14 0 0 (shelved 12 21 1 1 (shelved 11 21 0 1 (shelved 10 21 0 0
    { up with
      tables.settings.lowWater := 40
      store := { up.store with freeList := List.range' 0 30, freeCount := 30, arrival := [10, 11, 12, 13, 14] } }))))

/-- A reclaim with candidates to free and versions to pass by, towards a count it reaches and one it does not; a free count
at low-water and below it. -/
theorem witness_ReclaimFreesCandidatesInArrivalOrder :
    shelf.store.arrival.Nodup ∧ (reclaim 40 shelf).store.freeCount = 51 ∧ (reclaim 200 shelf).store.freeCount = 102
    ∧ shelf.tables.settings.lowWater = 40 ∧ shelf.store.freeCount = 30
    ∧ (withFree 512).tables.settings.lowWater ≤ (withFree 512).store.freeCount := by decide +kernel

/-- Each refusal, with the geometry at and past its ends, and with one free block too few. -/
theorem witness_TileHeadIsRefused :
    let passes (p : List Byte) := Passes stocked .a 1 0 (framed 1 0 (plain p))
    let bad (p : List Byte) := ¬(64 ≤ be16 p 6 ∧ be16 p 6 ≤ 1024 ∧ 64 ≤ be16 p 8 ∧ be16 p 8 ≤ 1280
      ∧ be16 p 10 < be16 p 8 ∧ be16 p 12 < be16 p 6 ∧ 16 ≤ be16 p 14 ∧ be16 p 14 ≤ be16 p 8)
    (∀ p ∈ [[], headOf 0 0 64 64 0 0 16, headOf 61 0 64 64 0 0 16, headOf 60 1 64 64 0 0 16, headOf 60 16 64 64 0 0 16,
      headOf 60 0 63 64 0 0 16, headOf 60 0 1025 64 0 0 16, headOf 60 0 64 64 64 0 16, headOf 60 0 64 64 0 64 16,
      headOf 60 0 64 64 0 0 15, headOf 60 0 64 64 0 0 65], passes p)
    ∧ trainOf stocked .a = none ∧ ([] : List Byte).length ≠ 16
    ∧ (∀ j : RosterIndex, (recordOf stocked j).listed = true → (recordOf stocked j).studentId ≠ 61)
    ∧ (∀ j : RosterIndex, (recordOf stocked j).listed = true → (recordOf stocked j).studentId = 60 → j = 6)
    ∧ (stocked.tables.tones[(1 : Fin 16)] = none ∧ 16 ≤ byteAt (headOf 60 16 64 64 0 0 16) 4)
    ∧ (∀ p ∈ [headOf 60 0 63 64 0 0 16, headOf 60 0 1025 64 0 0 16, headOf 60 0 64 64 64 0 16,
        headOf 60 0 64 64 0 64 16, headOf 60 0 64 64 0 0 15, headOf 60 0 64 64 0 0 65], bad p)
    ∧ (let s : State := setRecord 5 { student 50 with uses := 0 }
          (setEntry 5 { held := some { version := portrait 0, state := .ready, lock := 0 }, incoming := none }
            (withFree 58));
        ¬bad (headOf 60 0 1024 1280 0 0 16) ∧ s.store.freeCount < 60 ∧ (1024 * 1280 * 3 + 65535) / 65536 = 60
        ∧ (reclaim 60 s).store.freeCount = 59 ∧ (reclaim 60 s).store.arrival = []) := by
  refine ⟨fun p hp => framed_passes ⟨rfl, rfl, rfl⟩ (Or.inl rfl) ?_, rfl, by decide, student_61_unlisted,
    student_60_alone, ⟨rfl, by decide⟩, ?_, ?_⟩
  · fin_cases hp <;> decide
  · intro p hp
    fin_cases hp <;> decide
  · exact ⟨by decide, by decide +kernel, by decide, by decide +kernel, by decide +kernel⟩

/-- The record of index 6 withheld: the check before the session's. -/
theorem witness_withheld_student :
    (recordOf { stocked with tables.roster := stocked.tables.roster.set 6 { student 60 with withheld := true } } 6).withheld
      = true := by decide +kernel

/-- A body for row `r` of `n` pixel bytes. -/
def bodyOf (r n : Nat) : List Byte := bytesBE 2 r ++ List.replicate n 7

theorem body_passes (rows gap r n : Nat) (last : Bool) (hn : n ≤ 200) :
    Passes (receiving rows gap) .b 2 0 (framed 2 0 { plain (bodyOf r n) with last := last }) :=
  framed_passes ⟨rfl, rfl, rfl⟩ (Or.inl rfl) (by
    show (bytesBE 2 r ++ List.replicate n 7).length ≤ 4096
    simp [bytesBE]; omega)

/-- The first row and the last, with LAST and without it. -/
theorem witness_ExpectedRowIsStored :
    ∀ r ∈ [0, 63], ∀ last : Bool, Passes (receiving r 9) .b 2 0 (framed 2 0 { plain (bodyOf r 192) with last := last })
      ∧ (∃ x, trainOf (receiving r 9) .b = some x ∧ x.index = 7)
      ∧ (entryOf (receiving r 9) 7).incoming = some { version := filling 1 r, state := .filling }
      ∧ (bodyOf r 192).length = 2 + (filling 1 r).width * 3 ∧ be16 (bodyOf r 192) 0 = (filling 1 r).rows
      ∧ (filling 1 r).rows < (filling 1 r).height
      ∧ (receiving r 9).tables.tones[(filling 1 r).session] = some (readTone [])
      ∧ Memory.wf (receiving r 9).store.bytes = true ∧ (filling 1 r).blocks.Nodup
      ∧ (filling 1 r).width * (filling 1 r).height * 3 ≤ (filling 1 r).blocks.length * 65536 := by
  intro r hr last
  refine ⟨body_passes r 9 r 192 last (by decide), ⟨_, rfl, rfl⟩, receiving_incoming r 9, ?_, ?_, ?_, rfl, rfl,
    List.nodup_singleton 1, show 64 * 64 * 3 ≤ 1 * 65536 by decide⟩ <;> fin_cases hr <;> decide +kernel

/-- No train; a duplicate, with LAST on a short train and on a poisoned one, and without it; wrong lengths; rows out of
sequence, one past the last among them; the expected row with LAST on a train that stays short. -/
theorem witness_OtherBodiesCloseOrStay :
    trainOf (receiving 0 0) .a = none
    ∧ Passes (receiving 0 0) .a 2 0 (framed 2 0 (plain []))
    ∧ (∀ rows ∈ [1, 64], ∀ last : Bool, (bodyOf (rows - 1) 192).length = 2 + (filling 1 rows).width * 3
        ∧ be16 (bodyOf (rows - 1) 192) 0 ≠ (filling 1 rows).rows ∧ (filling 1 rows).rows ≤ (filling 1 rows).height
        ∧ (train 7 (some (rows - 1)) 9).lastRow = some (be16 (bodyOf (rows - 1) 192) 0)
        ∧ Passes (receiving rows 9) .b 2 0 (framed 2 0 { plain (bodyOf (rows - 1) 192) with last := last }))
    ∧ (∀ n ∈ [0, 191, 193], (bodyOf 1 n).length ≠ 2 + (filling 1 1).width * 3
        ∧ Passes (receiving 1 9) .b 2 0 (framed 2 0 { plain (bodyOf 1 n) with last := false }))
    ∧ (be16 (bodyOf 2 192) 0 ≠ (filling 1 1).rows ∧ some 0 ≠ some (be16 (bodyOf 2 192) 0))
    ∧ ((filling 1 64).rows = (filling 1 64).height ∧ some 63 ≠ some (be16 (bodyOf 64 192) 0))
    ∧ ((filling 1 1).rows ≠ (filling 1 1).height ∧ { filling 1 64 with poisonedSeen := true }.poisonedSeen = true)
    ∧ (Passes (receiving 1 9) .b 2 0 (framed 2 0 { plain (bodyOf 1 192) with last := true })
      ∧ be16 (bodyOf 1 192) 0 = (filling 1 1).rows ∧ (filling 1 1).rows + 1 ≠ (filling 1 1).height) := by
  refine ⟨rfl, framed_passes ⟨rfl, rfl, rfl⟩ (Or.inl rfl) (by decide), fun rows hr last => ?_, fun n hn => ?_,
    by decide +kernel, by decide +kernel, by decide, body_passes 1 9 1 192 true (by decide), by decide +kernel, by decide⟩
  · refine ⟨?_, ?_, ?_, ?_, body_passes _ _ _ _ _ (by decide)⟩ <;> fin_cases hr <;> decide +kernel
  · refine ⟨?_, body_passes _ _ _ _ _ ?_⟩ <;> fin_cases hn <;> decide +kernel

/-- The unit whose train of index `i` on Link B awaits its last row, beside this held version. -/
def finishing (held : Option Held) : State :=
  { receiving 63 9 with
    intake := { (receiving 63 9).intake with
      directory := stocked.intake.directory.set 7
        { held := held, incoming := some { version := filling 1 63, state := .filling } } } }

theorem finishing_entry (held : Option Held) : entryOf (finishing held) 7 =
    { held := held, incoming := some { version := filling 1 63, state := .filling } } := by
  simp [entryOf, finishing]

/-- Nothing held, an unlocked held version, a locked one and a DAMAGED one; the last row, and its duplicate. -/
theorem witness_LastRowClosesATrainReady :
    (∀ held ∈ [none, some { version := portrait 2, state := .ready, lock := 0 },
        some { version := portrait 2, state := .ready, lock := 1 },
        some { version := portrait 2, state := .damaged, lock := 0 }],
      Passes (finishing held) .b 2 0 (framed 2 0 { plain (bodyOf 63 192) with last := true })
      ∧ trainOf (finishing held) .b = some (train 7 (some 62) 9)
      ∧ (entryOf (finishing held) 7).incoming = some { version := filling 1 63, state := .filling }
      ∧ (entryOf (finishing held) 7).held = held
      ∧ (bodyOf 63 192).length = 2 + (filling 1 63).width * 3 ∧ be16 (bodyOf 63 192) 0 = (filling 1 63).rows
      ∧ (filling 1 63).rows + 1 = (filling 1 63).height ∧ (filling 1 63).poisonedSeen = false)
    ∧ (trainOf (receiving 64 9) .b = some (train 7 (some 63) 9) ∧ (filling 1 64).rows = (filling 1 64).height
      ∧ (train 7 (some 63) 9).lastRow = some (be16 (bodyOf 63 192) 0)) := by
  refine ⟨fun held _ => ?_, rfl, rfl, by decide⟩
  refine ⟨framed_passes ⟨rfl, rfl, rfl⟩ (Or.inl rfl) (by decide +kernel), rfl,
    congrArg DirEntry.incoming (finishing_entry held), congrArg DirEntry.held (finishing_entry held),
    by decide +kernel, by decide +kernel, by decide, by decide⟩

/-- The printing order has decided index 6 absent: a close of its train is late; no seat names index 7, and with no order
queued none is late. -/
theorem witness_late_close :
    LateFor (printing 0) 6 1 ∧ (∀ n, ¬LateFor (printing 0) 7 n) ∧ ∀ n, ¬LateFor (receiving 1 9) 7 n := by
  refine ⟨⟨order 1 .active, [], plan, _, _, rfl, Or.inl rfl, rfl, rfl, rfl, ?_, rfl, rfl⟩, ?_, ?_⟩
  · intro m y hm hy
    match m with
    | 0 => cases hy; decide
    | m + 1 => omega
  · rintro n ⟨o, rest, p, x, e, hq, -, hp, hx, hi, -⟩
    cases hq; cases hp
    match n with
    | 0 => cases hx; exact absurd hi (by decide)
    | 1 => cases hx; exact absurd hi (by decide)
    | n + 2 => cases hx
  · rintro n ⟨o, rest, p, x, e, hq, -⟩
    cases hq

/-- A staging on Link A with this gap timer and these bytes. -/
def stagingOf (t : TableTarget) (bytes : List Byte) (gap : Nat) : Staging :=
  { target := t, tag := 0x0304, bytes := bytes, overflow := false, gapTimer := gap }

/-- Unit 4 with that staging. -/
def staged (g : Staging) : State := setSlot .a { staging := some g, superseded := 0 } up

/-- Gap timers at the train gap of 10 and one before it. -/
theorem witness_TrainsExpireAtTheGap :
    (∀ gap ∈ [9, 10], trainOf (receiving 1 gap) .b = some (train 7 (some 0) gap)
      ∧ (entryOf (receiving 1 gap) 7).incoming = some { version := filling 1 1, state := .filling }
      ∧ (slotOf (staged (stagingOf .glyphs [] gap)) .a).staging = some (stagingOf .glyphs [] gap))
    ∧ (receiving 1 10).tables.settings.trainGap = 10 ∧ (staged (stagingOf .glyphs [] 10)).tables.settings.trainGap = 10
    ∧ trainOf (receiving 1 9) .a = none ∧ (slotOf up .a).staging = none :=
  ⟨fun gap _ => ⟨rfl, receiving_incoming 1 gap, rfl⟩, rfl, rfl, rfl, rfl⟩

/-- A whole tone set in two bodies, one a byte short of it and one a byte past it. -/
theorem witness_TableBodyIsStagedAndApplied :
    (∀ n ∈ [767, 768, 769], ∀ last : Bool,
      let g := stagingOf (.tone 15) (List.replicate 700 1) 9
      let w : Wire := { plain (List.replicate (n - 700) 1) with last := last }
      Passes (staged g) .a 4 0 (framed 4 0 w) ∧ w.address ≠ 15 ∧ (slotOf (staged g) .a).staging = some g
      ∧ (g.bytes ++ w.payload).length = n ∧ g.overflow = false ∧ sessionBusy (staged g) 15 = false)
    ∧ Passes up .a 4 0 (framed 4 0 (plain [])) ∧ (slotOf up .a).staging = none
    ∧ Passes up .a 4 0 (framed 4 0 { plain [1] with address := 15 }) := by
  refine ⟨fun n hn last => ?_, framed_passes ⟨rfl, rfl, rfl⟩ (Or.inl rfl) (by decide), rfl,
    framed_passes ⟨rfl, rfl, rfl⟩ (Or.inr rfl) (by decide)⟩
  refine ⟨framed_passes ⟨rfl, rfl, rfl⟩ (Or.inl rfl) ?_, ?_, rfl, ?_, rfl, rfl⟩ <;>
    fin_cases hn <;> cases last <;> decide +kernel

/-- A staged plan of one row and one seat, its last seat byte left to the last body. -/
def planBytes : List Byte :=
  [1, 0, 1, 0, 9, 9, 9, 1, 0, 1] ++ [0, 0, 0, 64, 0, 0, 16, 0, 0, 1, 0, 1, 0] ++ List.replicate 14 0
    ++ [0, 0, 0, 0, 32, 3]

/-- The last body of a plan, a Glyph Set and a roster for the two last records, each taken; and a plan a byte short. -/
theorem witness_tables_conclude :
    (∀ p ∈ [(stagingOf (.plan 7) planBytes 9, [255]), (stagingOf .glyphs [8, 1, 32, 8] 9, List.replicate 8 1),
          (stagingOf (.roster 1022 2) [0, 0, 0, 60, 1, 65] 9, [0, 0, 0, 0, 0])],
      let g : Staging := p.1
      let w : Wire := { plain p.2 with last := true }
      Passes (staged g) .a 4 0 (framed 4 0 w) ∧ w.address ≠ 15 ∧ (slotOf (staged g) .a).staging = some g
      ∧ g.bytes.length + w.payload.length ≤ stagingLimit g.target
      ∧ checkTable { g with bytes := g.bytes ++ w.payload, gapTimer := 0 } (staged g) = .taken
      ∧ checkTable { g with gapTimer := 0 } (staged g) ≠ .taken)
    ∧ readRoster 2 ([0, 0, 0, 60, 1, 65] ++ [0, 0, 0, 0, 0])
        = some ([{ studentId := 60, caption := [65] }, { studentId := 0, caption := [] }], []) := by
  refine ⟨fun p hp => ?_, by decide +kernel⟩
  refine ⟨framed_passes ⟨rfl, rfl, rfl⟩ (Or.inl rfl) ?_, ?_, rfl, ?_, ?_, ?_⟩ <;>
    fin_cases hp <;> decide +kernel

/-- An open Delivery Log record of this number. -/
def openRecord (q : BitVec 32) : DeliveryRecord :=
  { sequence := q, index := some 7, studentId := 70, link := .b, opened := true, closed := false, openMark := 0
    closeMark := none, rows := 0, outcome := none, late := false, called := false }

/-- The unit that receives a train, with the train's record in the log and a roster staged on Link A. -/
def reloading (g : Staging) : State :=
  setSlot .a { staging := some g, superseded := 0 }
    { receiving 3 9 with
      intake := { (receiving 3 9).intake with log := (receiving 3 9).intake.log.set 0 (some (openRecord 0)) } }

/-- A roster load that changes the student of an index whose train is open. -/
theorem witness_a_load_that_voids_a_train :
    let g := stagingOf (.roster 7 1) [0, 0, 0, 71, 0] 9
    let w : Wire := { plain [] with last := true }
    Passes (reloading g) .a 4 0 (framed 4 0 w) ∧ (slotOf (reloading g) .a).staging = some g
    ∧ checkTable { g with gapTimer := 0 } (reloading g) = .taken
    ∧ readRoster 1 g.bytes = some ([{ studentId := 71, caption := [] }], [])
    ∧ (recordOf (reloading g) 7).studentId ≠ 71
    ∧ trainOf (reloading g) .b = some (train 7 (some 2) 9) ∧ trainOf (reloading g) .a = none
    ∧ (entryOf (reloading g) 7).incoming = some { version := filling 1 3, state := .filling }
    ∧ (reloading g).intake.log[logSlot (train 7 (some 2) 9).record] = some (openRecord 0)
    ∧ (openRecord 0).sequence = (train 7 (some 2) 9).record := by
  refine ⟨framed_passes ⟨rfl, rfl, rfl⟩ (Or.inl rfl) (by decide), rfl, by decide +kernel, by decide, ?_, rfl, rfl,
    receiving_incoming 3 9, by decide +kernel, rfl⟩
  show (recordOf stocked 7).studentId ≠ 71
  rw [record_of_stocked]; decide

/-- A staged plan of a page of 256 by 256 with these rows, given by top line and cell height, and these seats, given by row,
left x, width and roster index. -/
def planOfBytes (rows : List (Nat × Nat)) (seats : List (Nat × Nat × Nat × Nat)) : List Byte :=
  [1, 0, 1, 0, 9, 9, 9, BitVec.ofNat 8 rows.length] ++ bytesBE 2 seats.length
    ++ (rows.flatMap fun r =>
      bytesBE 2 r.1 ++ bytesBE 2 r.2 ++ [0, 0, 16, 0, 0, 1, 0, 1, 0] ++ List.replicate 14 0)
    ++ seats.flatMap fun x => [BitVec.ofNat 8 x.1] ++ bytesBE 2 x.2.1 ++ bytesBE 2 x.2.2.1 ++ bytesBE 2 x.2.2.2

/-- The totals are those of the LOADED plans, with none loaded and with one of 64 rows. -/
def crowded : State :=
  { up with tables := { up.tables with
      plans := up.tables.plans.set 0 (some { plan with rows := List.replicate 64 row }), planRows := 64, planSeats := 2 } }

/-- Every cause of R7, each by a plan that passes the checks before it, and a plan that passes all. -/
theorem witness_TableChecksFailInOrder :
    TotalsLaw up ∧ TotalsLaw crowded ∧ TotalsLaw (printing 0)
    ∧ (let check (s : State) (b : List Byte) : ControlOutcome := checkTable (stagingOf (.plan 0) b 0) s
      let one : List Byte := planOfBytes [(0, 64)] [(0, 0, 32, 1023)]
      check (printing 0) one = .pinned ∧ check up one.dropLast = .short ∧ check up (one.take 9) = .short
      ∧ check up (one ++ [0]) = .long ∧ check up (one.set 0 0) = .pageRange
      ∧ check up (planOfBytes [] [(0, 0, 32, 0)]) = .rowRange ∧ check up (planOfBytes [(0, 31)] [(0, 0, 32, 0)]) = .rowRange
      ∧ check up (planOfBytes [(193, 64)] [(0, 0, 32, 0)]) = .rowRange
      ∧ check up (planOfBytes [(0, 64), (63, 64)] [(0, 0, 32, 0)]) = .rowOrder
      ∧ check up (planOfBytes [(0, 64)] []) = .seatRange ∧ check up (planOfBytes [(0, 64)] [(1, 0, 32, 0)]) = .seatRange
      ∧ check up (planOfBytes [(0, 64)] [(0, 225, 32, 0)]) = .seatRange
      ∧ check up (planOfBytes [(0, 64)] [(0, 0, 32, 1024)]) = .seatRange
      ∧ check up (planOfBytes [(0, 64)] [(0, 0, 33, 0), (0, 32, 32, 1)]) = .seatOverlap
      ∧ check up (planOfBytes [(0, 64)] [(0, 0, 32, 7), (0, 32, 32, 7)]) = .duplicateStudent
      ∧ checkTable (stagingOf (.plan 1) one 0) crowded = .planSpace ∧ check crowded one = .taken) := by
  refine ⟨by constructor <;> decide, by constructor <;> decide, by constructor <;> decide, ?_⟩
  decide +kernel

/-- Every cause of R14 for a load of the records 5 and 6, of R19 and of R118, and staged content that passes. -/
theorem witness_the_other_tables_checks :
    (let a : RosterEntry := { studentId := 60, caption := [65] }
      let e : RosterEntry := { studentId := 0, caption := [] }
      let check (s : State) (first : Nat) (b : List Byte) : ControlOutcome :=
        checkTable (stagingOf (.roster first 2) b 0) s
      rosterBytes [a, e] = [0, 0, 0, 60, 1, 65, 0, 0, 0, 0, 0]
      ∧ (∀ b ∈ ([[], [0, 0, 0, 60, 1, 65, 0, 0, 0, 0]] : List (List Byte)), check up 5 b = .short)
      ∧ check up 5 (rosterBytes [a, e] ++ [0]) = .long
      ∧ check up 5 (rosterBytes [a, { e with caption := [31] }]) = .badArgument
      ∧ check up 5 (rosterBytes [a, { e with caption := List.replicate 41 65 }]) = .badArgument
      ∧ check stocked 5 (rosterBytes [a, e]) = .pinned ∧ check stocked 7 (rosterBytes [a, e]) = .duplicateId
      ∧ check up 5 (rosterBytes [a, a]) = .duplicateId ∧ check up 1022 (rosterBytes [a, e]) = .taken)
    ∧ (let check (n : Nat) (full : Bool) (s : State) : ControlOutcome :=
        checkTable { stagingOf (.tone 0) (List.replicate n 1) 0 with overflow := full } s
      check 767 false up = .short ∧ check 768 true up = .long ∧ check 768 false (receiving 1 9) = .busySession
      ∧ check 768 false up = .taken)
    ∧ (let check (b : List Byte) : ControlOutcome := checkTable (stagingOf .glyphs b 0) up
      let entry (code advance : Byte) : List Byte := [code, advance] ++ List.replicate (8 * ((advance.toNat + 7) / 8)) 1
      check [8] = .short ∧ check ([8, 1] ++ (entry 32 9).dropLast) = .short ∧ check ([8, 1] ++ entry 32 9 ++ [0]) = .long
      ∧ check ([8, 1] ++ entry 31 9) = .badArgument ∧ check ([8, 1] ++ entry 32 0) = .badArgument
      ∧ check ([8, 1] ++ entry 32 33) = .badArgument ∧ check ([8, 2] ++ entry 32 9 ++ entry 32 8) = .badArgument
      ∧ check [7, 0] = .badArgument ∧ check ([8, 2] ++ entry 255 32 ++ entry 32 1) = .taken) := by
  refine ⟨?_, ?_, ?_⟩ <;> decide +kernel

/-! ## Witnesses: rendering -/

/-- The printing unit whose next band to render is `k`, with buffer 3 alone free. -/
def renderable (k : Nat) : State :=
  { printing 0 with
    renderer := { up.renderer with nextBand := k, buffers := (Vector.replicate 4 (.complete 20 [])).set 3 .free } }

/-- The first band, which meets the seats, and the last; bands not frozen; a render in progress; no buffer free. -/
theorem witness_RenderStartsInTheLowestFreeBuffer :
    (∀ k ∈ [0, 15], (renderable k).scheduler.impression = some impression
      ∧ planOf (renderable k) impression.plan = some plan ∧ (renderable k).renderer.current = none
      ∧ (renderable k).renderer.nextBand < impression.nextFreeze ∧ 0 < impression.snapshot.bandHeight
      ∧ (renderable k).renderer.nextBand * impression.snapshot.bandHeight < plan.height
      ∧ (renderable k).renderer.buffers[(3 : Fin 4)] = .free
      ∧ ∀ j : Fin 4, j < 3 → (renderable k).renderer.buffers[j] ≠ .free)
    ∧ impression.nextFreeze ≤ (renderable 16).renderer.nextBand
    ∧ (underrun 0 0 .clear).renderer.current = some (render 0)
    ∧ (∀ b : Fin 4, (Vector.replicate 4 (Buffer.complete 20 []))[b] ≠ .free) := by
  refine ⟨fun k hk => ⟨rfl, rfl, rfl, ?_, by decide, ?_, rfl, ?_⟩, by decide, rfl, by decide⟩
  · fin_cases hk <;> decide
  · fin_cases hk <;> decide
  · fin_cases hk <;> decide

/-- A render in progress, held for and not; a column of the seat's box that no other seat has; a stale completion. -/
theorem witness_RenderCompletes :
    (underrun 0 1 (.holding 0 0)).renderer.current = some (render 0)
    ∧ (underrun 0 1 (.holding 0 0)).scheduler.impression = some impression
    ∧ planOf (underrun 0 1 (.holding 0 0)) impression.plan = some plan
    ∧ (underrun 0 1 (.holding 0 0)).press.hold = .holding (render 0).band 0
    ∧ (∀ n, (underrun 0 1 .clear).press.hold ≠ .holding (render 0).band n)
    ∧ (∀ g, (underrun 0 1 .clear).renderer.current = some g → g.work ≠ 8)
    ∧ 8 ≠ (underrun 0 1 .clear).renderer.works := by
  exact ⟨rfl, rfl, rfl, rfl, fun n h => (by cases h), fun g h => (by cases h; decide), by decide⟩

/-- A band whose render has a placement record for the first seat, and a line of its cell. -/
theorem witness_a_placed_seat_in_the_band :
    ∃ s g, s.renderer.current = some g ∧ s.scheduler.impression = some impression
      ∧ (∃ q ∈ g.placements, q.seat = 0 ∧ ∀ q' ∈ g.placements, q'.seat = 0 → q' = q)
      ∧ (entryOf s 5).held = some { version := portrait 0, state := .ready, lock := 1 } :=
  ⟨{ underrun 0 1 .clear with
      renderer := { (underrun 0 1 .clear).renderer with
        current := some { render 0 with placements := [placementOf 0 plan.seats[0] row (portrait 0)] } } }, _, rfl, rfl,
    ⟨_, List.mem_singleton.2 rfl, rfl, fun _ h _ => List.mem_singleton.1 h⟩, congrArg DirEntry.held portrait_entry⟩

/-- A band whose render has a caption record for the first seat and a clamped placement record, its cell partly outside the
stored tile: the marks are handed over once, and the strip's pixels are those of the record. -/
theorem witness_marks_are_handed_over :
    let y : Glyph := { advance := 7, bitmap := List.replicate 8 (List.replicate 7 true) }
    let set : GlyphSet := { height := 8, glyphs := [(65, y)] }
    let q : Placement := { placementOf 0 plan.seats[0] row (portrait 0) with clamped := true }
    let g : Render :=
      { render 4 with
        glyphs := some set, placements := [q]
        captions := [captionOf (some set) 0 plan.seats[0] row (List.replicate 8 65)] }
    let s : State := { underrun 4 0 .clear with
      renderer := { (underrun 4 0 .clear).renderer with current := some g } }
    (∀ p ∈ g.placements, p.margin = false) ∧ (g.captions.map CaptionRecord.seat).Nodup
    ∧ (handOver [{ q with margin := true }] g.captions impression).clampedSet = [0]
    ∧ (handOver [{ q with margin := true }] g.captions impression).margins = 1
    ∧ (handOver [{ q with margin := true }] g.captions impression).truncated = 1
    ∧ (handOver [] g.captions { impression with captionSet := [0] }).truncated = 0
    ∧ s.renderer.current = some g ∧ s.scheduler.impression = some impression := by
  refine ⟨?_, ?_, ?_, ?_, ?_, ?_, rfl, rfl⟩ <;> decide +kernel

/-- At the hold limit and one before it. -/
theorem witness_HoldExpires :
    (∀ n ∈ [249, 250], (underrun 15 250 (.holding 15 n)).press.hold = .holding 15 n
      ∧ (underrun 15 250 (.holding 15 n)).scheduler.impression = some impression
      ∧ (underrun 15 250 (.holding 15 n)).renderer.current = some (render 15) ∧ (render 15).band = 15)
    ∧ (underrun 15 250 (.holding 15 250)).tables.settings.holdLimit = 250
    ∧ ∀ k n, up.press.hold ≠ .holding k n :=
  ⟨fun n _ => ⟨rfl, rfl, rfl, rfl⟩, rfl, fun _ _ h => by cases h⟩

/-! ## Witnesses: the return direction, notices and calls -/

def reply : Reply := { tag := 7, poisoned := false, payload := [0, 1, 0, 0] }

/-- Unit 4 with these ports. -/
def ports (a b : Port) : State := { up with ports := ⟨a, b⟩ }

def upPort : Port := { Port.reset with state := .up }

/-- A reply; a call, with the other link open, and with it closed and calls waiting there; a notice; nothing; an
exchange; a quiet link. -/
theorem witness_ArbiterStartsReplyThenCallThenNotice :
    NoneHeldBack (ports { upPort with reply := some reply, calls := [callFor 0] } upPort)
    ∧ (let s := ports { upPort with calls := [callFor 0] } upPort;
        NoneHeldBack s ∧ (portOf s .b).state = .up ∧ (portOf s .b).quiet = false)
    ∧ (let s := ports { upPort with calls := List.replicate 64 (callFor 0) }
          { Port.reset with calls := [callFor 1] };
        NoneHeldBack s ∧ (portOf s .b).state ≠ .up ∧ (portOf s .b).calls = [callFor 1]
        ∧ (List.replicate 63 (callFor 0)).length < 64)
    ∧ (portOf (ports { upPort with notice := some { kinds := 1, mark := 0 } } upPort) .a).notice =
        some { kinds := 1, mark := 0 }
    ∧ (portOf (inExchange (exchanging 0)) .a).exchange = some (exchanging 0)
    ∧ (portOf (ports { upPort with quiet := true } upPort) .a).quiet = true := by
  refine ⟨fun m => by cases m <;> rfl, ⟨fun m => by cases m <;> rfl, rfl, rfl⟩,
    ⟨fun m => by cases m <;> rfl, by decide, rfl, by decide⟩, rfl, rfl, rfl⟩

/-- A control that waits, one behind it, and the one let through. -/
theorem witness_ControlWaitsBehindAReply :
    (let s := ports { upPort with reply := some reply } upPort;
      NoneHeldBack s ∧ Passes s .a 3 1 (control .reportStatus []) ∧ (portOf s .a).reply = some reply)
    ∧ (let s := ports { upPort with reply := some reply, heldBack := [.reportStatus .a (control .reportStatus [])] } upPort;
      (portOf s .a).state = .up ∧ (portOf s .a).quiet = false ∧ (portOf s .a).reply = some reply
      ∧ (portOf s .a).heldBack = [parcelCommand .a 3 1 (control .reportStatus [])] ∧ (portOf s .b).heldBack = []) :=
  ⟨⟨fun m => by cases m <;> rfl, framed_passes ⟨rfl, rfl, rfl⟩ (Or.inl rfl) (by decide), rfl⟩, rfl, rfl, rfl, rfl, rfl⟩

/-- A counter at 0 and at its end; a kind latched, clear and not enabled, clear and enabled; the report link open, and closed with the other open. -/
theorem witness_CountersAndKindsLatch :
    (receiveCount (portOf up .a).counters .stray = 0
      ∧ receiveCount { (portOf up .a).counters with stray := 65535 } .stray = 65535)
    ∧ holdsKind (256 : BitVec 9) .linkErrors = true ∧ holdsKind (255 : BitVec 9) .linkErrors = false
    ∧ holdsKind (1 : BitVec 9) .orderDone = true ∧ holdsKind (0 : BitVec 9) .orderDone = false
    ∧ ((portOf up up.tables.settings.reportLink).state = .up ∧ (portOf up up.tables.settings.reportLink).quiet = false)
    ∧ (let s := ports Port.reset upPort;
        (portOf s s.tables.settings.reportLink).state ≠ .up
        ∧ (portOf s s.tables.settings.reportLink.other).state = .up
        ∧ (portOf s s.tables.settings.reportLink.other).quiet = false) := by decide

/-- The printing unit about to freeze band 0, both its seats undecided: one whose student has a READY version and one
whose student has none. -/
def freezing : State :=
  { printing 0 with
    scheduler := { (printing 0).scheduler with
      queue := [{ order 1 .active with
        decisions := [{ decision := .undecided, lockMark := false }, { decision := .undecided, lockMark := false }] }]
      impression := some { impression with nextFreeze := 0 } } }

theorem witness_FreezeDecidesTheSeatsOfItsBand :
    (∃ c o, freezing.scheduler.impression = some c ∧ planOf freezing c.plan = some plan
      ∧ freezing.scheduler.queue = [o] ∧ c.nextFreeze = 0
      ∧ (∀ n < 2, o.decisions[n]? = some { decision := .undecided, lockMark := false })
      ∧ ∀ n < 2, ∃ ln, o.seatLines[n]? = some ln ∧ ln.firstBand = 0)
    ∧ (entryOf freezing 5).held = some { version := portrait 0, state := .ready, lock := 1 }
    ∧ (recordOf freezing 5).withheld = false
    ∧ (∀ m x, plan.seats[m]? = some x → x.index = 5 → m = 0) := by
  refine ⟨⟨_, _, rfl, rfl, rfl, rfl, by decide, fun n hn => ?_⟩, congrArg DirEntry.held portrait_entry, rfl, ?_⟩
  · match n with
    | 0 => exact ⟨_, rfl, rfl⟩
    | 1 => exact ⟨_, rfl, rfl⟩
    | n + 2 => omega
  · intro m x h hx
    match m with
    | 0 => rfl
    | 1 => cases h; exact absurd hx (by decide)
    | m + 2 => cases h

/-- The freezing unit at this line, its second seat's call line at this one, its next band to freeze at the page's end when
`done`. -/
def calling (line call : LineValue) (done : Bool) : State :=
  { freezing with
    press := { freezing.press with lineCount := line }
    scheduler := { freezing.scheduler with
      queue := [{ order 1 .active with
        decisions := [{ decision := .undecided, lockMark := false }, { decision := .undecided, lockMark := false }]
        seatLines := [lines 0, { lines 0 with callLine := some call }] }]
      impression := some { impression with nextFreeze := if done then 16 else 0 } } }

/-- The freeze line of band 0, and a later line at which it has been reached; a call line met, passed, and one ahead; a seat
whose call is wanted and one whose student has a READY version; a line sync within the impression. -/
theorem witness_LinesReachedTakeFreezesAndCalls :
    (LineDue (buffered 0 0) impression plan 0 ∧ Emits (buffered 0 0) impression impression 0 ∧ 0 + 1 ≠ plan.height)
    ∧ ((1000 + BitVec.ofNat 48 (0 * 16) - BitVec.ofNat 48 256 : LineValue) = (calling 744 0 false).press.lineCount
      ∧ 2 ^ 47 ≤ ((744 : LineValue) - (calling 745 0 false).press.lineCount).toNat)
    ∧ (∃ c o n g, (calling 500 500 true).scheduler.impression = some c ∧ (calling 500 500 true).scheduler.queue = [o]
      ∧ c.first = true ∧ plan.seats[1]? = some n ∧ o.seatLines[1]? = some g ∧ g.callTaken = false
      ∧ g.callLine = some (calling 500 500 true).press.lineCount
      ∧ o.decisions[1]? = some { decision := .undecided, lockMark := false } ∧ n.index = 6)
    ∧ (2 ^ 47 ≤ ((500 : LineValue) - 501).toNat ∧ ¬2 ^ 47 ≤ ((501 : LineValue) - 500).toNat)
    ∧ (callWanted 1 1 6 (calling 500 500 true) = true ∧ callWanted 1 0 5 (calling 500 500 true) = false)
    ∧ (calling 500 500 true).seats.calls = [] ∧ (offerLine (calling 500 500 true)).seats.calls.map Call.due = [744] := by
  refine ⟨⟨?_, Or.inr (Or.inl ⟨rfl, rfl, fun h => h 3 [[grey]] rfl, rfl⟩), by decide⟩, by decide,
    ⟨_, _, _, _, rfl, rfl, rfl, rfl, rfl, rfl, rfl, rfl, rfl⟩, by decide, by decide +kernel, rfl, by decide +kernel⟩
  exact ⟨rfl, rfl, (printing_line_due 0 (by decide)).line, by decide⟩

/-- A Call List with one place left, and a full one. -/
theorem witness_CallJoinsTheListByItsDueLine :
    let c : Call := { tag := 1, index := 5, studentId := 50, due := 744, mark := 0 }
    (List.replicate 63 c).length < 64 ∧ (portOf up (routeLink up.tables.settings.callLink up)).calls.length < 64
    ∧ ¬(List.replicate 64 c).length < 64
    ∧ (List.replicate 63 c).Pairwise (fun x y => (x.due - up.press.lineCount).toNat ≤ (y.due - up.press.lineCount).toNat) := by
  refine ⟨by decide, by decide, by decide, List.pairwise_replicate.2 (Or.inr (le_refl _))⟩

/-! ## Witnesses: controls -/

theorem up_asked {c : Control} (payload : List Byte) (hl : payload.length = controlLength c)
    (h4 : controlLength c ≤ 4096 := by decide) : Asked up .a c (control c payload) :=
  control_asked rfl rfl hl h4

theorem stocked_asked {c : Control} (payload : List Byte) (hl : payload.length = controlLength c)
    (h4 : controlLength c ≤ 4096 := by decide) : Asked stocked .a c (control c payload) :=
  control_asked rfl rfl hl h4

theorem printing_asked {c : Control} (y : Nat) (payload : List Byte) (hl : payload.length = controlLength c)
    (h4 : controlLength c ≤ 4096 := by decide) : Asked (printing y) .a c (control c payload) :=
  control_asked rfl rfl hl h4

theorem up_holds_nothing_back : NoneHeldBack up := fun m => by cases m <;> rfl

/-- A control at the hall address that may not stand there and one that may; a payload one byte short and one byte long;
codes 0 and 29. -/
theorem witness_ControlTestsRefuse :
    NoneHeldBack up
    ∧ (let w := framed 3 9 { plain [0, 1, 0, 1] with address := 15 };
        Reaches up .a (controlCode .setNoticeEnables) w ∧ w.address = 15
        ∧ Control.setNoticeEnables ∉ [Control.setTime, .unitReset, .inhibitAttention, .restoreAttention, .withhold, .release])
    ∧ (let w := framed 3 8 { plain [0, 0, 0] with address := 15 };
        Reaches up .a (controlCode .setTime) w ∧ w.payload.length < controlLength .setTime)
    ∧ (let w := control .reportStatus [0];
        Reaches up .a (controlCode .reportStatus) w ∧ w.address ≠ 15 ∧ controlLength .reportStatus < w.payload.length)
    ∧ (∀ code ∈ ([0, 29] : List Byte), Reaches up .a code (framed 3 code (plain [])) ∧ (code.toNat = 0 ∨ 28 < code.toNat)) := by
  refine ⟨up_holds_nothing_back, ⟨⟨framed_passes ⟨rfl, rfl, rfl⟩ (Or.inr rfl) (by decide), rfl⟩, rfl, by decide⟩,
    ⟨⟨framed_passes ⟨rfl, rfl, rfl⟩ (Or.inr rfl) (by decide), rfl⟩, by decide⟩,
    ⟨⟨framed_passes ⟨rfl, rfl, rfl⟩ (Or.inl rfl) (by decide), rfl⟩, by decide, by decide⟩, fun code hc => ?_⟩
  refine ⟨⟨framed_passes ⟨rfl, rfl, rfl⟩ (Or.inl rfl) (by decide), rfl⟩, ?_⟩
  fin_cases hc <;> decide

def lastControl : LastControl := { code := 12, tag := 1, link := .b, outcome := .badArgument }

theorem witness_ReportsAnswer :
    Asked up .a .reportStatus (control .reportStatus []) ∧ up.control.last = none
    ∧ Asked { up with control.last := some lastControl } .a .reportLastControl (control .reportLastControl []) :=
  ⟨up_asked [] rfl, rfl, control_asked rfl rfl rfl⟩

theorem witness_ResetAndQuietControlsAct :
    (Asked up .a .unitReset (control .unitReset []) ∧ (portOf up .a).state = .up ∧ (portOf up .b).state = .up)
    ∧ NoneHeldBack up ∧ Asked up .a .quietOther (control .quietOther [])
    ∧ (let s := ports { upPort with quiet := true } upPort;
        NoneHeldBack s ∧ Asked s .a .unquietOther (control .unquietOther []) ∧ (portOf s .b).state = .up
        ∧ (portOf s .a).quiet = true) := by
  refine ⟨⟨up_asked [] rfl, rfl, rfl⟩, up_holds_nothing_back, up_asked [] rfl, fun m => by cases m <;> rfl, ?_, rfl, rfl⟩
  exact ⟨⟨framed_passes ⟨rfl, rfl, rfl⟩ (Or.inl rfl) (by decide), rfl⟩, fun h => absurd h (by decide), rfl⟩

/-- Kind sets of 511 and 512, and clear flags of 0, 1 and 2. -/
theorem witness_NoticeAndTimeControlsAct :
    Asked up .a .inhibitAttention (control .inhibitAttention []) ∧ Asked up .a .restoreAttention (control .restoreAttention [])
    ∧ Asked up .a .setTime (control .setTime [255, 255, 255, 255])
    ∧ (Asked up .a .setNoticeEnables (control .setNoticeEnables [1, 255, 1, 255]) ∧ be16 [1, 255, 1, 255] 0 = 511
      ∧ be16 [1, 255, 1, 255] 2 = 511)
    ∧ (Asked up .a .setNoticeEnables (control .setNoticeEnables [2, 0, 0, 0]) ∧ be16 [2, 0, 0, 0] 0 = 512)
    ∧ (Asked up .a .setNoticeEnables (control .setNoticeEnables [0, 0, 2, 0]) ∧ be16 [0, 0, 2, 0] 2 = 512)
    ∧ Asked up .a .readNotices (control .readNotices [])
    ∧ ∀ f ∈ ([0, 1, 2] : List Byte), Asked up .a .readCounters (control .readCounters [f]) ∧ byteAt [f] 0 = f.toNat :=
  ⟨up_asked [] rfl, up_asked [] rfl, up_asked _ rfl, ⟨up_asked _ rfl, by decide, by decide⟩,
    ⟨up_asked _ rfl, by decide⟩, ⟨up_asked _ rfl, by decide⟩, up_asked [] rfl, fun f _ => ⟨up_asked _ rfl, rfl⟩⟩

/-- A settings record at the ends of its ranges, and one with a low-water past its range. -/
theorem witness_SettingsReplaceTheRecord :
    let low : List Byte := [16, 0, 16, 0, 0, 0, 0, 1, 0, 0, 0, 0, 0, 0]
    let high : List Byte := [64, 16, 0, 255, 255, 16, 0, 100, 250, 8, 0, 1, 1, 1]
    let past : List Byte := [64, 16, 0, 255, 255, 16, 0, 100, 250, 8, 1, 1, 1, 1]
    (∀ p ∈ [low, high], Asked (receiving 1 99) .a .settings (control .settings p)
      ∧ (byteAt p 0 = 16 ∨ byteAt p 0 = 32 ∨ byteAt p 0 = 64) ∧ 16 ≤ be16 p 1 ∧ be16 p 1 ≤ 4096 ∧ be16 p 5 ≤ 4096
      ∧ 1 ≤ byteAt p 7 ∧ byteAt p 7 ≤ 100 ∧ byteAt p 8 ≤ 250 ∧ be16 p 9 ≤ 2048 ∧ byteAt p 11 ≤ 1 ∧ byteAt p 12 ≤ 1
      ∧ byteAt p 13 ≤ 1)
    ∧ Asked (receiving 1 99) .a .settings (control .settings past) ∧ ¬be16 past 9 ≤ 2048
    ∧ trainOf (receiving 1 99) .b = some (train 7 (some 0) 99)
    ∧ (underrun 15 250 (.holding 15 249)).press.hold = .holding 15 249 := by
  refine ⟨fun p hp => ⟨control_asked rfl rfl ?_, ?_⟩, control_asked rfl rfl rfl, by decide, rfl, rfl⟩ <;>
    fin_cases hp <;> decide

/-- Tag 0, plan id 8 and no copies; a full queue; a tag taken; an empty plan slot; an order taken behind the printing
order, and a rush order behind a head and a rush order. -/
theorem witness_OrdersJoinTheQueue :
    (∀ p ∈ ([[0, 0, 0, 1], [0, 9, 8, 1], [0, 9, 0, 0], [0, 1, 0, 255], [0, 9, 7, 255], [0, 9, 0, 255]] : List (List Byte)),
      Asked (printing 0) .a .queueOrder (control .queueOrder p) ∧ Asked (printing 0) .a .rushOrder (control .rushOrder p))
    ∧ (∃ o ∈ (printing 0).scheduler.queue, o.tag = BitVec.ofNat 16 (be16 [0, 1, 0, 255] 0))
    ∧ (planOf (printing 0) 7 = none ∧ byteAt [0, 9, 7, 255] 2 = (7 : Fin 8).val)
    ∧ (planOf (printing 0) 0 = some plan ∧ (∀ x ∈ plan.seats, (recordOf (printing 0) x.index).listed = true)
      ∧ (printing 0).scheduler.impression ≠ none ∧ (printing 0).scheduler.queue = [order 1 .active]
      ∧ (printing 0).scheduler.queue.length < 16)
    ∧ (let s : State := { printing 0 with scheduler.queue := List.replicate 16 (order 1 .active) };
        Asked s .a .queueOrder (control .queueOrder [0, 9, 0, 255]) ∧ 16 ≤ s.scheduler.queue.length)
    ∧ (let s : State := { printing 0 with tables.roster := up.tables.roster };
        ∃ x ∈ plan.seats, (recordOf s x.index).listed = false) := by
  refine ⟨fun p hp => ⟨printing_asked 0 p ?_, printing_asked 0 p ?_⟩, ⟨_, List.mem_singleton.2 rfl, by decide⟩,
    ⟨rfl, by decide⟩, ⟨rfl, ?_, by decide, rfl, by decide⟩, ⟨control_asked rfl rfl rfl, by decide⟩,
    ⟨_, List.mem_cons_self, by decide +kernel⟩⟩
  · fin_cases hp <;> rfl
  · fin_cases hp <;> rfl
  · intro x hx
    fin_cases hx <;> decide +kernel

theorem witness_OrderOnAnIdleUnitBegins :
    Asked stocked .a .queueOrder (control .queueOrder [255, 255, 0, 255])
    ∧ Asked stocked .a .rushOrder (control .rushOrder [255, 255, 0, 255])
    ∧ stocked.scheduler.impression = none ∧ stocked.scheduler.queue = [] ∧ be16 [255, 255, 0, 255] 0 ≠ 0
    ∧ byteAt [255, 255, 0, 255] 2 = (0 : Fin 8).val ∧ byteAt [255, 255, 0, 255] 3 ≠ 0 ∧ planOf stocked 0 = some plan
    ∧ (∀ x ∈ plan.seats, (recordOf stocked x.index).listed = true) ∧ 0 < plan.height
    ∧ 0 < stocked.tables.settings.bandHeight := by
  refine ⟨stocked_asked _ rfl, stocked_asked _ rfl, rfl, rfl, by decide, by decide, by decide, rfl, ?_, by decide, by decide⟩
  intro x hx
  fin_cases hx <;> decide +kernel

/-- Tag 0, a tag that no order holds, and orders of every state. -/
theorem witness_WithdrawnOrderLeavesOrEnds :
    Asked (ending [order 1 .active]) .a .withdrawOrder (control .withdrawOrder [0, 0])
    ∧ Asked (ending [order 1 .active]) .a .withdrawOrder (control .withdrawOrder [0, 9])
    ∧ (∀ o ∈ (ending [order 1 .active]).scheduler.queue, o.tag ≠ 9) ∧ (plan.seats.map Seat.index).Nodup
    ∧ ∀ st ∈ [OrderState.active, .ending, .queued, .suspended],
      let s := ending [order 1 .active, order 2 st]
      Asked s .a .withdrawOrder (control .withdrawOrder [0, 2]) ∧ order 2 st ∈ s.scheduler.queue
      ∧ (order 2 st).tag = BitVec.ofNat 16 (be16 [0, 2] 0) ∧ (order 2 st).state = st
      ∧ (∀ x ∈ s.scheduler.queue, x.tag = 2 → x = order 2 st) ∧ planOf s (order 2 st).plan = some plan := by
  refine ⟨control_asked rfl rfl rfl, control_asked rfl rfl rfl, by decide, by decide, fun st hs =>
    ⟨control_asked rfl rfl rfl, List.mem_cons_of_mem _ List.mem_cons_self, rfl, rfl, ?_, rfl⟩⟩
  intro x hx h2
  rcases List.mem_cons.1 hx with rfl | h
  · exact absurd h2 (by decide)
  · exact List.mem_singleton.1 h

/-- Roster indices 1023 and 1024, a listed one and an empty one; counts of 0, 1, 4, 5, 8 and 9. -/
theorem witness_ReadsReturnTheirData :
    Asked stocked .a .readQueue (control .readQueue [])
    ∧ (Asked stocked .a .readDirectory (control .readDirectory [4, 0]) ∧ 1024 ≤ be16 [4, 0] 0)
    ∧ (Asked stocked .a .readDirectory (control .readDirectory [3, 255]) ∧ be16 [3, 255] 0 = (1023 : RosterIndex).val
      ∧ (recordOf stocked 1023).listed = false)
    ∧ (Asked stocked .a .readDirectory (control .readDirectory [0, 6]) ∧ be16 [0, 6] 0 = (6 : RosterIndex).val
      ∧ (recordOf stocked 6).listed = true)
    ∧ (∀ n ∈ ([0, 1, 4, 5, 8, 9] : List Byte),
      Asked stocked .a .readDeliveryLog (control .readDeliveryLog [0, 0, 0, 0, n])
      ∧ Asked stocked .a .readPageLog (control .readPageLog [0, 0, 0, 0, n]) ∧ byteAt [0, 0, 0, 0, n] 4 = n.toNat)
    ∧ (∀ r, ¬(stocked.intake.log[Fin.ofNat 256 0] = some r ∧ r.sequence = 0))
    ∧ (∀ r, ¬(stocked.scheduler.log[Fin.ofNat 64 0] = some r ∧ r.sequence = 0)) := by
  refine ⟨stocked_asked [] rfl, ⟨stocked_asked _ rfl, by decide⟩, ⟨stocked_asked _ rfl, by decide, ?_⟩,
    ⟨stocked_asked _ rfl, by decide, ?_⟩, fun n _ => ⟨stocked_asked _ rfl, stocked_asked _ rfl, rfl⟩,
    fun r h => (by cases h.1), fun r h => (by cases h.1)⟩
  · rw [record_of_stocked]; decide
  · rw [record_of_stocked]; decide

/-- Logs that hold their record of number 256 or 64 in slot 0, and neither the one after nor the one before it there. -/
theorem witness_logged_records :
    let d := openRecord 256
    let p : PageRecord :=
      { sequence := 64, tag := 1, plan := 0, copy := 1, start := 0, endLine := 255, placed := 0, absent := 0, withheld := 0
        late := 0, clamped := 0, margins := 0, truncated := 0, missing := 0, filled := 0, heldBands := 0
        withholdPending := false, mark := 0 }
    let s : State :=
      { up with
        intake := { up.intake with log := up.intake.log.set 0 (some d) }
        scheduler := { up.scheduler with log := up.scheduler.log.set 0 (some p) } }
    (s.intake.log[Fin.ofNat 256 (256 : BitVec 32).toNat] = some d ∧ d.sequence = 256)
    ∧ s.intake.log[Fin.ofNat 256 (257 : BitVec 32).toNat] = none
    ∧ (s.intake.log[Fin.ofNat 256 (0 : BitVec 32).toNat] = some d ∧ d.sequence ≠ 0)
    ∧ (s.scheduler.log[Fin.ofNat 64 (64 : BitVec 32).toNat] = some p ∧ p.sequence = 64)
    ∧ s.scheduler.log[Fin.ofNat 64 (65 : BitVec 32).toNat] = none := by
  decide +kernel

/-- A full queue, full replies of records, and one of each layout read back. -/
theorem witness_RepliesAndParcelsAreLaidOut :
    (printing 0).scheduler.queue.length ≤ 16 ∧ be48 (queueData (printing 0)) 4 = 1000
    ∧ byteAt (queueData (printing 0)) 19 = 1 ∧ be16 (queueData (printing 0)) 24 = 1
    ∧ (receiving 1 9).scheduler.impression = none
    ∧ (entryOf (receiving 1 9) 7).held = none
    ∧ (entryOf (receiving 1 9) 7).incoming = some { version := filling 1 1, state := .filling }
    ∧ byteAt (directoryData (receiving 1 9) 7) 152 = 3 ∧ be16 (directoryData (receiving 1 9) 7) 178 = 1
    ∧ byteAt (directoryData stocked 5) 8 = 1
    ∧ (callParcel 4 (callFor 3)).drop 32 = [3, 0] ++ ((callParcel 4 (callFor 3)).drop 34)
    ∧ exchangeParcel 4 (.answer true true true 1 100) =
        [8, 0x40, 0, 0, 0, 0, 0, 8, 1, 30, 1, 0, 0, 100, 0, 0] ++ (exchangeParcel 4 (.answer true true true 1 100)).drop 16 := by
  refine ⟨by decide, ?_, ?_, ?_, rfl, ?_, receiving_incoming 1 9, ?_, ?_, ?_, ?_, ?_⟩
  · decide +kernel
  · decide +kernel
  · decide +kernel
  · rw [entry_of_receiving]; rfl
  all_goals decide +kernel

/-- An index past the last, an index with a locked held version that the printing order has placed, and one with an
unlocked held version. -/
theorem witness_WithholdAndReleaseAct :
    (∀ c ∈ [Control.withhold, .release], ∀ p ∈ ([[4, 0], [0, 5], [3, 255]] : List (List Byte)),
      Asked (printing 0) .a c (control c p))
    ∧ 1024 ≤ be16 [4, 0] 0 ∧ be16 [3, 255] 0 = (1023 : RosterIndex).val ∧ be16 [0, 5] 0 = (5 : RosterIndex).val
    ∧ (entryOf (printing 0) 5).held = some { version := portrait 0, state := .ready, lock := 1 }
    ∧ (printing 0).scheduler.impression = some impression ∧ (printing 0).scheduler.queue = [order 1 .active]
    ∧ planOf (printing 0) (order 1 .active).plan = some plan
    ∧ (∃ x, plan.seats[0]? = some x ∧ x.index = 5)
    ∧ (∀ m y, plan.seats[m]? = some y → y.index = 5 → m = 0)
    ∧ (order 1 .active).decisions[0]? = some { decision := .placed, lockMark := true }
    ∧ (Asked (receiving 1 9) .a .withhold (control .withhold [0, 7])
      ∧ trainOf (receiving 1 9) .b = some (train 7 (some 0) 9)
      ∧ (entryOf (receiving 1 9) 7).incoming = some { version := filling 1 1, state := .filling }) := by
  refine ⟨fun c hc p hp => control_asked rfl rfl ?_ ?_, by decide, by decide, by decide,
    congrArg DirEntry.held portrait_entry, rfl, rfl, rfl, ⟨_, rfl, rfl⟩, ?_, rfl,
    control_asked rfl rfl rfl, rfl, receiving_incoming 1 9⟩
  · fin_cases hc <;> fin_cases hp <;> rfl
  · fin_cases hc <;> decide
  · intro m x h hx
    match m with
    | 0 => rfl
    | 1 => cases h; exact absurd hx (by decide)
    | m + 2 => cases h

/-- A locked held version, none, and an open train, its record in the log. -/
theorem witness_DropAndPurgeFreeVersions :
    (∀ p ∈ ([[4, 0], [0, 5], [0, 7], [3, 255]] : List (List Byte)),
      Asked (receiving 1 9) .a .dropTile (control .dropTile p))
    ∧ Asked (receiving 1 9) .a .purgeStore (control .purgeStore [])
    ∧ (entryOf (receiving 1 9) 5).held = some { version := portrait 0, state := .ready, lock := 1 }
    ∧ (∀ h : Held, (entryOf (receiving 1 9) 7).held = some h → h.lock = 0)
    ∧ trainOf (receiving 1 9) .b = some (train 7 (some 0) 9)
    ∧ (entryOf (receiving 1 9) 7).incoming = some { version := filling 1 1, state := .filling }
    ∧ (let s : State := reloading (stagingOf .glyphs [] 9)
      Asked s .a .dropTile (control .dropTile [0, 7]) ∧ Asked s .a .purgeStore (control .purgeStore [])
      ∧ s.intake.log[logSlot (train 7 (some 2) 9).record] = some (openRecord 0)
      ∧ (openRecord 0).sequence = (train 7 (some 2) 9).record) := by
  refine ⟨fun p hp => control_asked rfl rfl ?_, control_asked rfl rfl rfl, ?_, fun h e => ?_, rfl,
    receiving_incoming 1 9, control_asked rfl rfl rfl, control_asked rfl rfl rfl, by decide +kernel, rfl⟩
  · fin_cases hp <;> rfl
  · rw [entry_of_receiving]; decide
  · rw [entry_of_receiving] at e; cases e

/-- Plan ids 7 and 8, a pinned plan and one that is not. -/
theorem witness_ClearPlanEmptiesASlot :
    (∀ n ∈ ([0, 7, 8] : List Byte), Asked (printing 0) .a .clearPlan (control .clearPlan [n])
      ∧ Asked stocked .a .clearPlan (control .clearPlan [n]) ∧ byteAt [n] 0 = n.toNat)
    ∧ (∃ o ∈ (printing 0).scheduler.queue, o.plan = 0) ∧ (∀ o ∈ (printing 0).scheduler.queue, o.plan ≠ 7)
    ∧ planOf (printing 0) 7 = none ∧ (∀ o ∈ stocked.scheduler.queue, o.plan ≠ 0) ∧ planOf stocked 0 = some plan :=
  ⟨fun n _ => ⟨printing_asked 0 _ rfl, stocked_asked _ rfl, rfl⟩, ⟨_, List.mem_singleton.2 rfl, rfl⟩, by decide, rfl,
    fun _ h => (by cases h), rfl⟩

/-- Plan ids 7 and 8, roster ranges of 1, 1024 and 1025 records, sessions 0, 15 and 16, one of them busy. -/
theorem witness_LoadsOpenStaging :
    (∀ n ∈ ([0, 7, 8, 15, 16] : List Byte), Asked (receiving 1 9) .a .loadPlan (control .loadPlan [n])
      ∧ Asked (receiving 1 9) .a .loadTone (control .loadTone [n]))
    ∧ (∀ p ∈ ([[3, 255, 0, 1], [0, 0, 4, 0], [0, 0, 4, 1], [0, 0, 0, 0], [4, 0, 0, 1]] : List (List Byte)),
      Asked (receiving 1 9) .a .loadRoster (control .loadRoster p))
    ∧ Asked (receiving 1 9) .a .loadGlyphs (control .loadGlyphs [])
    ∧ (∀ o ∈ (receiving 1 9).scheduler.queue, o.plan ≠ 7) ∧ (∃ o ∈ (printing 0).scheduler.queue, o.plan = 0)
    ∧ (trainOf (receiving 1 9) .b = some (train 7 (some 0) 9)
      ∧ (entryOf (receiving 1 9) 7).incoming = some { version := filling 1 1, state := .filling }
      ∧ (filling 1 1).session = 0)
    ∧ sessionBusy (receiving 1 9) 15 = false := by
  refine ⟨fun n _ => ⟨control_asked rfl rfl rfl, control_asked rfl rfl rfl⟩, fun p hp => control_asked rfl rfl ?_,
    control_asked rfl rfl rfl, fun _ h => (by cases h), ⟨_, List.mem_singleton.2 rfl, rfl⟩,
    ⟨rfl, receiving_incoming 1 9, rfl⟩, by decide +kernel⟩
  fin_cases hp <;> rfl

/-! ## Witnesses: placement and captions -/

/-- The smallest head and the largest, against the largest target and the smallest. -/
theorem witness_RawScaleStepIsTheNearestInteger :
    ∀ h ∈ [(16, 2047), (1280, 16)], 16 ≤ h.1 ∧ h.1 ≤ 1280 ∧ 16 ≤ h.2 ∧ h.2 ≤ 2047 := by decide

/-- A sample point outside the stored tile on each side, and one at its last pixel, weighted in full sixteenths. -/
theorem witness_PlacedPixelIsAWeightedMean :
    (0 < (portrait 0).width ∧ 0 < (portrait 0).height)
    ∧ ((-1 : Int) < 0 ∧ ((portrait 0).width : Int) * 4096 ≤ 64 * 4096)
    ∧ (((63 : Nat) : Int) * 4096 + (15 : Nat) * 256 ≤ 64 * 4096 - 1
      ∧ (64 * 4096 - 1 : Int) < ((63 : Nat) : Int) * 4096 + ((15 : Nat) + 1) * 256 ∧ 15 ≤ 15)
    ∧ (portrait 0).centreColumn < (portrait 0).width ∧ (portrait 0).eyeRow < (portrait 0).height
    ∧ ([7, 3][65535 / 65536]? = some 7 ∧ [7, 3][65536 / 65536]? = some 3 ∧ [7, 3].length ≤ 131072 / 65536) := by decide

/-- One glyph, for code 65, and a strip of 60 columns, which seven of eight such glyphs fill; codes with a glyph of their
own, with that of 127, with that of 32 and with none; and an ink column at the end of a glyph. -/
theorem witness_CaptionIsResolvedCutAndSet :
    let y : Glyph := { advance := 7, bitmap := [List.replicate 7 true] }
    let z : Glyph := { advance := 3, bitmap := [] }
    let set (codes : List (Nat × Glyph)) : GlyphSet := { height := 8, glyphs := codes }
    (resolveText (some (set [(65, y)])) (List.replicate 8 65) = some (List.replicate 8 (y, false))
      ∧ resolveText (some (set [(65, y)])) [65, 66] = none
      ∧ 2 * row.sideMargin < plan.seats[0].width)
    ∧ (∀ codes ∈ ([[(65, y), (127, z), (32, z)], [(127, z), (32, y)], [(32, y)], [(66, y)]] : List (List (Nat × Glyph))),
      (codes.map Prod.fst).Nodup)
    ∧ (resolveCode (some (set [(65, y), (127, z)])) 65 = some (y, false)
      ∧ resolveCode (some (set [(127, z), (32, y)])) 65 = some (z, true)
      ∧ resolveCode (some (set [(32, y)])) 65 = some (y, true) ∧ resolveCode (some (set [(66, y)])) 65 = none)
    ∧ (let g := set [(65, y)]
      let c := captionOf (some g) 0 plan.seats[0] row (List.replicate 8 65)
      let r : Row := { row with ink := { r := 1, g := 1, b := 1 } }
      c.setCount = 7 ∧ c.setCount ≤ c.resolved.length ∧ c.topLine = 4 ∧ c.leftStart = 4
      ∧ captionPixel (some g) r c 10 4 = r.ink ∧ captionPixel (some g) r c 11 4 = r.paper
      ∧ captionPixel (some g) r c 58 4 = r.ink ∧ captionPixel (some g) r c 59 4 = r.paper) := by
  decide +kernel


/-! ## Steps, with results read from the manual -/

/-- With no impression, a line sync is answered with 4096 white pixels and L rises (R134). -/
theorem test_line_sync_at_reset :
    (after .lineSync State.reset).press.pixelBus = List.replicate 4096 { r := 255, g := 255, b := 255 }
    ∧ (after .lineSync State.reset).press.lineCount = 1 := ⟨rfl, rfl⟩

/-- The reply to REPORT STATUS, and its parcel: kind 5, unit 4, RESPONSE, the control's tag, four bytes (sections 12.1,
12.5). -/
theorem test_report_status_reply :
    (portOf (after (.reportStatus .a (control .reportStatus [])) up) .a).reply =
      some { tag := 0x0102, poisoned := false, payload := [0, 1, 0, 0] } := by decide +kernel

theorem test_reply_parcel :
    (replyParcel 4 { tag := 0x0102, poisoned := true, payload := [0, 1, 0, 0] }).take 12 =
      [0x05, 0x46, 0, 0, 0x01, 0x02, 0, 4, 0, 1, 0, 0] := by decide

/-- A tile head of 64 by 64 takes the lowest-numbered free block. -/
theorem test_tile_head :
    let t := after (.tileHead .a 0 (framed 1 0 (plain (headOf 60 0 64 64 30 32 20)))) stocked
    (entryOf t 6).incoming.map (fun v => v.version.blocks) = some [1] ∧ t.store.freeCount = 8190 := by decide +kernel

/-- Row 1 of the train in block 1 begins at byte 192 of the block, each channel through its table (R28, R52). -/
theorem test_tile_body :
    let s := receiving 1 9
    let tones : ToneSet :=
      { red := Vector.replicate 256 0x55, green := Vector.replicate 256 0, blue := Vector.replicate 256 0 }
    let s1 : State := { s with tables.tones := s.tables.tones.set 0 (some tones) }
    let t := after (.tileBody .b 0 { plain (bodyOf 1 192) with nocheck := true, lengthField := 194 }) s1
    readByte t.store.bytes (65536 + 192) = 0x55 ∧ readByte t.store.bytes (65536 + 193) = 0
    ∧ readByte t.store.bytes (65536 + 191) = 0 := by decide +kernel

/-- Step 1: 14 blocks are reserved, VA and VD are freed, and the walk stops at 51. -/
theorem test_reclaim_step_1 :
    let t := lowWaterTest (takeBlocks 14 shelf)
    t.store.freeCount = 51 ∧ t.store.arrival = [11, 12, 14] ∧ t.notices.latched = 0 := by decide +kernel

/-- Steps 2 and 3: VE is freed, and then nothing is left to free, and STORE_LOW is latched. -/
theorem test_reclaim_step_3 :
    let t := lowWaterTest (takeBlocks 37 (lowWaterTest (takeBlocks 37 (lowWaterTest (takeBlocks 14 shelf)))))
    t.store.freeCount = 14 ∧ t.store.arrival = [11, 12] ∧ holdsKind t.notices.latched .storeLow = true := by
  decide +kernel

/-- A freeze places the student with a READY version, which gains a lock, and leaves the other absent. -/
theorem test_freeze :
    (freezeBand freezing).scheduler.queue.map Order.decisions =
      [[{ decision := .placed, lockMark := true }, { decision := .absent, lockMark := false }]]
    ∧ (entryOf (freezeBand freezing) 5).held.map Held.lock = some 2 := by decide +kernel

/-- The end line of the first of two copies: the next begins at L + band lead, or at the page gap where that is later. -/
theorem test_next_copy_begins :
    let t := after .lineSync (ending [order 1 .active])
    t.scheduler.impression.map (fun c => (c.copy, c.start)) = some (2, 1256 + 256) ∧ t.scheduler.prevEnd = 1256
    ∧ (t.scheduler.log[(0 : Fin 64)]).map (fun r => (r.placed, r.absent)) = some (1, 1) := by decide +kernel

end Sys2Proof.Tests
end

section
/-!
CLEAR PLAN (R9): the plan argument, the pin of a plan, what emptying a slot changes, the rule's three answers, and the
settlement of O56.
-/

namespace Sys2Proof.Machine

/-! ## Plan arguments and pins -/

/-- A plan id above 7 is no plan argument. -/
theorem planArgument_eq_none {p : List Byte} {n : Nat} (h : 7 < byteAt p n) : planArgument p n = none :=
  dif_neg (by omega)

/-- A plan id of 0..7 is read as itself. -/
theorem planArgument_eq_some {p : List Byte} {n : Nat} {id : Fin 8} (h : byteAt p n = id.val) :
    planArgument p n = some id := by
  have hlt : byteAt p n < 8 := h ▸ id.isLt
  unfold planArgument
  rw [dif_pos hlt]
  exact congrArg some (Fin.ext h)

/-- A plan is pinned exactly when an order of the queue names it. -/
theorem planPinned_iff (s : State) (id : Fin 8) : planPinned s id = true ↔ ∃ o ∈ s.scheduler.queue, o.plan = id := by
  simp [planPinned]

/-! ## Emptying a plan slot -/

/-- Emptying a LOADED slot subtracts the rows and seats of its plan from the totals. -/
theorem setPlan_none_of_loaded {s : State} {id : Fin 8} {p : Plan} (h : planOf s id = some p) :
    setPlan id none s =
      { s with
        tables.plans := s.tables.plans.set id none
        tables.planRows := s.tables.planRows - p.rows.length
        tables.planSeats := s.tables.planSeats - p.seats.length } := by
  simp only [setPlan, slotTotals, h, Nat.add_zero]

/-- Emptying an EMPTY slot changes nothing. -/
theorem setPlan_none_of_empty {s : State} {id : Fin 8} (h : planOf s id = none) : setPlan id none s = s := by
  have hset : s.tables.plans.set id none = s.tables.plans := by
    rw [← show s.tables.plans[id.val] = none from h, Vector.set_getElem_self]
  simp only [setPlan, slotTotals, h, Nat.add_zero, Nat.sub_zero, hset]

/-! ## The rule's answers -/

/-- CLEAR PLAN refuses an id above 7. -/
theorem clearPlanRule_badArgument {p : List Byte} (h : 7 < byteAt p 0) (s : State) :
    clearPlanRule p s = .refuse .badArgument := by
  simp only [clearPlanRule, planArgument_eq_none h]

/-- CLEAR PLAN refuses a pinned plan. -/
theorem clearPlanRule_pinned {p : List Byte} {id : Fin 8} (h : byteAt p 0 = id.val) {s : State}
    (hp : ∃ o ∈ s.scheduler.queue, o.plan = id) : clearPlanRule p s = .refuse .pinned := by
  simp only [clearPlanRule, planArgument_eq_some h, (planPinned_iff s id).2 hp, if_true]

/-- CLEAR PLAN empties the slot of a plan that no order names. -/
theorem clearPlanRule_taken {p : List Byte} {id : Fin 8} (h : byteAt p 0 = id.val) {s : State}
    (hp : ∀ o ∈ s.scheduler.queue, o.plan ≠ id) : clearPlanRule p s = .take (setPlan id none s) [] false := by
  have hn : ¬planPinned s id = true := by
    rw [planPinned_iff]
    rintro ⟨o, ho, he⟩
    exact hp o ho he
  simp only [clearPlanRule, planArgument_eq_some h, if_neg hn]

/-! ## The command -/

/-- An asked CLEAR PLAN is taken to the Control Unit under its rule. -/
theorem exec_clearPlan_of_asked {s : State} {l : Link} {w : Wire} (h : Asked s l .clearPlan w) :
    exec (.clearPlan l w) s = .next (takeControl .clearPlan l w clearPlanRule nothingAfter s) := by
  show execClearPlan l w s = _
  rw [execClearPlan, clearPlanStep, arrive_of_reaches h.reaches]

/-- A CLEAR PLAN that its rule refuses is concluded with the cause, and only the staged train has gone. -/
theorem clearPlan_refused {s : State} {l : Link} {w : Wire} {cause : ControlOutcome} (h : Asked s l .clearPlan w)
    (hr : clearPlanRule w.payload (supersede l s) = .refuse cause) :
    ∃ t : State, exec (.clearPlan l w) s = .next t ∧ Concluded l 21 w cause [] false (supersede l s) t := by
  refine ⟨_, exec_clearPlan_of_asked h, ?_⟩
  rw [takeControl_refused h _ hr]
  exact conclude_concluded (by decide) (by decide) l w cause [] false _

/-- A CLEAR PLAN that its rule takes is concluded TAKEN on the state that the rule leaves. -/
theorem clearPlan_taken {s u : State} {l : Link} {w : Wire} (h : Asked s l .clearPlan w)
    (hr : clearPlanRule w.payload (supersede l s) = .take u [] false) :
    ∃ t : State, exec (.clearPlan l w) s = .next t ∧ Concluded l 21 w .taken [] false u t := by
  refine ⟨_, exec_clearPlan_of_asked h, ?_⟩
  rw [takeControl_taken h _ hr]
  exact conclude_concluded (by decide) (by decide) l w .taken [] false u

/-- Settles O56: the rule answers on the state with the staged train superseded, which has the tables and the queue that
the command found. -/
theorem clearPlanEmptiesASlot : Obligations.ClearPlanEmptiesASlot := by
  intro s l w h
  have hq : (supersede l s).scheduler.queue = s.scheduler.queue := by rw [supersede_scheduler]
  refine ⟨fun hbig => clearPlan_refused h (clearPlanRule_badArgument hbig _),
    fun id hid => ⟨fun hpin => ?_, fun hfree => ?_⟩⟩
  · exact clearPlan_refused h (clearPlanRule_pinned hid (hq ▸ hpin))
  · have hr := clearPlanRule_taken hid (s := supersede l s) (hq ▸ hfree)
    refine ⟨fun p hp => clearPlan_taken h ?_, fun he => clearPlan_taken h ?_⟩
    · rw [hr, setPlan_none_of_loaded ((planOf_supersede l id s).trans hp)]
      simp only [supersede_tables]
    · rw [hr, setPlan_none_of_empty ((planOf_supersede l id s).trans he)]

end Sys2Proof.Machine
end

section
/-!
The raw scale step (R102): the odd multiples of Ht avoid 2·Hh·4096, what the step times Ht can miss the dividend by, the
integer nearest to a quotient, the step's range, and the settlement of O58.
-/

namespace Sys2Proof.Machine

/-! ## No tie -/

/-- An odd multiple of a target below 8192 is not 2·Hh·4096: 8192 has no odd factor, so it would divide the target. -/
theorem odd_mul_ne_two_mul_dividend {ht : Nat} (hpos : 0 < ht) (hlt : ht < 8192) (hh m : Nat) :
    (2 * m + 1) * ht ≠ 2 * (hh * 4096) := by
  intro h
  have hdvd : 2 ^ 13 ∣ (2 * m + 1) * ht := ⟨hh, by omega⟩
  have hodd : Nat.Coprime (2 ^ 13) (2 * m + 1) := Nat.Coprime.pow_left 13 (by simp)
  have hle : 2 ^ 13 ≤ ht := Nat.le_of_dvd hpos (hodd.dvd_of_dvd_mul_left hdvd)
  omega

/-- The remainder of Hh·4096 by the target is not exactly half of the target (R102). -/
theorem two_mul_dividend_mod_ne {ht : Nat} (hpos : 0 < ht) (hlt : ht < 8192) (hh : Nat) :
    2 * (hh * 4096 % ht) ≠ ht := by
  intro h
  have hdiv : ht * (hh * 4096 / ht) + hh * 4096 % ht = hh * 4096 := Nat.div_add_mod ..
  exact odd_mul_ne_two_mul_dividend hpos hlt hh (hh * 4096 / ht) (by linarith)

/-! ## Rounding half up -/

/-- The step times the target exceeds Hh·4096 by at most half of the target. -/
theorem two_mul_rawScaleStep_mul_le (hh ht : Nat) :
    2 * (rawScaleStep hh ht * ht) ≤ 2 * (hh * 4096) + ht := by
  have h : rawScaleStep hh ht * ht ≤ hh * 4096 + ht / 2 := Nat.div_mul_le_self ..
  omega

/-- The step times the target falls short of Hh·4096 by less than half of the target. -/
theorem two_mul_dividend_lt {ht : Nat} (hpos : 0 < ht) (hh : Nat) :
    2 * (hh * 4096) < 2 * (rawScaleStep hh ht * ht) + ht := by
  have h : hh * 4096 + ht / 2 < rawScaleStep hh ht * ht + ht := Nat.lt_div_mul_add hpos
  omega

/-- Without a tie, the step times the target misses Hh·4096 by less than half of the target on either side. -/
theorem two_mul_abs_rawScaleStep_mul_sub_lt {ht : Nat} (hpos : 0 < ht) (hlt : ht < 8192) (hh : Nat) :
    2 * |((rawScaleStep hh ht * ht : Nat) : Int) - (hh * 4096 : Nat)| < ht := by
  have hle := two_mul_rawScaleStep_mul_le hh ht
  have hgt := two_mul_dividend_lt hpos hh
  have htie : 2 * (rawScaleStep hh ht * ht) ≠ 2 * (hh * 4096) + ht := by
    intro h
    obtain ⟨m, hm⟩ : ∃ m, rawScaleStep hh ht = m + 1 :=
      Nat.exists_eq_succ_of_ne_zero fun h0 => by simp only [h0, Nat.zero_mul] at h; omega
    exact odd_mul_ne_two_mul_dividend hpos hlt hh m (by rw [hm] at h; linarith)
  have habs : |2 * (((rawScaleStep hh ht * ht : Nat) : Int) - (hh * 4096 : Nat))| < ht := abs_lt.2 (by omega)
  rwa [abs_mul, abs_two] at habs

/-- A multiple of `d` nearer to `a` than half of `d` is nearer to `a` than every other multiple of `d`: two multiples lie at
least `d` apart. -/
theorem abs_mul_sub_lt_of_two_mul_lt {q d a : Nat} (h : 2 * |((q * d : Nat) : Int) - a| < d) {n : Nat} (hn : n ≠ q) :
    |((q * d : Nat) : Int) - a| < |((n * d : Nat) : Int) - a| := by
  have hne : 1 ≤ |(n : Int) - q| := Int.one_le_abs (by omega)
  have hgap : (d : Int) ≤ |((n * d : Nat) : Int) - (q * d : Nat)| := by
    rw [Nat.cast_mul, Nat.cast_mul, ← sub_mul, abs_mul, Nat.abs_cast]
    exact le_mul_of_one_le_left (Int.natCast_nonneg d) hne
  have htri := abs_sub_le ((n * d : Nat) : Int) a (q * d : Nat)
  rw [abs_sub_comm (a : Int)] at htri
  omega

/-! ## The range -/

/-- For a head height of 16 and more and a target of at most 2047 the step is at least 32. -/
theorem le_rawScaleStep {hh ht : Nat} (hhead : 16 ≤ hh) (hpos : 0 < ht) (htarget : ht ≤ 2047) :
    32 ≤ rawScaleStep hh ht :=
  (Nat.le_div_iff_mul_le hpos).2 (by omega)

/-- For a head height of at most 1280 and a target of 16 and more the step is at most 327680. -/
theorem rawScaleStep_le {hh ht : Nat} (hhead : hh ≤ 1280) (htarget : 16 ≤ ht) : rawScaleStep hh ht ≤ 327680 :=
  Nat.le_of_lt_succ (Nat.div_lt_of_lt_mul (by omega))

/-- Settles O58: the step's error is under half of the target, so every other integer is farther from the quotient. -/
theorem rawScaleStepIsTheNearestInteger : Obligations.RawScaleStepIsTheNearestInteger := by
  intro hh ht hhead hhead' htarget htarget'
  have hpos : 0 < ht := by omega
  have hlt : ht < 8192 := by omega
  exact ⟨rfl, two_mul_dividend_mod_ne hpos hlt hh,
    fun n hn => abs_mul_sub_lt_of_two_mul_lt (two_mul_abs_rawScaleStep_mul_sub_lt hpos hlt hh) hn,
    by omega, by omega, le_rawScaleStep hhead hpos htarget', rawScaleStep_le hhead' htarget, by decide, by decide⟩

end Sys2Proof.Machine
end

section
/-!
The laws of tile memory along a path of moves: the block law with the blocks in hand counted in, the law of the Arrival
List, the free list's order and the canonical form of the bytes; and the settlements of O3, O4 and O2.
-/

namespace Sys2Proof.Machine

/-! ## A step as a command -/

/-- A step idles or is the meaning of the front command on the queue's rest. -/
theorem step_cases {s t : State} (h : step s = .next t) :
    t = s ∨ ∃ c rest, s.pending = c :: rest ∧ exec c { s with pending := rest } = .next t := by
  unfold step at h
  split at h
  · cases h
    exact .inl rfl
  · exact .inr ⟨_, _, ‹_›, h⟩

/-- What every command keeps, and what does not speak of the queue of commands, every step keeps. -/
theorem step_keeps {P : State → Prop} (hp : ∀ s r, P s → P { s with pending := r })
    (he : ∀ c s t, P s → exec c s = .next t → P t) {s t : State} (h : step s = .next t) (hs : P s) : P t := by
  obtain rfl | ⟨c, rest, -, hc⟩ := step_cases h
  · exact hs
  · exact he c _ t (hp s rest hs) hc

/-- What every move keeps, a path keeps. -/
theorem Path.keep {P : State → List Nat → Prop}
    (hm : ∀ {k s t} {L M : List Nat}, Move k s L t M → P s L → P t M) {n : Nat} {s t : State} {L M : List Nat}
    (p : Path n s L t M) (hs : P s L) : P t M := by
  induction p with
  | refl => exact hs
  | step _ m ih => exact hm m (ih hs)

/-- A law of the state that every move keeps, and that holds after a power-on reset, every command keeps. -/
theorem exec_keeps_of_moves {P : State → List Nat → Prop}
    (hm : ∀ {k s t} {L M : List Nat}, Move k s L t M → P s L → P t M)
    (hr : ∀ a s, P s [] → P (powerOn a s) []) {c : Instr} {s t : State} (hs : P s []) (h : exec c s = .next t) :
    P t [] := by
  rcases exec_path h with ⟨a, -, rfl⟩ | ⟨-, p⟩ | p
  · exact hr a s hs
  · exact (p []).keep hm hs
  · exact (p []).keep hm hs

/-! ## Blocks -/

/-- The block law with the blocks in hand counted in: the free count is that of the free list, and every block is free,
listed or in hand exactly once. -/
def BlocksWith (s : State) (L : List Nat) : Prop :=
  s.store.freeCount = s.store.freeList.length
    ∧ ∀ b : Nat, s.store.freeList.count b + (listedBlocks s).count b + L.count b
        = (List.range Config.blockCount).count b

/-- With no block in hand it is the block law. -/
theorem blocksWith_nil (s : State) : BlocksWith s [] ↔ BlockLaw s := by
  simp [BlocksWith, BlockLaw, List.perm_iff_count, List.count_append]

/-- The blocks listed depend on the directory alone. -/
theorem listedBlocks_congr {s t : State} (h : t.intake.directory = s.intake.directory) :
    listedBlocks t = listedBlocks s := by
  unfold listedBlocks
  rw [h]

/-- The blocks of a held slot. -/
def heldBlocks (h : Option Held) : List Nat :=
  match h with
  | some h => h.version.blocks
  | none => []

/-- The blocks of an incoming slot. -/
def incomingBlocks (v : Option Incoming) : List Nat :=
  match v with
  | some v => v.version.blocks
  | none => []

theorem count_entryBlocks (b : Nat) (e : DirEntry) :
    (entryBlocks e).count b = (heldBlocks e.held).count b + (incomingBlocks e.incoming).count b := by
  exact List.count_append

theorem heldBlocks_eq (h : Option Held) : heldBlocks h = (h.map (·.version.blocks)).getD [] := by
  cases h <;> rfl

theorem incomingBlocks_eq (v : Option Incoming) : incomingBlocks v = (v.map (·.version.blocks)).getD [] := by
  cases v <;> rfl

/-- Replacing an entry exchanges the blocks of its two slots among those listed. -/
theorem count_listed_setEntry (b : Nat) (i : RosterIndex) (e : DirEntry) (s : State) :
    (listedBlocks (setEntry i e s)).count b + (heldBlocks (entryOf s i).held).count b
        + (incomingBlocks (entryOf s i).incoming).count b
      = (listedBlocks s).count b + (heldBlocks e.held).count b + (incomingBlocks e.incoming).count b := by
  have h := count_setEntry b i e s
  rw [count_entryBlocks, count_entryBlocks] at h
  omega

/-- Every move keeps the block law, the blocks in hand counted in (R51, R53, R54). -/
theorem Move.keeps_blocks {k : Nat} {s t : State} {L M : List Nat} (m : Move k s L t M) (h : BlocksWith s L) :
    BlocksWith t M := by
  obtain ⟨hn, hb⟩ := h
  cases m with
  | other hs hd _ _ _ =>
    refine ⟨by rw [hs]; exact hn, fun b => ?_⟩
    rw [hs, listedBlocks_congr hd]
    exact hb b
  | line x => exact ⟨hn, hb⟩
  | write => exact ⟨hn, hb⟩
  | edit i e hh hi =>
    refine ⟨hn, fun b => ?_⟩
    have hc := count_listed_setEntry b i e s
    rw [heldBlocks_eq e.held, incomingBlocks_eq e.incoming, hh, hi, ← heldBlocks_eq, ← incomingBlocks_eq] at hc
    have := hb b
    simp only [setEntry_store]
    omega
  | freed i v hv =>
    refine ⟨hn, fun b => ?_⟩
    have hc := count_listed_setEntry b i { entryOf s i with held := none } s
    have hl : listedBlocks (leaveArrival i (setEntry i { entryOf s i with held := none } s))
        = listedBlocks (setEntry i { entryOf s i with held := none } s) := rfl
    rw [hv] at hc
    change _ + v.version.blocks.count b + _ = _ + 0 + (incomingBlocks (entryOf s i).incoming).count b at hc
    have := hb b
    rw [hl, List.count_append]
    show s.store.freeList.count b + _ + _ = _
    omega
  | lifted i v hv =>
    refine ⟨hn, fun b => ?_⟩
    have hc := count_listed_setEntry b i { entryOf s i with incoming := none } s
    rw [hv] at hc
    simp only [incomingBlocks, List.count_nil] at hc
    have := hb b
    rw [List.count_append]
    simp only [setEntry_store]
    omega
  | returned bs =>
    refine ⟨?_, fun b => ?_⟩
    · show s.store.freeCount + bs.length = (bs.foldl (fun fl b => insertBlock b fl) s.store.freeList).length
      rw [(insertBlocks_perm bs _).length_eq, List.length_append, hn, Nat.add_comm]
    · have := hb b
      rw [List.count_append] at this
      show (bs.foldl (fun fl b => insertBlock b fl) s.store.freeList).count b + (listedBlocks s).count b + _ = _
      rw [count_insertBlocks]
      omega
  | taken n hle =>
    refine ⟨?_, fun b => ?_⟩
    · show s.store.freeCount - n = (s.store.freeList.drop n).length
      rw [List.length_drop, hn]
    · have := hb b
      have hsplit : s.store.freeList.count b = (s.store.freeList.take n).count b + (s.store.freeList.drop n).count b := by
        rw [← List.count_append, List.take_append_drop]
      rw [List.count_append]
      show (s.store.freeList.drop n).count b + (listedBlocks s).count b + _ = _
      omega
  | placedIncoming i v hv =>
    refine ⟨hn, fun b => ?_⟩
    have hc := count_listed_setEntry b i { entryOf s i with incoming := some v } s
    rw [hv] at hc
    simp only [incomingBlocks, List.count_nil] at hc
    have := hb b
    rw [List.count_append] at this
    simp only [setEntry_store]
    omega
  | placedHeld i st v hh hi =>
    refine ⟨hn, fun b => ?_⟩
    have hc := count_listed_setEntry b i
      { held := some { version := v, state := st, lock := 0 }, incoming := none } s
    have hl : listedBlocks (becomeHeld i st v s)
        = listedBlocks (setEntry i { held := some { version := v, state := st, lock := 0 }, incoming := none } s) := rfl
    rw [hh, hi] at hc
    simp only [incomingBlocks, heldBlocks, List.count_nil] at hc
    have := hb b
    rw [List.count_append] at this
    rw [hl]
    show s.store.freeList.count b + _ + _ = _
    omega

/-- After a power-on reset no entry lists a block. -/
theorem listedBlocks_powerOn (a : BitVec 4) (s : State) : listedBlocks (powerOn a s) = [] := by
  have h : (powerOn a s).intake.directory.toList = List.replicate 1024 ⟨none, none⟩ := Vector.toList_replicate
  unfold listedBlocks
  rw [h, List.flatMap_eq_nil_iff]
  intro e he
  rw [List.eq_of_mem_replicate he]
  rfl

/-- After a power-on reset every block is free (R51). -/
theorem blockLaw_powerOn (a : BitVec 4) (s : State) : BlockLaw (powerOn a s) := by
  refine ⟨?_, ?_⟩
  · show Config.blockCount = (List.range' 0 Config.blockCount).length
    rw [List.length_range']
  · rw [listedBlocks_powerOn, List.append_nil]
    show (List.range' 0 Config.blockCount).Perm _
    rw [← List.range_eq_range']

/-- Every command keeps the block law. -/
theorem exec_keeps_blockLaw {c : Instr} {s t : State} (hs : BlockLaw s) (h : exec c s = .next t) : BlockLaw t :=
  (blocksWith_nil t).1 (exec_keeps_of_moves Move.keeps_blocks
    (fun a s _ => (blocksWith_nil _).2 (blockLaw_powerOn a s)) ((blocksWith_nil s).2 hs) h)

/-- Settles O3: every command is a path of moves, and no move loses or doubles a block. -/
theorem blockLawKept : Obligations.BlockLawKept :=
  fun _ _ hs h => step_keeps (fun _ _ hs => hs) (fun _ _ _ => exec_keeps_blockLaw) h hs

/-! ## The Arrival List -/

/-- The law of the Arrival List after one entry has changed and its index has left or kept its place. -/
theorem arrivalLaw_setEntry {s t : State} {i : RosterIndex} {e : DirEntry} (h : ArrivalLaw s)
    (ht : t.intake.directory = (setEntry i e s).intake.directory)
    (hn : t.store.arrival.Nodup) (hi : i ∈ t.store.arrival ↔ e.held.isSome = true)
    (hj : ∀ j, j ≠ i → (j ∈ t.store.arrival ↔ j ∈ s.store.arrival)) : ArrivalLaw t := by
  refine ⟨hn, fun j => ?_⟩
  have he : entryOf t j = entryOf (setEntry i e s) j := by unfold entryOf; rw [ht]
  rw [he]
  by_cases hji : j = i
  · subst hji
    rw [entryOf_setEntry_same]
    exact hi
  · rw [entryOf_setEntry_ne _ _ hji, hj j hji]
    exact h.2 j

/-- Every move keeps the law of the Arrival List (R55, R56). -/
theorem Move.keeps_arrival {k : Nat} {s t : State} {L M : List Nat} (m : Move k s L t M) (h : ArrivalLaw s) :
    ArrivalLaw t := by
  cases m with
  | other hs hd _ _ _ =>
    unfold ArrivalLaw entryOf at h ⊢
    rw [hs, hd]
    exact h
  | line | write | returned | taken => exact h
  | edit i e hh hi =>
    refine arrivalLaw_setEntry h rfl h.1 ?_ fun _ _ => Iff.rfl
    rw [← Option.isSome_map (f := (·.version.blocks)), hh, Option.isSome_map]
    exact h.2 i
  | freed i v hv =>
    refine arrivalLaw_setEntry h (e := { entryOf s i with held := none }) rfl (h.1.filter _) ?_ fun j hj => ?_
    · show i ∈ s.store.arrival.filter _ ↔ _
      simp
    · show j ∈ s.store.arrival.filter _ ↔ _
      simp [hj]
  | lifted i v hv => exact arrivalLaw_setEntry h rfl h.1 (h.2 i) fun _ _ => Iff.rfl
  | placedIncoming i v hv => exact arrivalLaw_setEntry h rfl h.1 (h.2 i) fun _ _ => Iff.rfl
  | placedHeld i st v hh hi =>
    have hni : i ∉ s.store.arrival := by
      rw [h.2 i, hh]
      simp
    refine arrivalLaw_setEntry h (e := { held := some { version := v, state := st, lock := 0 }, incoming := none }) rfl
      ?_ ?_ fun j hj => ?_
    · show (s.store.arrival ++ [i]).Nodup
      exact List.nodup_append.2 ⟨h.1, List.nodup_singleton i, by
        simp only [List.mem_singleton]
        rintro a ha _ rfl rfl
        exact hni ha⟩
    · show i ∈ s.store.arrival ++ [i] ↔ _
      simp
    · show j ∈ s.store.arrival ++ [i] ↔ _
      simp [hj]

/-- After a power-on reset every directory entry is empty. -/
theorem entryOf_powerOn (a : BitVec 4) (s : State) (i : RosterIndex) :
    entryOf (powerOn a s) i = { held := none, incoming := none } := by
  show (Vector.replicate 1024 (⟨none, none⟩ : DirEntry))[i] = _
  simp

/-- After a power-on reset the Arrival List is empty, and so is every held slot. -/
theorem arrivalLaw_powerOn (a : BitVec 4) (s : State) : ArrivalLaw (powerOn a s) := by
  refine ⟨List.nodup_nil, fun i => ?_⟩
  rw [entryOf_powerOn]
  show i ∈ [] ↔ _
  simp

/-- Every command keeps the law of the Arrival List. -/
theorem exec_keeps_arrivalLaw {c : Instr} {s t : State} (hs : ArrivalLaw s) (h : exec c s = .next t) : ArrivalLaw t :=
  exec_keeps_of_moves (P := fun s _ => ArrivalLaw s) Move.keeps_arrival (fun a s _ => arrivalLaw_powerOn a s) hs h

/-- Settles O4: every command is a path of moves, and only a version that takes or leaves a held slot joins or leaves the
Arrival List. -/
theorem arrivalLawKept : Obligations.ArrivalLawKept :=
  fun _ _ hs h => step_keeps (fun _ _ hs => hs) (fun _ _ _ => exec_keeps_arrivalLaw) h hs

/-! ## The model's forms of tile memory -/

/-- Blocks that return keep the free list in order. -/
theorem insertBlocks_sorted (bs : List Nat) : ∀ l : List Nat, l.Pairwise (· ≤ ·) →
    (bs.foldl (fun fl b => insertBlock b fl) l).Pairwise (· ≤ ·) := by
  induction bs with
  | nil => exact fun _ h => h
  | cons b bs ih => exact fun l h => ih _ (insertBlock_sorted b l h)

/-- Every move keeps the free list in ascending order. -/
theorem Move.keeps_ascends {k : Nat} {s t : State} {L M : List Nat} (m : Move k s L t M) (h : FreeListAscends s) :
    FreeListAscends t := by
  cases m with
  | other hs _ _ _ _ =>
    unfold FreeListAscends
    rw [hs]
    exact h
  | returned bs => exact insertBlocks_sorted bs _ h
  | taken n _ => exact h.drop
  | line | write | edit | freed | lifted | placedIncoming | placedHeld => exact h

/-- After a power-on reset the free list ascends. -/
theorem freeListAscends_powerOn (a : BitVec 4) (s : State) : FreeListAscends (powerOn a s) :=
  List.pairwise_le_range'

/-- Every command keeps the free list in ascending order. -/
theorem exec_keeps_ascends {c : Instr} {s t : State} (hs : FreeListAscends s) (h : exec c s = .next t) :
    FreeListAscends t :=
  exec_keeps_of_moves (P := fun s _ => FreeListAscends s) Move.keeps_ascends
    (fun a s _ => freeListAscends_powerOn a s) hs h

/-- Every move keeps the canonical form of the bytes. -/
theorem Move.keeps_wf {k : Nat} {s t : State} {L M : List Nat} (m : Move k s L t M)
    (h : Memory.wf s.store.bytes = true) : Memory.wf t.store.bytes = true := by
  cases m with
  | other hs _ _ _ _ =>
    rw [hs]
    exact h
  | write bl n bs => exact wf_writeVersion bl bs n h
  | line | edit | freed | lifted | returned | taken | placedIncoming | placedHeld => exact h

/-- Every command keeps the canonical form of the bytes. -/
theorem exec_keeps_wf {c : Instr} {s t : State} (hs : Memory.wf s.store.bytes = true) (h : exec c s = .next t) :
    Memory.wf t.store.bytes = true :=
  exec_keeps_of_moves (P := fun s _ => Memory.wf s.store.bytes = true) Move.keeps_wf (fun _ _ hs => hs) hs h

/-! ## The queue of commands, the straps and the line count -/

/-- Settles O2: a path keeps the queue and the straps and counts the line syncs that it answers. -/
theorem commandsLeaveQueueStrapsAndLineCount : Obligations.CommandsLeaveQueueStrapsAndLineCount := by
  refine ⟨fun c s t h => ?_, fun c s t h => ?_⟩ <;> rcases exec_path h with ⟨a, rfl, rfl⟩ | ⟨rfl, p⟩ | p
  · exact ⟨rfl, fun hn => absurd rfl (hn a)⟩
  · exact ⟨(p []).keeps.1, fun _ => (p []).keeps.2.1⟩
  · exact ⟨(p []).keeps.1, fun _ => (p []).keeps.2.1⟩
  · exact .inr (.inr ⟨a, rfl, rfl⟩)
  · exact .inr (.inl ⟨rfl, (p []).keeps.2.2⟩)
  · exact .inl (by simpa using (p []).keeps.2.2)

end Sys2Proof.Machine
end

section
/-!
What the laws of trains, queue, roster, locks, places and totals see of the state. `Outside` says that two states differ
in nothing that these laws see outside Tile Intake, `Neutral` that they differ in nothing that they see at all; a change
of ports, notices, press, renderer or logs is neutral. `Keeps` says that each law passes from one state to another, under
the premises that its statement gives it.
-/

namespace Sys2Proof.Machine

/-! ## What the laws see -/

/-- An order without the fields that no law sees. -/
def Order.core (o : Order) : Order := { o with copies := 0, done := 0, linesFixed := false, seatLines := [] }

/-- An order without its Decision Table either: what its place in the queue is told by. -/
def Order.place (o : Order) : Order := { o.core with decisions := [] }

theorem map_place_of_core {xs ys : List Order} (h : ys.map Order.core = xs.map Order.core) :
    ys.map Order.place = xs.map Order.place := by
  have hc : ∀ zs : List Order, zs.map Order.place = (zs.map Order.core).map fun o => { o with decisions := [] } :=
    fun zs => by
      rw [List.map_map]
      rfl
  rw [hc, h, ← hc]

theorem map_plan_of_place {xs ys : List Order} (h : ys.map Order.place = xs.map Order.place) :
    ys.map Order.plan = xs.map Order.plan := by
  have hc : ∀ zs : List Order, zs.map Order.plan = (zs.map Order.place).map Order.plan := fun zs => by
    rw [List.map_map]
    rfl
  rw [hc, h, ← hc]

/-- What the law of the locks sees of an order. -/
def Order.table (o : Order) : Fin 8 × List SeatEntry := (o.plan, o.decisions)

theorem map_table_of_core {xs ys : List Order} (h : ys.map Order.core = xs.map Order.core) :
    ys.map Order.table = xs.map Order.table := by
  have hc : ∀ zs : List Order, zs.map Order.table = (zs.map Order.core).map Order.table := fun zs => by
    rw [List.map_map]
    rfl
  rw [hc, h, ← hc]

theorem tag_of_place {x y : Order} (h : x.place = y.place) : x.tag = y.tag :=
  (congrArg Order.tag h : x.place.tag = y.place.tag)
theorem plan_of_place {x y : Order} (h : x.place = y.place) : x.plan = y.plan :=
  (congrArg Order.plan h : x.place.plan = y.place.plan)
theorem rush_of_place {x y : Order} (h : x.place = y.place) : x.rush = y.rush :=
  (congrArg Order.rush h : x.place.rush = y.place.rush)
theorem state_of_place {x y : Order} (h : x.place = y.place) : x.state = y.state :=
  (congrArg Order.state h : x.place.state = y.place.state)
/-- What the laws see of an impression. -/
def Impression.view (c : Impression) : BitVec 16 × Fin 8 := (c.tag, c.plan)

/-- What the laws see of a held version. -/
def Held.view (h : Held) : HeldState × Nat := (h.state, h.lock)

/-- Two states differ in nothing that the laws see outside the train states and the directory, but for staged tables that
are gone, and for calls, of which there are no more than there are places. -/
structure Outside (s t : State) : Prop where
  records : ∀ i, recordOf t i = recordOf s i := by intros; rfl
  plans : t.tables.plans = s.tables.plans := by rfl
  planRows : t.tables.planRows = s.tables.planRows := by rfl
  planSeats : t.tables.planSeats = s.tables.planSeats := by rfl
  staged : ∀ l x, (slotOf t l).staging.map Staging.target = some x →
    (slotOf s l).staging.map Staging.target = some x := by exact fun _ _ h => h
  queue : t.scheduler.queue.map Order.core = s.scheduler.queue.map Order.core := by rfl
  impression : t.scheduler.impression.map Impression.view = s.scheduler.impression.map Impression.view := by rfl
  calls : s.seats.calls.length ≤ Config.callPlaces → t.seats.calls.length ≤ Config.callPlaces := by exact fun h => h
  waiting : (∀ m, (portOf s m).calls.length ≤ Config.callPlaces) →
    ∀ m, (portOf t m).calls.length ≤ Config.callPlaces := by exact fun h => h

/-- Two states differ in nothing that the laws see. -/
structure Neutral (s t : State) : Prop extends Outside s t where
  trains : ∀ l, (trainOf t l).map Train.index = (trainOf s l).map Train.index := by intros; rfl
  held : ∀ i, (entryOf t i).held.map Held.view = (entryOf s i).held.map Held.view := by intros; rfl
  incoming : ∀ i, (entryOf t i).incoming.map Incoming.state = (entryOf s i).incoming.map Incoming.state := by
    intros; rfl

theorem Outside.refl (s : State) : Outside s s := {}

theorem Outside.trans {s t u : State} (p : Outside s t) (q : Outside t u) : Outside s u where
  records i := (q.records i).trans (p.records i)
  plans := q.plans.trans p.plans
  planRows := q.planRows.trans p.planRows
  planSeats := q.planSeats.trans p.planSeats
  staged l x h := p.staged l x (q.staged l x h)
  queue := q.queue.trans p.queue
  impression := q.impression.trans p.impression
  calls h := q.calls (p.calls h)
  waiting h := q.waiting (p.waiting h)

theorem Neutral.refl (s : State) : Neutral s s := {}

theorem Neutral.trans {s t u : State} (p : Neutral s t) (q : Neutral t u) : Neutral s u where
  toOutside := p.toOutside.trans q.toOutside
  trains l := (q.trains l).trans (p.trains l)
  held i := (q.held i).trans (p.held i)
  incoming i := (q.incoming i).trans (p.incoming i)

theorem Neutral.foldl {α : Type} {f : State → α → State} (h : ∀ s x, Neutral s (f s x)) :
    ∀ (xs : List α) (s : State), Neutral s (xs.foldl f s)
  | [], s => .refl s
  | x :: xs, s => (h s x).trans (Neutral.foldl h xs (f s x))

theorem Outside.foldl {α : Type} {f : State → α → State} (h : ∀ s x, Outside s (f s x)) :
    ∀ (xs : List α) (s : State), Outside s (xs.foldl f s)
  | [], s => .refl s
  | x :: xs, s => (h s x).trans (Outside.foldl h xs (f s x))

/-! ## Lists seen through a map -/

/-- A member of one list has its like in another that maps to the same. -/
theorem exists_mem_of_map_eq {α β : Type} {f : α → β} {xs ys : List α} (h : ys.map f = xs.map f) {y : α}
    (hy : y ∈ ys) : ∃ x ∈ xs, f x = f y := by
  have hm : f y ∈ xs.map f := h ▸ List.mem_map_of_mem hy
  exact List.mem_map.1 hm

/-- A count that reads its items through a map. -/
theorem countP_of_map_eq {α β : Type} {f : α → β} {xs ys : List α} (h : ys.map f = xs.map f) {p q : α → Bool}
    (r : β → Bool) (hp : ∀ x, p x = r (f x)) (hq : ∀ x, q x = r (f x)) : ys.countP q = xs.countP p := by
  have hp' : p = r ∘ f := funext hp
  have hq' : q = r ∘ f := funext hq
  rw [hp', hq', ← List.countP_map, ← List.countP_map, h]

/-! ## The queue's tail -/

/-- What stands behind the head of the queue: a run of QUEUED rush orders, a SUSPENDED ordinary order at most, and that
only behind a rush order, and the QUEUED ordinary orders (R65). -/
def TailForm (rush : Bool) (rest : List Order) : Prop :=
  ∃ rushes suspended others : List Order, rest = rushes ++ suspended ++ others
    ∧ (∀ x ∈ rushes, x.state = .queued ∧ x.rush = true)
    ∧ (∀ x ∈ suspended, x.state = .suspended ∧ x.rush = false)
    ∧ (∀ x ∈ others, x.state = .queued ∧ x.rush = false)
    ∧ suspended.length ≤ 1 ∧ (suspended ≠ [] → rush = true)

/-- A property that is told by an order's place. -/
theorem forall_mem_of_place {xs ys : List Order} (h : ys.map Order.place = xs.map Order.place) {st : OrderState} {r : Bool}
    (hx : ∀ x ∈ xs, x.state = st ∧ x.rush = r) : ∀ y ∈ ys, y.state = st ∧ y.rush = r := by
  intro y hy
  obtain ⟨x, hx', he⟩ := exists_mem_of_map_eq h hy
  have h1 : x.state = y.state := state_of_place he
  have h2 : x.rush = y.rush := rush_of_place he
  rw [← h1, ← h2]
  exact hx x hx'

/-- The tail's form reads the places alone. -/
theorem TailForm.congr {rush : Bool} {xs ys : List Order} (h : ys.map Order.place = xs.map Order.place)
    (hx : TailForm rush xs) : TailForm rush ys := by
  obtain ⟨a, b, c, rfl, ha, hb, hc, hl, hr⟩ := hx
  rw [List.map_append, List.map_append, List.map_eq_append_iff] at h
  obtain ⟨ab, c', rfl, hab, hc'⟩ := h
  rw [List.map_eq_append_iff] at hab
  obtain ⟨a', b', rfl, ha', hb'⟩ := hab
  have hlen : b'.length = b.length := by simpa using congrArg List.length hb'
  refine ⟨a', b', c', rfl, forall_mem_of_place ha' ha, forall_mem_of_place hb' hb, forall_mem_of_place hc' hc,
    hlen ▸ hl, fun hne => hr ?_⟩
  rintro rfl
  exact hne (List.length_eq_zero_iff.1 hlen)

/-- The queue's order, said of its head and its tail. -/
theorem QueueLaw.tail {s : State} (h : QueueLaw s) {o : Order} {rest : List Order} (hq : s.scheduler.queue = o :: rest) :
    TailForm o.rush rest := (h.places o rest hq).2

/-! ## The laws pass over a neutral change -/

theorem planOf_congr {s t : State} (h : t.tables.plans = s.tables.plans) (id : Fin 8) : planOf t id = planOf s id := by
  unfold planOf
  rw [h]

theorem orderNames_congr {s t : State} (h : t.tables.plans = s.tables.plans) (o : Order) (i : RosterIndex) :
    orderNames t o i = orderNames s o i := by
  unfold orderNames
  rw [planOf_congr h]

theorem orderLocks_congr {s t : State} (h : t.tables.plans = s.tables.plans) (o : Order) (i : RosterIndex) :
    orderLocks t o i = orderLocks s o i := by
  unfold orderLocks
  rw [planOf_congr h]

/-- The law of the queue reads the queue, the impression and the plans. -/
theorem QueueLaw.congr {s t : State} (hp : t.tables.plans = s.tables.plans)
    (hq : t.scheduler.queue.map Order.place = s.scheduler.queue.map Order.place)
    (hc : t.scheduler.impression.map Impression.view = s.scheduler.impression.map Impression.view)
    (h : QueueLaw s) : QueueLaw t := by
  refine ⟨fun o ho => ?_, ?_, ?_, fun c o rest hi ho => ?_, fun o rest ho => ?_⟩
  · obtain ⟨x, hx, he⟩ := exists_mem_of_map_eq hq ho
    rw [planOf_congr hp, ← show x.plan = o.plan from plan_of_place he]
    exact h.loaded x hx
  · have ht : ∀ q : List Order, q.map Order.tag = (q.map Order.place).map Order.tag := fun q => by
      rw [List.map_map]
      rfl
    rw [ht, hq, ← ht]
    exact h.tags
  · rw [← Option.map_eq_none_iff (f := Impression.view), hc, Option.map_eq_none_iff,
      ← List.map_eq_nil_iff (f := Order.place), hq, List.map_eq_nil_iff]
    exact h.idle
  · rw [hi, Option.map_some] at hc
    obtain ⟨d, hd, hv⟩ := Option.map_eq_some_iff.1 hc.symm
    rw [ho, List.map_cons] at hq
    obtain ⟨x, xs, hx, he, -⟩ := List.map_eq_cons_iff.1 hq.symm
    obtain ⟨h1, h2⟩ := h.printing d x xs hd hx
    have e1 : d.tag = c.tag := congrArg Prod.fst hv
    have e2 : d.plan = c.plan := congrArg Prod.snd hv
    have e3 : x.tag = o.tag := tag_of_place he
    have e4 : x.plan = o.plan := plan_of_place he
    exact ⟨by rw [← e1, h1, e3], by rw [← e2, h2, e4]⟩
  · rw [ho, List.map_cons] at hq
    obtain ⟨x, xs, hx, he, hxs⟩ := List.map_eq_cons_iff.1 hq.symm
    have e1 : x.state = o.state := state_of_place he
    have e2 : x.rush = o.rush := rush_of_place he
    rw [← e1, ← e2]
    exact ⟨(h.places x xs hx).1, (h.tail hx).congr hxs.symm⟩

/-- The law of the roster reads the records, the plans, the staged targets and the plans of the queue. -/
theorem RosterLaw.congr {s t : State}
    (hr : ∀ i, (recordOf t i).listed = (recordOf s i).listed ∧ (recordOf t i).studentId = (recordOf s i).studentId
      ∧ (recordOf t i).uses = (recordOf s i).uses) (hp : t.tables.plans = s.tables.plans)
    (hs : ∀ l x, (slotOf t l).staging.map Staging.target = some x → (slotOf s l).staging.map Staging.target = some x)
    (hq : t.scheduler.queue.map Order.plan = s.scheduler.queue.map Order.plan) (h : RosterLaw s) : RosterLaw t := by
  refine ⟨fun i => ?_, fun i j => ?_, fun id p => ?_, fun l g first count hg ht => ?_, fun i => ?_⟩
  · rw [(hr i).1, (hr i).2.1]
    exact h.listed i
  · rw [(hr i).1, (hr i).2.1, (hr j).1, (hr j).2.1]
    exact h.unique i j
  · rw [planOf_congr hp]
    exact h.once id p
  · obtain ⟨g', hg', he⟩ := Option.map_eq_some_iff.1 (hs l g.target (by rw [hg]; rfl))
    exact h.range l g' first count hg' (he.trans ht)
  · rw [(hr i).2.2, h.uses i]
    refine (countP_of_map_eq hq
      (fun id => match planOf s id with
        | some p => p.seats.any fun x => decide (x.index = i)
        | none => false) (fun _ => rfl) fun x => ?_).symm
    exact orderNames_congr hp x i

/-- The places of the queues read their lengths. -/
theorem WithinPlaces.congr {s t : State} (hq : t.scheduler.queue.length = s.scheduler.queue.length)
    (hc : s.seats.calls.length ≤ Config.callPlaces → t.seats.calls.length ≤ Config.callPlaces)
    (hp : (∀ m, (portOf s m).calls.length ≤ Config.callPlaces) → ∀ m, (portOf t m).calls.length ≤ Config.callPlaces)
    (h : WithinPlaces s) : WithinPlaces t :=
  ⟨hq ▸ h.1, hc h.2.1, hp h.2.2⟩

/-- The totals read the plans. -/
theorem TotalsLaw.congr {s t : State} (hp : t.tables.plans = s.tables.plans)
    (hr : t.tables.planRows = s.tables.planRows) (hs : t.tables.planSeats = s.tables.planSeats)
    (h : TotalsLaw s) : TotalsLaw t := by
  unfold TotalsLaw at h ⊢
  rw [hr, hs, hp]
  exact h

/-! ## Trains and locks, entry by entry -/

/-- The incoming slot of an entry holds a FILLING version. -/
def Fills (e : DirEntry) : Prop := e.incoming.map Incoming.state = some .filling

theorem fills_iff (e : DirEntry) : Fills e ↔ ∃ v, e.incoming = some v ∧ v.state = .filling := Option.map_eq_some_iff

/-- A link has a train open for this index. -/
def OpenFor (s : State) (i : RosterIndex) : Prop := ∃ l, (trainOf s l).map Train.index = some i

/-- The law of the trains: the FILLING versions are those of the open trains, which have different indices. -/
theorem trainLaw_iff (s : State) : TrainLaw s ↔ (∀ i, Fills (entryOf s i) ↔ OpenFor s i)
    ∧ ∀ i, ¬((trainOf s .a).map Train.index = some i ∧ (trainOf s .b).map Train.index = some i) := by
  constructor
  · rintro ⟨hf, ha, hd⟩
    refine ⟨fun i => ⟨fun h => ?_, ?_⟩, ?_⟩
    · obtain ⟨v, hv, hs⟩ := (fills_iff _).1 h
      obtain ⟨l, t, ht, rfl⟩ := hd i v hv hs
      exact ⟨l, by rw [ht]; rfl⟩
    · rintro ⟨l, h⟩
      obtain ⟨t, ht, rfl⟩ := Option.map_eq_some_iff.1 h
      exact (fills_iff _).2 (hf l t ht)
    · rintro i ⟨h1, h2⟩
      obtain ⟨t, ht, rfl⟩ := Option.map_eq_some_iff.1 h1
      obtain ⟨u, hu, he⟩ := Option.map_eq_some_iff.1 h2
      exact ha t u ht hu he.symm
  · rintro ⟨hf, ha⟩
    refine ⟨fun l t ht => ?_, fun t u ht hu he => ?_, fun i v hv hs => ?_⟩
    · exact (fills_iff _).1 ((hf t.index).2 ⟨l, by rw [ht]; rfl⟩)
    · exact ha t.index ⟨by rw [ht]; rfl, by rw [hu, he]; rfl⟩
    · obtain ⟨l, h⟩ := (hf i).1 ((fills_iff _).2 ⟨v, hv, hs⟩)
      obtain ⟨t, ht, he⟩ := Option.map_eq_some_iff.1 h
      exact ⟨l, t, ht, he⟩

/-- The law of the trains reads the trains' indices and which versions are FILLING. -/
theorem TrainLaw.congr {s t : State} (h : TrainLaw s)
    (ht : ∀ l, (trainOf t l).map Train.index = (trainOf s l).map Train.index)
    (hf : ∀ i, Fills (entryOf t i) ↔ Fills (entryOf s i)) : TrainLaw t := by
  obtain ⟨h1, h2⟩ := (trainLaw_iff s).1 h
  refine (trainLaw_iff t).2 ⟨fun i => ?_, fun i => ?_⟩
  · rw [hf, h1]
    unfold OpenFor
    simp only [ht]
  · rw [ht, ht]
    exact h2 i

/-- A directory entry fits the number of locks held on its index and the record's flag: what LockLaw says of one entry. -/
structure EntryFits (locks : Nat) (withheld : Bool) (e : DirEntry) : Prop where
  held : ∀ h : Held, e.held = some h → h.lock = locks
  free : e.held = none → locks = 0
  damaged : ∀ h : Held, e.held = some h → h.state = .damaged → h.lock = 0
  waiting : ∀ v : Incoming, e.incoming = some v → v.state = .waiting → ∃ h : Held, e.held = some h ∧ 0 < h.lock
  withheld : withheld = true → e.incoming = none ∧ ∀ h : Held, e.held = some h → 0 < h.lock

/-- The orders in the queue that hold a lock on an index. -/
def lockCount (s : State) (i : RosterIndex) : Nat := s.scheduler.queue.countP fun o => orderLocks s o i

/-- The Decision Tables have an entry for every seat, with lock marks that suit the decisions. -/
structure TablesFit (s : State) : Prop where
  entries : ∀ o ∈ s.scheduler.queue, ∀ p : Plan, planOf s o.plan = some p → o.decisions.length = p.seats.length
  marks : ∀ o ∈ s.scheduler.queue, ∀ e ∈ o.decisions, (e.decision = .placed → e.lockMark = true)
    ∧ (e.decision = .undecided ∨ e.decision = .absent → e.lockMark = false)

/-- The law of the locks, said of the Decision Tables and of each entry. -/
theorem lockLaw_iff (s : State) : LockLaw s ↔
    TablesFit s ∧ ∀ i, EntryFits (lockCount s i) (recordOf s i).withheld (entryOf s i) := by
  constructor
  · rintro ⟨he, hm, hh, hf, hd, hw, hi⟩
    refine ⟨⟨he, hm⟩, fun i => ⟨hh i, fun h => ?_, hd i, hw i, hi i⟩⟩
    exact List.countP_eq_zero.2 fun o ho => by simp [hf i h o ho]
  · rintro ⟨⟨he, hm⟩, h⟩
    refine ⟨he, hm, fun i => (h i).held, fun i hn o ho => ?_, fun i => (h i).damaged, fun i => (h i).waiting,
      fun i => (h i).withheld⟩
    simpa using List.countP_eq_zero.1 ((h i).free hn) o ho

/-- An order's locks are read from its plan and its Decision Table. -/
theorem orderLocks_of_table {s t : State} (h : t.tables.plans = s.tables.plans) {x y : Order} (he : y.table = x.table)
    (i : RosterIndex) : orderLocks t y i = orderLocks s x i := by
  have h1 : y.plan = x.plan := congrArg Prod.fst he
  have h2 : y.decisions = x.decisions := congrArg Prod.snd he
  unfold orderLocks
  rw [planOf_congr h, h1, h2]

theorem lockCount_congr {s t : State} (hp : t.tables.plans = s.tables.plans)
    (hq : t.scheduler.queue.map Order.table = s.scheduler.queue.map Order.table) (i : RosterIndex) :
    lockCount t i = lockCount s i :=
  countP_of_map_eq hq
    (fun x => match planOf s x.1 with
      | some p => (p.seats.zip x.2).any fun x => decide (x.1.index = i) && x.2.lockMark
      | none => false)
    (fun _ => rfl) fun x => orderLocks_congr hp x i

theorem TablesFit.congr {s t : State} (h : TablesFit s) (hp : t.tables.plans = s.tables.plans)
    (hq : t.scheduler.queue.map Order.table = s.scheduler.queue.map Order.table) : TablesFit t := by
  refine ⟨fun x hx p hpx => ?_, fun x hx => ?_⟩ <;> obtain ⟨y, hy, he⟩ := exists_mem_of_map_eq hq hx
  · rw [planOf_congr hp, ← show y.plan = x.plan from congrArg Prod.fst he] at hpx
    rw [← show y.decisions = x.decisions from congrArg Prod.snd he]
    exact h.entries y hy p hpx
  · rw [← show y.decisions = x.decisions from congrArg Prod.snd he]
    exact h.marks y hy

/-- The law of the locks where plans and Decision Tables stand: each entry fits as before. -/
theorem LockLaw.of_entries {s t : State} (h : LockLaw s) (hp : t.tables.plans = s.tables.plans)
    (hq : t.scheduler.queue.map Order.table = s.scheduler.queue.map Order.table)
    (he : ∀ i, EntryFits (lockCount s i) (recordOf s i).withheld (entryOf s i) →
      EntryFits (lockCount s i) (recordOf t i).withheld (entryOf t i)) : LockLaw t := by
  obtain ⟨h1, h2⟩ := (lockLaw_iff s).1 h
  refine (lockLaw_iff t).2 ⟨h1.congr hp hq, fun i => ?_⟩
  rw [lockCount_congr hp hq]
  exact he i (h2 i)

/-- The law of the locks where nothing outside Tile Intake differs: each entry fits as before. -/
theorem LockLaw.of_outside {s t : State} (h : LockLaw s) (o : Outside s t)
    (he : ∀ i, EntryFits (lockCount s i) (recordOf s i).withheld (entryOf s i) →
      EntryFits (lockCount s i) (recordOf s i).withheld (entryOf t i)) : LockLaw t :=
  h.of_entries o.plans (map_table_of_core o.queue) fun i hi => by
    rw [o.records]
    exact he i hi

/-- What an entry must fit reads its versions' states and the lock count. -/
theorem EntryFits.congr {n : Nat} {w : Bool} {d e : DirEntry} (h : EntryFits n w d)
    (hh : e.held.map Held.view = d.held.map Held.view)
    (hi : e.incoming.map Incoming.state = d.incoming.map Incoming.state) : EntryFits n w e := by
  have key : ∀ x, e.held = some x → ∃ y, d.held = some y ∧ y.lock = x.lock ∧ y.state = x.state := by
    intro x hx
    rw [hx, Option.map_some] at hh
    obtain ⟨y, hy, he⟩ := Option.map_eq_some_iff.1 hh.symm
    exact ⟨y, hy, congrArg Prod.snd he, congrArg Prod.fst he⟩
  refine ⟨fun x hx => ?_, fun hn => h.free ?_, fun x hx hs => ?_, fun v hv hs => ?_, fun hw => ⟨?_, fun x hx => ?_⟩⟩
  · obtain ⟨y, hy, hl, -⟩ := key x hx
    exact hl ▸ h.held y hy
  · rw [hn, Option.map_none, eq_comm, Option.map_eq_none_iff] at hh
    exact hh
  · obtain ⟨y, hy, hl, hst⟩ := key x hx
    exact hl ▸ h.damaged y hy (hst.trans hs)
  · rw [hv, Option.map_some] at hi
    obtain ⟨u, hu, hst⟩ := Option.map_eq_some_iff.1 hi.symm
    obtain ⟨y, hy, hpos⟩ := h.waiting u hu (hst.trans hs)
    rw [hy, Option.map_some] at hh
    obtain ⟨x, hx, he⟩ := Option.map_eq_some_iff.1 hh
    have hl : x.lock = y.lock := congrArg Prod.snd he
    exact ⟨x, hx, hl ▸ hpos⟩
  · rw [(h.withheld hw).1, Option.map_none, Option.map_eq_none_iff] at hi
    exact hi
  · obtain ⟨y, hy, hl, -⟩ := key x hx
    exact hl ▸ (h.withheld hw).2 y hy

/-! ## Keeping the laws -/

/-- Each law passes from one state to another, under the premises that its statement gives it. -/
structure Keeps (s t : State) : Prop where
  trains : TrainLaw s → TrainLaw t
  places : WithinPlaces s → WithinPlaces t
  totals : TotalsLaw s → TotalsLaw t
  queue : QueueLaw s → QueueLaw t
  roster : QueueLaw s → RosterLaw s → RosterLaw t
  locks : QueueLaw s → RosterLaw s → LockLaw s → LockLaw t

theorem Keeps.refl (s : State) : Keeps s s := ⟨id, id, id, id, fun _ => id, fun _ _ => id⟩

theorem Keeps.trans {s t u : State} (p : Keeps s t) (q : Keeps t u) : Keeps s u where
  trains h := q.trains (p.trains h)
  places h := q.places (p.places h)
  totals h := q.totals (p.totals h)
  queue h := q.queue (p.queue h)
  roster hq hr := q.roster (p.queue hq) (p.roster hq hr)
  locks hq hr hl := q.locks (p.queue hq) (p.roster hq hr) (p.locks hq hr hl)

theorem Keeps.foldl {α : Type} {f : State → α → State} (h : ∀ s x, Keeps s (f s x)) :
    ∀ (xs : List α) (s : State), Keeps s (xs.foldl f s)
  | [], s => .refl s
  | x :: xs, s => (h s x).trans (Keeps.foldl h xs (f s x))

/-- A change of Tile Intake keeps what the laws say outside it. -/
theorem Outside.keeps {s t : State} (o : Outside s t) (ht : TrainLaw s → TrainLaw t)
    (hl : QueueLaw s → RosterLaw s → LockLaw s → LockLaw t) : Keeps s t where
  trains := ht
  places h := h.congr (by simpa using congrArg List.length o.queue) o.calls o.waiting
  totals h := h.congr o.plans o.planRows o.planSeats
  queue h := h.congr o.plans (map_place_of_core o.queue) o.impression
  roster _ h := h.congr (fun i => by rw [o.records]; exact ⟨rfl, rfl, rfl⟩) o.plans o.staged
    (map_plan_of_place (map_place_of_core o.queue))
  locks := hl

theorem Neutral.trainLaw {s t : State} (n : Neutral s t) (h : TrainLaw s) : TrainLaw t :=
  h.congr n.trains fun i => by unfold Fills; rw [n.incoming]

theorem Neutral.lockLaw {s t : State} (n : Neutral s t) (h : LockLaw s) : LockLaw t :=
  h.of_outside n.toOutside fun i hi => hi.congr (n.held i) (n.incoming i)

/-- A neutral change keeps every law. -/
theorem Neutral.keeps {s t : State} (n : Neutral s t) : Keeps s t :=
  n.toOutside.keeps n.trainLaw fun _ _ => n.lockLaw

end Sys2Proof.Machine
end

section
/-!
The shared operations that no law of the state sees: what they change stands outside the laws, or leaves the places of
the calls within bounds. One lemma for each operation.
-/

namespace Sys2Proof.Machine

/-! ## Ports, notices and calls -/

/-- A change of one port is neutral where its calls stay within their places. -/
theorem neutral_setPort (l : Link) (p : Port) (s : State)
    (h : (∀ m, (portOf s m).calls.length ≤ Config.callPlaces) → p.calls.length ≤ Config.callPlaces) :
    Neutral s (setPort l p s) where
  waiting hw m := by
    by_cases hm : m = l
    · subst hm
      rw [portOf_setPort_same]
      exact h hw
    · rw [portOf_setPort_ne p s hm]
      exact hw m

/-- A change of one port that leaves its calls is neutral. -/
theorem neutral_modPort (l : Link) (f : Port → Port) (s : State)
    (h : (f (portOf s l)).calls = (portOf s l).calls := by rfl) : Neutral s (modPort l f s) :=
  neutral_setPort l _ s fun hw => by rw [h]; exact hw l

theorem neutral_latchKind (k : NoticeKind) (s : State) : Neutral s (latchKind k s) := by
  unfold latchKind
  split
  · exact .refl s
  · have h1 : Neutral s { s with notices.latched := s.notices.latched ||| kindBit k } := {}
    dsimp only
    split
    · exact h1.trans (neutral_modPort _ _ _)
    · exact h1

/-- Calls move to a queue as far as it has room (R160). -/
theorem neutral_moveWaiting (src dst : Link) (s : State) : Neutral s (moveWaiting src dst s) := by
  refine (neutral_setPort src _ s fun hw => ?_).trans (neutral_setPort dst _ _ fun hw => ?_)
  · have := hw src
    simp only [List.length_drop]
    omega
  · show ((portOf s dst).calls ++ (portOf s src).calls.take (Config.callPlaces - (portOf s dst).calls.length)).length ≤ _
    rw [List.length_append, List.length_take]
    by_cases hd : dst = src
    · subst hd
      have := hw dst
      rw [portOf_setPort_same] at this
      simp only [List.length_drop] at this
      omega
    · have := hw dst
      rw [portOf_setPort_ne _ s hd] at this
      omega

theorem neutral_rerouteWaiting (s : State) : Neutral s (rerouteWaiting s) := by
  unfold rerouteWaiting
  split
  · exact neutral_moveWaiting _ _ s
  · exact neutral_moveWaiting _ _ s
  · exact .refl s
  · exact .refl s

theorem neutral_countReceive (l : Link) (k : ReceiveCounter) (s : State) : Neutral s (countReceive l k s) := by
  unfold countReceive
  dsimp only
  split
  · exact (neutral_modPort _ _ s).trans (neutral_latchKind _ _)
  · exact neutral_modPort _ _ s

/-- Calls may leave the Call List. -/
theorem neutral_filterCalls (p : Call → Bool) (s : State) :
    Neutral s { s with seats.calls := s.seats.calls.filter p } where
  calls h := (List.length_filter_le _ _).trans h

theorem neutral_dropCall (s : State) : Neutral s (dropCall s) :=
  Neutral.trans (t := { s with seats.dropped := bump s.seats.dropped }) {} (neutral_latchKind _ _)

/-- A call joins the Call List and a call queue where both have a place (R87, R88). -/
theorem neutral_issueCall (tag : BitVec 16) (i : RosterIndex) (due : LineValue) (s : State) :
    Neutral s (issueCall tag i due s) := by
  unfold issueCall
  dsimp only
  split
  · rename_i h
    refine Neutral.trans (t := { s with seats.calls := List.insertIdx _ _ _ }) { calls := fun _ => ?_ }
      (neutral_setPort _ _ _ fun _ => ?_)
    · exact (List.length_insertIdx_le_succ).trans h.1
    · show ((portOf s _).calls ++ [_]).length ≤ _
      rw [List.length_append]
      exact h.2
  · exact neutral_dropCall s

/-! ## Logs, seat lines and the impression's counts -/

theorem neutral_changeRecord (q : BitVec 32) (f : DeliveryRecord → DeliveryRecord) (s : State) :
    Neutral s (changeRecord q f s) := by
  unfold changeRecord
  split
  · split
    · exact {}
    · exact .refl s
  · exact .refl s

theorem neutral_writeRecord (r : DeliveryRecord) (s : State) : Neutral s (writeRecord r s) := {}

/-- A change of the impression that leaves its order and its plan. -/
theorem neutral_modImpression (f : Impression → Impression) (s : State)
    (h : ∀ c, (f c).view = c.view := by intro c; rfl) : Neutral s (modImpression f s) where
  impression := by
    show (s.scheduler.impression.map f).map _ = _
    rw [Option.map_map]
    exact congrArg (fun g => s.scheduler.impression.map g) (funext h)

/-- A change of the head order that no law sees. -/
theorem neutral_modHead (f : Order → Order) (s : State) (h : ∀ o, (f o).core = o.core := by intro o; rfl) :
    Neutral s (modHead f s) := by
  unfold modHead
  split
  · exact .refl s
  · rename_i o os hq
    refine { queue := ?_ }
    rw [hq, List.map_cons, List.map_cons, h o]

theorem neutral_noteLate (o : Option Nat) (s : State) : Neutral s (noteLate o s) := by
  unfold noteLate
  split
  · exact .refl s
  · exact (neutral_latchKind _ s).trans (neutral_modImpression _ _)

theorem neutral_takeCallPoint (tag : BitVec 16) (n : Nat) (i : RosterIndex) (due : LineValue) (s : State) :
    Neutral s (takeCallPoint tag n i due s) := by
  unfold takeCallPoint
  dsimp only
  split
  · exact (neutral_modHead _ s).trans (neutral_issueCall _ _ _ _)
  · exact neutral_modHead _ s

theorem neutral_callSeatAt (tag : BitVec 16) (s : State) (x : Seat × Nat) : Neutral s (callSeatAt tag s x) := by
  unfold callSeatAt
  split
  · split
    · exact neutral_takeCallPoint _ _ _ _ s
    · exact .refl s
  · exact .refl s

theorem neutral_callSeatReached (tag : BitVec 16) (s : State) (x : Seat × Nat) :
    Neutral s (callSeatReached tag s x) := by
  unfold callSeatReached
  split
  · split
    · split
      · exact neutral_takeCallPoint _ _ _ _ s
      · exact .refl s
    · exact .refl s
  · exact .refl s

theorem neutral_overFirstSeats {f : BitVec 16 → State → Seat × Nat → State} (h : ∀ tag s x, Neutral s (f tag s x))
    (s : State) : Neutral s (overFirstSeats f s) := by
  unfold overFirstSeats
  split
  · split
    · exact Neutral.foldl (h _) _ s
    · exact .refl s
    · exact .refl s
  · exact .refl s

/-! ## Renders and the Press Port -/

theorem neutral_startRender (s : State) : Neutral s (startRender s) := by
  unfold startRender
  split
  · exact {}
  · exact .refl s

theorem neutral_endHold (k : Nat) (s : State) : Neutral s (endHold k s) := by
  unfold endHold
  split
  · split
    · exact Neutral.trans (t := { s with press.hold := .awaiting _ .buffer }) {} (neutral_modImpression _ _)
    · exact .refl s
  · exact .refl s
  · exact .refl s

/-- The hand-over of a caption record leaves the impression's order and plan. -/
theorem view_countCaption (c : Impression) (q : CaptionRecord) : (countCaption c q).view = c.view := by
  unfold countCaption
  split <;> rfl

/-- The hand-over of a render's marks leaves the impression's order and plan. -/
theorem view_handOver (qs : List Placement) (cs : List CaptionRecord) (c : Impression) :
    (handOver qs cs c).view = c.view := by
  unfold handOver
  exact List.foldlRecOn (motive := fun d : Impression => d.view = c.view) cs countCaption rfl
    fun d hd q _ => (view_countCaption d q).trans hd

theorem neutral_completeRender (g : Render) (s : State) : Neutral s (completeRender g s) := by
  unfold completeRender
  dsimp only
  refine Neutral.trans ?_ (neutral_endHold _ _)
  refine Neutral.trans (t := { s with renderer.buffers := _, renderer.current := none }) {}
    (neutral_modImpression _ _ fun c => view_handOver _ _ c)

theorem neutral_takeCompletion (work : Nat) (s : State) : Neutral s (takeCompletion work s) := by
  unfold takeCompletion
  split
  · split
    · exact neutral_completeRender _ s
    · exact .refl s
  · exact .refl s

theorem neutral_abandonRender (k : Nat) (s : State) : Neutral s (abandonRender k s) := by
  unfold abandonRender
  cases s.renderer.current with
  | none => exact {}
  | some g =>
    by_cases h : g.band = k
    · simp only [h, if_true]
      exact {}
    · simp only [h, if_false]
      exact {}

theorem neutral_fillBand (k : Nat) (s : State) : Neutral s (fillBand k s) :=
  ((neutral_abandonRender k s).trans (neutral_modImpression _ _)).trans (neutral_latchKind _ _)

theorem neutral_expireHold (s : State) : Neutral s (expireHold s) := by
  unfold expireHold
  split
  · refine Neutral.trans ?_ (neutral_fillBand _ _)
    exact (neutral_startRender s).trans {}
  · exact .refl s

theorem neutral_endBand (k : Nat) (s : State) : Neutral s (endBand k s) := by
  unfold endBand
  dsimp only
  split <;> exact {}

/-- A tick counts timers, which no law sees (R186). -/
theorem neutral_tick (s : State) : Neutral s (tick s) where
  trains l := by
    show (PerLink.get ⟨s.intake.trains.a.map tickTrain, s.intake.trains.b.map tickTrain⟩ l).map _ = _
    cases l <;> exact Option.map_map ..
  staged l x h := by
    refine Eq.trans (Eq.symm ?_) h
    have hm : ∀ y : Slot, (tickSlot y).staging.map Staging.target = y.staging.map Staging.target :=
      fun y => Option.map_map ..
    cases l <;> exact hm _
  waiting h m := by
    have := h m
    cases m <;> exact this

/-! ## Staging, conclusions and the exchange -/

/-- A slot whose staging is gone. -/
theorem neutral_setSlot_empty (l : Link) (x : Slot) (s : State) (hx : x.staging = none) :
    Neutral s (setSlot l x s) where
  staged m t h := by
    by_cases hm : m = l
    · subst hm
      rw [slotOf_setSlot_same, hx] at h
      cases h
    · refine Eq.trans ?_ h
      unfold slotOf setSlot
      rw [PerLink.get_set_ne _ _ hm]

/-- A slot whose staged target stays. -/
theorem neutral_setSlot_same (l : Link) (x : Slot) (s : State)
    (hx : x.staging.map Staging.target = (slotOf s l).staging.map Staging.target) : Neutral s (setSlot l x s) where
  staged m t h := by
    by_cases hm : m = l
    · subst hm
      rw [slotOf_setSlot_same, hx] at h
      exact h
    · refine Eq.trans ?_ h
      unfold slotOf setSlot
      rw [PerLink.get_set_ne _ _ hm]

theorem neutral_discardStaging (l : Link) (s : State) : Neutral s (discardStaging l s) :=
  neutral_setSlot_empty l _ s rfl

theorem neutral_supersede (l : Link) (s : State) : Neutral s (supersede l s) := by
  unfold supersede
  dsimp only
  split
  · exact neutral_setSlot_empty l _ s rfl
  · exact .refl s

theorem neutral_expireTable (l : Link) (s : State) : Neutral s (expireTable l s) := by
  unfold expireTable
  split
  · exact neutral_discardStaging l s
  · exact .refl s

theorem neutral_conclude (l : Link) (code : Byte) (tag : BitVec 16) (hall : Bool) (o : ControlOutcome)
    (data : List Byte) (pois : Bool) (s : State) : Neutral s (conclude l code tag hall o data pois s) := by
  have h1 : Neutral s (recordConclusion l code tag hall o s) := by
    unfold recordConclusion
    split
    · exact .refl s
    · exact {}
  unfold conclude
  dsimp only
  split
  · exact h1
  · refine h1.trans ?_
    unfold makeReply
    split
    · exact neutral_modPort _ _ _
    · exact .refl _

theorem neutral_enterFault (l : Link) (s : State) : Neutral s (enterFault l s) :=
  ((neutral_modPort l _ s).trans (neutral_latchKind _ _)).trans (neutral_rerouteWaiting _)

theorem neutral_enterUp (l : Link) (s : State) : Neutral s (enterUp l s) :=
  ((neutral_modPort l _ s).trans (neutral_latchKind _ _)).trans (neutral_rerouteWaiting _)

theorem neutral_takeAbility (l : Link) (x : Exchange) (page : List Byte) (s : State) :
    Neutral s (takeAbility l x page s) := by
  unfold takeAbility
  split
  · exact neutral_enterFault _ s
  · exact neutral_modPort _ _ s

theorem neutral_completeRound (l : Link) (x : Exchange) (page : List Byte) (s : State) :
    Neutral s (completeRound l x page s) := by
  unfold completeRound
  split
  · exact neutral_modPort _ _ s
  · exact neutral_enterUp _ s

theorem neutral_takeSignal (l : Link) (s : State) : Neutral s (takeSignal l s) := by
  unfold takeSignal
  dsimp only
  split <;> exact neutral_setPort _ _ s fun hw => hw l

theorem neutral_makeQuiet (l : Link) (s : State) : Neutral s (makeQuiet l s) :=
  (neutral_modPort l _ s).trans (neutral_rerouteWaiting _)

theorem neutral_makeUnquiet (l : Link) (s : State) : Neutral s (makeUnquiet l s) :=
  (neutral_modPort l _ s).trans (neutral_rerouteWaiting _)

/-- Both ports change, and neither its calls. -/
theorem neutral_ports {s : State} {p q : Port} (hp : p.calls = s.ports.a.calls) (hq : q.calls = s.ports.b.calls) :
    Neutral s { s with ports := ⟨p, q⟩ } where
  waiting hw m := by
    have := hw m
    cases m
    · exact hp ▸ this
    · exact hq ▸ this

theorem neutral_clearForUnitReset (s : State) : Neutral s (clearForUnitReset s) := by
  unfold clearForUnitReset
  refine Neutral.trans ?_ (neutral_rerouteWaiting _)
  refine (neutral_ports (p := { s.ports.a with quiet := false }) (q := { s.ports.b with quiet := false }) rfl rfl).trans ?_
  exact {}

theorem neutral_clearCounters (s : State) : Neutral s (clearCounters s) := by
  unfold clearCounters
  refine (neutral_ports (p := { s.ports.a with counters := Counters.zero })
    (q := { s.ports.b with counters := Counters.zero }) rfl rfl).trans { staged := fun l x h => ?_ }
  refine Eq.trans ?_ h
  cases l <;> rfl

theorem neutral_holdBack (l : Link) (i : Instr) (s : State) : Neutral s (holdBack l i s) := neutral_modPort _ _ s

/-! ## The return direction -/

theorem neutral_refillCalls (l : Link) (s : State) : Neutral s (refillCalls l s) := by
  unfold refillCalls
  split
  · rename_i c cs _ hc
    split
    · rename_i hl
      refine (neutral_setPort l.other _ s fun hw => ?_).trans (neutral_setPort l _ _ fun _ => ?_)
      · have := hw l.other
        rw [hc, List.length_cons] at this
        show cs.length ≤ _
        omega
      · have hne : portOf (modPort l.other (fun p => { p with calls := cs }) s) l = portOf s l :=
          portOf_setPort_ne _ s (fun h => Link.other_ne l h.symm)
        show ((portOf (modPort l.other (fun p => { p with calls := cs }) s) l).calls ++ [c]).length ≤ _
        rw [hne, List.length_append]
        exact hl
    · exact .refl s
  · exact .refl s
  · exact .refl s

theorem neutral_startWaiting (l : Link) (s : State) : Neutral s (startWaiting l s) := by
  unfold startWaiting
  dsimp only
  split
  · exact neutral_setPort _ _ s fun hw => hw l
  · rename_i cs _ hc
    refine (neutral_setPort _ _ s fun hw => ?_).trans (neutral_refillCalls _ _)
    have := hw l
    rw [hc, List.length_cons] at this
    show cs.length ≤ _
    omega
  · exact neutral_setPort _ _ s fun hw => hw l
  · exact neutral_setPort _ _ s fun hw => hw l

theorem neutral_freeReturn (l : Link) (s : State) : Neutral s (freeReturn l s) := by
  unfold freeReturn
  dsimp only
  split
  · exact neutral_setPort _ _ s fun hw => hw l
  · split
    · exact neutral_startWaiting l s
    all_goals exact neutral_setPort _ _ s fun hw => hw l

end Sys2Proof.Machine
end

section
/-!
Tile Intake and the Tile Memory Manager under the laws of trains and locks: what each operation leaves of the entries and
the train states, and that it keeps both laws where nothing outside changes.
-/

namespace Sys2Proof.Machine

/-! ## Keeping the laws of trains and locks -/

/-- Nothing outside Tile Intake differs, and the laws of trains and of locks pass on by themselves. -/
structure StoreStep (s t : State) : Prop extends Outside s t where
  trains : TrainLaw s → TrainLaw t
  locks : LockLaw s → LockLaw t

theorem StoreStep.refl (s : State) : StoreStep s s := ⟨.refl s, id, id⟩

theorem StoreStep.trans {s t u : State} (p : StoreStep s t) (q : StoreStep t u) : StoreStep s u :=
  ⟨p.toOutside.trans q.toOutside, fun h => q.trains (p.trains h), fun h => q.locks (p.locks h)⟩

theorem Neutral.storeStep {s t : State} (n : Neutral s t) : StoreStep s t := ⟨n.toOutside, n.trainLaw, n.lockLaw⟩

theorem StoreStep.keeps {s t : State} (p : StoreStep s t) : Keeps s t :=
  p.toOutside.keeps p.trains fun _ _ => p.locks

/-! ## What an entry fits -/

/-- The held version of an entry, if there is one, is not locked. -/
def Unlocked (e : DirEntry) : Prop := ∀ h : Held, e.held = some h → h.lock = 0

/-- An unlocked held version may go. -/
theorem EntryFits.emptyHeld {n : Nat} {w : Bool} {e : DirEntry} (h : EntryFits n w e) (hu : Unlocked e) :
    EntryFits n w { e with held := none } where
  held _ hx := by cases hx
  free _ := by
    cases he : e.held with
    | none => exact h.free he
    | some x => exact h.held x he ▸ hu x he
  damaged _ hx := by cases hx
  waiting v hv hs := by
    obtain ⟨x, hx, hpos⟩ := h.waiting v hv hs
    have := hu x hx
    omega
  withheld hw := ⟨(h.withheld hw).1, fun _ hx => by cases hx⟩

/-- An incoming version may go. -/
theorem EntryFits.emptyIncoming {n : Nat} {w : Bool} {e : DirEntry} (h : EntryFits n w e) :
    EntryFits n w { e with incoming := none } where
  held := h.held
  free := h.free
  damaged := h.damaged
  waiting _ hv := by cases hv
  withheld hw := ⟨rfl, (h.withheld hw).2⟩

/-- A FILLING version may come to a student who is not withheld. -/
theorem EntryFits.fill {n : Nat} {e : DirEntry} (h : EntryFits n false e) (v : Version) :
    EntryFits n false { e with incoming := some { version := v, state := .filling } } where
  held := h.held
  free := h.free
  damaged := h.damaged
  waiting _ hv hs := by cases hv; cases hs
  withheld hw := by cases hw

/-- Nobody withholds a student who has an incoming version. -/
theorem EntryFits.not_withheld {n : Nat} {w : Bool} {e : DirEntry} (h : EntryFits n w e) {v : Incoming}
    (hv : e.incoming = some v) : w = false := by
  cases w
  · rfl
  · rw [(h.withheld rfl).1] at hv
    cases hv

/-- A new held version with lock count 0 and nothing beside it. -/
theorem entryFits_fresh (v : Version) (st : HeldState) :
    EntryFits 0 false { held := some { version := v, state := st, lock := 0 }, incoming := none } where
  held _ hx := by cases hx; rfl
  free hn := by cases hn
  damaged _ hx _ := by cases hx; rfl
  waiting _ hv := by cases hv
  withheld hw := by cases hw

/-- An unlocked entry is locked by no order. -/
theorem EntryFits.locks_eq_zero {n : Nat} {w : Bool} {e : DirEntry} (h : EntryFits n w e) (hu : Unlocked e) : n = 0 := by
  cases he : e.held with
  | none => exact h.free he
  | some x => exact (h.held x he).symm.trans (hu x he)

/-! ## Freeing -/

theorem outside_freeHeld (i : RosterIndex) (s : State) : Outside s (freeHeld i s) := by
  rw [freeHeld_only]
  exact {}

theorem trainOf_freeHeld (i : RosterIndex) (s : State) (l : Link) : trainOf (freeHeld i s) l = trainOf s l := by
  rw [freeHeld_only]
  rfl

/-- The freeing of an unlocked held version keeps both laws. -/
theorem storeStep_freeHeld {i : RosterIndex} {s : State} (hu : Unlocked (entryOf s i)) :
    StoreStep s (freeHeld i s) where
  toOutside := outside_freeHeld i s
  trains h := h.congr (fun l => by rw [trainOf_freeHeld]) fun j => by unfold Fills; rw [incoming_of_freeHeld]
  locks h := h.of_outside (outside_freeHeld i s) fun j hj => by
    rw [(freeHeld_frame i j s).2]
    split
    · rename_i hji
      subst hji
      exact hj.emptyHeld hu
    · exact hj

/-- A reclaim candidate is not locked (R57). -/
theorem unlocked_of_candidate {i : RosterIndex} {s : State} (h : isCandidate i s = true) : Unlocked (entryOf s i) := by
  intro x hx
  unfold isCandidate at h
  rw [hx] at h
  simp only [Bool.and_eq_true, decide_eq_true_eq] at h
  exact h.1

theorem storeStep_reclaimWalk (n : Nat) : ∀ (is : List RosterIndex) (s : State), StoreStep s (reclaimWalk n is s)
  | [], s => .refl s
  | i :: rest, s => by
    unfold reclaimWalk
    split
    · exact .refl s
    · split
      · rename_i hc
        exact (storeStep_freeHeld (unlocked_of_candidate hc)).trans (storeStep_reclaimWalk n rest _)
      · exact storeStep_reclaimWalk n rest s

theorem storeStep_latchStoreLow (s : State) : StoreStep s (latchStoreLow s) := by
  unfold latchStoreLow
  split
  · exact (neutral_latchKind _ s).storeStep
  · exact .refl s

theorem storeStep_lowWaterTest (s : State) : StoreStep s (lowWaterTest s) := by
  unfold lowWaterTest
  split
  · exact (storeStep_reclaimWalk _ _ s).trans (storeStep_latchStoreLow _)
  · exact .refl s

theorem storeStep_reclaimAtOpen (n : Nat) (s : State) : StoreStep s (reclaimAtOpen n s) := by
  unfold reclaimAtOpen
  split
  · exact storeStep_reclaimWalk n _ s
  · exact .refl s

theorem trainOf_lowWaterTest (s : State) (l : Link) : trainOf (lowWaterTest s) l = trainOf s l := by
  rw [lowWaterTest_only]
  rfl

theorem trainOf_reclaimAtOpen (n : Nat) (s : State) (l : Link) : trainOf (reclaimAtOpen n s) l = trainOf s l := by
  unfold reclaimAtOpen
  split
  · rw [reclaim_only]
    rfl
  · rfl

/-! ## Trains that go -/

/-- An open train goes, and with it the FILLING version of its index alone. -/
theorem TrainLaw.remove {s t : State} (h : TrainLaw s) {l : Link} {x : Train} (hx : trainOf s l = some x)
    (hl : trainOf t l = none) (ho : (trainOf t l.other).map Train.index = (trainOf s l.other).map Train.index)
    (hf : ∀ i, Fills (entryOf t i) ↔ Fills (entryOf s i) ∧ i ≠ x.index) : TrainLaw t := by
  obtain ⟨h1, h2⟩ := (trainLaw_iff s).1 h
  refine (trainLaw_iff t).2 ⟨fun i => ?_, fun i => ?_⟩
  · rw [hf, h1]
    cases l
    · constructor
      · rintro ⟨⟨m, hm⟩, hne⟩
        cases m
        · rw [hx] at hm
          exact absurd (Option.some.inj hm).symm hne
        · exact ⟨.b, ho.trans hm⟩
      · rintro ⟨m, hm⟩
        cases m
        · rw [hl] at hm
          cases hm
        · refine ⟨⟨.b, ho.symm.trans hm⟩, ?_⟩
          rintro rfl
          exact h2 x.index ⟨by rw [hx]; rfl, ho.symm.trans hm⟩
    · constructor
      · rintro ⟨⟨m, hm⟩, hne⟩
        cases m
        · exact ⟨.a, ho.trans hm⟩
        · rw [hx] at hm
          exact absurd (Option.some.inj hm).symm hne
      · rintro ⟨m, hm⟩
        cases m
        · refine ⟨⟨.a, ho.symm.trans hm⟩, ?_⟩
          rintro rfl
          exact h2 x.index ⟨ho.symm.trans hm, by rw [hx]; rfl⟩
        · rw [hl] at hm
          cases hm
  · rintro ⟨h3, h4⟩
    cases l
    · rw [hl] at h3
      cases h3
    · rw [hl] at h4
      cases h4

theorem outside_freeIncoming (i : RosterIndex) (s : State) : Outside s (freeIncoming i s) := by
  unfold freeIncoming
  split <;> exact {}

theorem trainOf_freeIncoming (i : RosterIndex) (s : State) (l : Link) : trainOf (freeIncoming i s) l = trainOf s l := by
  unfold freeIncoming
  split <;> rfl

/-- The freeing of an incoming version keeps the law of the locks. -/
theorem lockLaw_freeIncoming {i : RosterIndex} {s : State} (h : LockLaw s) : LockLaw (freeIncoming i s) :=
  h.of_outside (outside_freeIncoming i s) fun j hj => by
    rw [(freeIncoming_frame i j s).2]
    split
    · rename_i hji
      subst hji
      exact hj.emptyIncoming
    · exact hj

/-- What voiding an open train comes to, but for what no law sees. -/
theorem voidTrain_neutral {l : Link} {x : Train} {s : State} (hx : trainOf s l = some x) (o : Option Delivery) :
    Neutral (setTrain l none (freeIncoming x.index s)) (voidTrain l o s) := by
  unfold voidTrain
  rw [hx]
  dsimp only
  refine Neutral.trans ?_ (neutral_latchKind _ _)
  split
  · exact neutral_changeRecord _ _ _
  · exact neutral_changeRecord _ _ _

theorem voidTrain_of_idle {l : Link} {s : State} (h : trainOf s l = none) (o : Option Delivery) :
    voidTrain l o s = s := by
  unfold voidTrain
  rw [h]

theorem storeStep_voidTrain (l : Link) (o : Option Delivery) (s : State) : StoreStep s (voidTrain l o s) := by
  cases hx : trainOf s l with
  | none =>
    rw [voidTrain_of_idle hx]
    exact .refl s
  | some x =>
    have hn := voidTrain_neutral hx o
    have ho : Outside s (setTrain l none (freeIncoming x.index s)) := (outside_freeIncoming x.index s).trans {}
    refine ⟨ho.trans hn.toOutside, fun h => hn.trainLaw (h.remove hx ?_ ?_ fun i => ?_), fun h => hn.lockLaw ?_⟩
    · exact trainOf_setTrain_same l none _
    · rw [trainOf_setTrain_other, trainOf_freeIncoming]
    · rw [entryOf_setTrain, (freeIncoming_frame x.index i s).2]
      split
      · rename_i hi
        constructor
        · intro hf
          cases hf
        · exact fun hf => absurd hi hf.2
      · rename_i hi
        exact ⟨fun hf => ⟨hf, hi⟩, fun hf => hf.1⟩
    · exact (lockLaw_freeIncoming (i := x.index) h).of_outside {} fun _ hj => hj

/-- The train of a link after a voiding. -/
theorem trainOf_voidTrain_index (l m : Link) (o : Option Delivery) (s : State) :
    (trainOf (voidTrain l o s) m).map Train.index = if m = l then none else (trainOf s m).map Train.index := by
  cases hx : trainOf s l with
  | none =>
    rw [voidTrain_of_idle hx]
    split
    · rename_i h
      rw [h, hx]
      rfl
    · rfl
  | some x =>
    rw [(voidTrain_neutral hx o).trains m]
    split
    · rename_i hm
      rw [hm, trainOf_setTrain_same]
      rfl
    · rename_i hm
      rw [← trainOf_freeIncoming x.index s m]
      unfold trainOf setTrain
      rw [PerLink.get_set_ne _ _ hm]

theorem trainOf_voidTrain_same (l : Link) (o : Option Delivery) (s : State) : trainOf (voidTrain l o s) l = none := by
  have := trainOf_voidTrain_index l l o s
  rw [if_pos rfl, Option.map_eq_none_iff] at this
  exact this

theorem storeStep_voidTrainIf (i : RosterIndex) (o : Delivery) (l : Link) (s : State) :
    StoreStep s (voidTrainIf i o l s) := by
  unfold voidTrainIf
  split
  · split
    · exact storeStep_voidTrain _ _ s
    · exact .refl s
  · exact .refl s

/-- The trains' indices after the train of an index has gone from one link. -/
theorem trainOf_voidTrainIf_index (i : RosterIndex) (o : Delivery) (l m : Link) (s : State) :
    (trainOf (voidTrainIf i o l s) m).map Train.index =
      if m = l ∧ (trainOf s m).map Train.index = some i then none else (trainOf s m).map Train.index := by
  unfold voidTrainIf
  split
  · rename_i t ht
    split
    · rename_i hi
      rw [trainOf_voidTrain_index]
      by_cases hm : m = l
      · subst hm
        rw [if_pos rfl, if_pos ⟨rfl, by rw [ht, Option.map_some, hi]⟩]
      · rw [if_neg hm, if_neg fun h => hm h.1]
    · rename_i hi
      rw [if_neg]
      rintro ⟨rfl, h⟩
      rw [ht] at h
      exact hi (Option.some.inj h)
  · rename_i ht
    rw [if_neg]
    rintro ⟨rfl, h⟩
    rw [ht] at h
    cases h

/-- Once the train of an index has been voided, no train is open for it, and every other train stands. -/
theorem trainOf_voidTrainOf_index (i : RosterIndex) (o : Delivery) (m : Link) (s : State) :
    (trainOf (voidTrainOf i o s) m).map Train.index =
      if (trainOf s m).map Train.index = some i then none else (trainOf s m).map Train.index := by
  unfold voidTrainOf
  rw [trainOf_voidTrainIf_index, trainOf_voidTrainIf_index]
  cases m <;> simp

theorem storeStep_voidTrainOf (i : RosterIndex) (o : Delivery) (s : State) : StoreStep s (voidTrainOf i o s) :=
  (storeStep_voidTrainIf i o .a s).trans (storeStep_voidTrainIf i o .b _)

/-- The freeing of an incoming version for which no train is open keeps both laws. -/
theorem storeStep_freeIncoming {i : RosterIndex} {s : State} (h : ¬OpenFor s i) : StoreStep s (freeIncoming i s) where
  toOutside := outside_freeIncoming i s
  trains ht := ht.congr (fun l => by rw [trainOf_freeIncoming]) fun j => by
    rw [(freeIncoming_frame i j s).2]
    split
    · rename_i hj
      subst hj
      refine iff_of_false (fun hf => by cases hf) fun hf => h ?_
      exact (((trainLaw_iff s).1 ht).1 j).1 hf
    · rfl
  locks := lockLaw_freeIncoming

theorem not_openFor_voidTrainOf (i : RosterIndex) (o : Delivery) (s : State) : ¬OpenFor (voidTrainOf i o s) i := by
  rintro ⟨l, h⟩
  rw [trainOf_voidTrainOf_index] at h
  split at h
  · cases h
  · rename_i hn
    exact hn h

theorem storeStep_dropIncoming (i : RosterIndex) (o : Delivery) (s : State) : StoreStep s (dropIncoming i o s) :=
  (storeStep_voidTrainOf i o s).trans (storeStep_freeIncoming (not_openFor_voidTrainOf i o s))

/-- The trains' indices after an entry has lost its incoming version. -/
theorem trainOf_dropIncoming_index (i : RosterIndex) (o : Delivery) (m : Link) (s : State) :
    (trainOf (dropIncoming i o s) m).map Train.index =
      if (trainOf s m).map Train.index = some i then none else (trainOf s m).map Train.index := by
  unfold dropIncoming
  rw [trainOf_freeIncoming, trainOf_voidTrainOf_index]

theorem storeStep_expireTrain (l : Link) (s : State) : StoreStep s (expireTrain l s) := by
  unfold expireTrain
  split
  · exact storeStep_voidTrain _ _ s
  · exact .refl s

theorem storeStep_expireTrains (s : State) : StoreStep s (expireTrains s) :=
  (((storeStep_expireTrain .a s).trans (storeStep_expireTrain .b _)).trans
    (neutral_expireTable .a _).storeStep).trans (neutral_expireTable .b _).storeStep

/-! ## Trains that open -/

/-- A train opens on an idle link for an index that no train is open for. -/
theorem TrainLaw.add {s t : State} (h : TrainLaw s) {l : Link} {i : RosterIndex} (hs : trainOf s l = none)
    (hn : ¬OpenFor s i) (hl : (trainOf t l).map Train.index = some i)
    (ho : (trainOf t l.other).map Train.index = (trainOf s l.other).map Train.index)
    (hf : ∀ j, Fills (entryOf t j) ↔ Fills (entryOf s j) ∨ j = i) : TrainLaw t := by
  obtain ⟨h1, -⟩ := (trainLaw_iff s).1 h
  refine (trainLaw_iff t).2 ⟨fun j => ?_, fun j hj => ?_⟩
  · rw [hf, h1]
    constructor
    · rintro (⟨m, hm⟩ | rfl)
      · by_cases hml : m = l
        · rw [hml, hs] at hm
          cases hm
        · refine ⟨l.other, ho.trans ?_⟩
          rw [show l.other = m by cases l <;> cases m <;> simp_all [Link.other]]
          exact hm
      · exact ⟨l, hl⟩
    · rintro ⟨m, hm⟩
      by_cases hml : m = l
      · rw [hml, hl] at hm
        exact .inr (Option.some.inj hm).symm
      · have hmo : m = l.other := by cases l <;> cases m <;> simp_all [Link.other]
        rw [hmo, ho] at hm
        exact .inl ⟨l.other, hm⟩
  · have key : (trainOf t l).map Train.index = some j ∧ (trainOf t l.other).map Train.index = some j := by
      cases l
      · exact hj
      · exact hj.symm
    have hji : i = j := Option.some.inj (hl.symm.trans key.1)
    subst hji
    exact hn ⟨l.other, ho.symm.trans key.2⟩

/-- What opening a train comes to, but for what no law sees. -/
theorem openTrain_eq (l : Link) (h : TileHead) (i : RosterIndex) (n : Fin 16) (blocks : List Nat) (s : State) :
    ∃ t : Train, t.index = i ∧ Neutral
      (setTrain l (some t) (setEntry i
        { entryOf (dropIncoming i .superseded s) i with
          incoming := some { version := newVersion l h n blocks s, state := .filling } }
        (dropIncoming i .superseded s))) (openTrain l h i n blocks s) :=
  ⟨_, rfl, neutral_writeRecord _ _⟩

theorem storeStep_openTrain {l : Link} {i : RosterIndex} {s : State} (hl : trainOf s l = none)
    (hw : (recordOf s i).withheld = false) (h : TileHead) (n : Fin 16) (blocks : List Nat) :
    StoreStep s (openTrain l h i n blocks s) := by
  obtain ⟨t, ht, hn⟩ := openTrain_eq l h i n blocks s
  refine (storeStep_dropIncoming i .superseded s).trans (StoreStep.trans ⟨{}, fun hs => ?_, fun hs => ?_⟩ hn.storeStep)
  · have hidx := fun m => trainOf_dropIncoming_index i .superseded m s
    refine hs.add (l := l) (i := i) ?_ ?_ ?_ ?_ fun j => ?_
    · have := hidx l
      rw [hl, Option.map_none, if_neg nofun, Option.map_eq_none_iff] at this
      exact this
    · rintro ⟨m, hm⟩
      rw [hidx m] at hm
      split at hm
      · cases hm
      · rename_i hne
        exact hne hm
    · rw [trainOf_setTrain_same, Option.map_some, ht]
    · rw [trainOf_setTrain_other, trainOf_setEntry]
    · rw [entryOf_setTrain]
      by_cases hj : j = i
      · subst hj
        rw [entryOf_setEntry_same]
        exact iff_of_true rfl (.inr rfl)
      · rw [entryOf_setEntry_ne _ _ hj]
        exact ⟨.inl, fun hf => hf.resolve_right hj⟩
  · refine hs.of_outside {} fun j hj => ?_
    rw [entryOf_setTrain]
    by_cases hji : j = i
    · subst hji
      rw [(storeStep_dropIncoming j .superseded s).records, hw] at hj ⊢
      rw [entryOf_setEntry_same]
      exact hj.fill _
    · rw [entryOf_setEntry_ne _ _ hji]
      exact hj

theorem storeStep_refuseHead (l : Link) (o : Delivery) (id : BitVec 32) (i : Option RosterIndex) (s : State) :
    StoreStep s (refuseHead l o id i s) :=
  ((neutral_writeRecord _ s).trans (neutral_latchKind _ _)).storeStep

theorem trainOf_takeBlocks (n : Nat) (s : State) (l : Link) : trainOf (takeBlocks n s) l = trainOf s l := rfl

theorem storeStep_takeBlocks (n : Nat) (s : State) : StoreStep s (takeBlocks n s) := Neutral.storeStep {}

theorem storeStep_reserveAndOpen {l : Link} {i : RosterIndex} {s : State} (hl : trainOf s l = none)
    (hw : (recordOf s i).withheld = false) (h : TileHead) (n : Fin 16) :
    StoreStep s (reserveAndOpen l h i n s) := by
  unfold reserveAndOpen
  dsimp only
  generalize blocksNeeded h.width h.height = need
  have h1 := storeStep_reclaimAtOpen need s
  split
  · exact (h1.trans (storeStep_refuseHead _ _ _ _ _)).trans (storeStep_latchStoreLow _)
  · have h2 : StoreStep s (lowWaterTest (takeBlocks need (reclaimAtOpen need s))) :=
      (h1.trans (storeStep_takeBlocks need _)).trans (storeStep_lowWaterTest _)
    refine h2.trans (storeStep_openTrain ?_ ?_ h n _)
    · rw [trainOf_lowWaterTest, trainOf_takeBlocks]
      exact (trainOf_reclaimAtOpen _ s l).trans hl
    · rw [h2.records]
      exact hw

/-- A head that passes its checks names a student who is not withheld (R25). -/
theorem not_withheld_of_checkHead {p : List Byte} {s : State} {i : RosterIndex} {n : Fin 16}
    (h : checkHead p s = .passed i n) : (recordOf s i).withheld = false := by
  unfold checkHead at h
  dsimp only at h
  split at h
  · cases h
  · split at h
    · cases h
    · split at h
      · cases h
      · rename_i hw
        split at h
        · cases h
        · split at h
          · cases h
          · split at h
            · cases h
              simpa using hw
            · cases h

theorem storeStep_takeTileHead (l : Link) (w : Wire) (s : State) : StoreStep s (takeTileHead l w s) := by
  have h1 := storeStep_voidTrain l (some .superseded) s
  unfold takeTileHead
  dsimp only
  split
  · exact h1.trans (storeStep_refuseHead _ _ _ _ _)
  · rename_i i n hc
    exact h1.trans (storeStep_reserveAndOpen (trainOf_voidTrain_same l _ s) (not_withheld_of_checkHead hc) _ n)

/-! ## Trains that close -/

/-- An entry after a READY result has been filed in it (R34). -/
def filedReady (v : Version) (e : DirEntry) : DirEntry :=
  match e.held with
  | none => { held := some { version := v, state := .ready, lock := 0 }, incoming := none }
  | some h =>
    if h.lock = 0 then
      { held := some { version := { v with retake := true }, state := .ready, lock := 0 }, incoming := none }
    else { e with incoming := some { version := { v with retake := true }, state := .waiting } }

/-- An entry after a DAMAGED result has been filed in it (R35). -/
def filedDamaged (v : Version) (e : DirEntry) : DirEntry :=
  match e.held with
  | none => { held := some { version := v, state := .damaged, lock := 0 }, incoming := none }
  | some h =>
    match h.state with
    | .damaged => { held := some { version := v, state := .damaged, lock := 0 }, incoming := none }
    | .ready => { e with incoming := none }

/-- A version that becomes the held one changes the one entry. -/
theorem entryOf_becomeHeld (i j : RosterIndex) (st : HeldState) (v : Version) (s : State) :
    entryOf (becomeHeld i st v s) j =
      if j = i then { held := some { version := v, state := st, lock := 0 }, incoming := none } else entryOf s j := by
  show entryOf (setEntry i _ s) j = _
  split
  · rename_i h
    rw [h, entryOf_setEntry_same]
  · rw [entryOf_setEntry_ne _ _ (by assumption)]

theorem entryOf_emptyIncoming_ne {i j : RosterIndex} (h : j ≠ i) (s : State) :
    entryOf (emptyIncoming i s) j = entryOf s j := entryOf_setEntry_ne _ s h

/-- Filing a READY result changes the one entry, as `filedReady` says. -/
theorem entryOf_fileReady (i j : RosterIndex) (v : Version) (s : State) :
    entryOf (fileReady i v s).1 j = if j = i then filedReady v (entryOf s i) else entryOf s j := by
  unfold fileReady filedReady
  cases hh : (entryOf s i).held with
  | none =>
    dsimp only
    rw [entryOf_becomeHeld]
    split
    · rfl
    · rename_i hj
      rw [entryOf_emptyIncoming_ne hj]
  | some h =>
    dsimp only
    split
    · rw [entryOf_becomeHeld]
      split
      · rfl
      · rename_i hj
        rw [(freeHeld_frame _ _ _).2, if_neg hj, entryOf_emptyIncoming_ne hj]
    · split
      · rename_i hj
        rw [hj, entryOf_setEntry_same]
        simp only [hh]
      · rename_i hj
        rw [entryOf_setEntry_ne _ _ hj]

/-- Filing a DAMAGED result changes the one entry, as `filedDamaged` says. -/
theorem entryOf_fileDamaged (i j : RosterIndex) (v : Version) (s : State) :
    entryOf (fileDamaged i v s).1 j = if j = i then filedDamaged v (entryOf s i) else entryOf s j := by
  unfold fileDamaged filedDamaged
  dsimp only
  rw [(latchKind_leaves _ _ _).2]
  cases hh : (entryOf s i).held with
  | none =>
    dsimp only
    rw [entryOf_becomeHeld]
    split
    · rfl
    · rename_i hj
      rw [entryOf_emptyIncoming_ne hj]
  | some h =>
    dsimp only
    cases h.state with
    | damaged =>
      dsimp only
      rw [entryOf_becomeHeld]
      split
      · rfl
      · rename_i hj
        rw [(freeHeld_frame _ _ _).2, if_neg hj, entryOf_emptyIncoming_ne hj]
    | ready =>
      show entryOf (setEntry i _ s) j = _
      split
      · rename_i hj
        rw [hj, entryOf_setEntry_same]
        simp only [hh]
      · rename_i hj
        rw [entryOf_setEntry_ne _ _ hj]

theorem outside_fileReady (i : RosterIndex) (v : Version) (s : State) : Outside s (fileReady i v s).1 := by
  unfold fileReady
  split
  · exact {}
  · dsimp only
    split
    · exact Outside.trans (t := freeHeld i (emptyIncoming i s))
        (Outside.trans (t := emptyIncoming i s) {} (outside_freeHeld _ _)) {}
    · exact {}

theorem outside_fileDamaged (i : RosterIndex) (v : Version) (s : State) : Outside s (fileDamaged i v s).1 := by
  unfold fileDamaged
  dsimp only
  refine Outside.trans ?_ (neutral_latchKind _ _).toOutside
  split
  · exact {}
  · split
    · exact Outside.trans (t := freeHeld i (emptyIncoming i s))
        (Outside.trans (t := emptyIncoming i s) {} (outside_freeHeld _ _)) {}
    · exact {}

theorem trainOf_fileReady (i : RosterIndex) (v : Version) (s : State) (l : Link) :
    trainOf (fileReady i v s).1 l = trainOf s l := by
  unfold fileReady
  split
  · rfl
  · dsimp only
    split
    · exact trainOf_freeHeld i _ l
    · rfl

theorem trainOf_latchKind (k : NoticeKind) (s : State) (l : Link) : trainOf (latchKind k s) l = trainOf s l := by
  rw [latchKind_only]
  rfl

theorem trainOf_fileDamaged (i : RosterIndex) (v : Version) (s : State) (l : Link) :
    trainOf (fileDamaged i v s).1 l = trainOf s l := by
  unfold fileDamaged
  dsimp only
  rw [trainOf_latchKind]
  split
  · rfl
  · split
    · exact trainOf_freeHeld i _ l
    · rfl

/-- Neither filing leaves a FILLING version. -/
theorem not_fills_filedReady (v : Version) (e : DirEntry) : ¬Fills (filedReady v e) := by
  unfold filedReady
  split
  · nofun
  · split <;> nofun

theorem not_fills_filedDamaged (v : Version) (e : DirEntry) : ¬Fills (filedDamaged v e) := by
  unfold filedDamaged
  split
  · nofun
  · split <;> nofun

/-- An entry with an incoming version fits as before once a READY result has been filed in it (R34). -/
theorem EntryFits.filedReady {n : Nat} {w : Bool} {e : DirEntry} (h : EntryFits n w e) {inc : Incoming}
    (hi : e.incoming = some inc) (v : Version) : EntryFits n w (filedReady v e) := by
  have hw : w = false := h.not_withheld hi
  subst hw
  unfold Machine.filedReady
  split
  · rename_i hh
    rw [h.free hh]
    exact entryFits_fresh v .ready
  · rename_i x hx
    split
    · rename_i h0
      rw [← h.held x hx, h0]
      exact entryFits_fresh _ .ready
    · rename_i h0
      exact ⟨h.held, h.free, h.damaged, fun _ _ _ => ⟨x, hx, Nat.pos_of_ne_zero h0⟩, nofun⟩

/-- The same for a DAMAGED result (R35). -/
theorem EntryFits.filedDamaged {n : Nat} {w : Bool} {e : DirEntry} (h : EntryFits n w e) {inc : Incoming}
    (hi : e.incoming = some inc) (v : Version) : EntryFits n w (filedDamaged v e) := by
  have hw : w = false := h.not_withheld hi
  subst hw
  unfold Machine.filedDamaged
  split
  · rename_i hh
    rw [h.free hh]
    exact entryFits_fresh v .damaged
  · rename_i x hx
    split
    · rename_i hs
      rw [← h.held x hx, h.damaged x hx hs]
      exact entryFits_fresh v .damaged
    · exact h.emptyIncoming

/-- What closing an open train comes to, but for what no law sees: a filing of its version, if it has one. -/
theorem closeTrain_neutral {l : Link} {x : Train} {s : State} (hx : trainOf s l = some x) (b : Bool) :
    ((entryOf s x.index).incoming = none ∧ closeTrain l b s = setTrain l none s)
    ∨ ∃ (inc : Incoming) (v : Version), (entryOf s x.index).incoming = some inc
      ∧ (Neutral (fileReady x.index v (setTrain l none s)).1 (closeTrain l b s)
        ∨ Neutral (fileDamaged x.index v (setTrain l none s)).1 (closeTrain l b s)) := by
  unfold closeTrain
  rw [hx]
  dsimp only
  split
  · rename_i hi
    exact .inl ⟨hi, rfl⟩
  · rename_i inc hi
    refine .inr ⟨inc, { inc.version with
      closeMark := some s.timeMark
      late := inc.version.late || (lateSeat (setTrain l none s) x.index).isSome }, hi, ?_⟩
    by_cases hr : (b && decide (inc.version.rows = inc.version.height) && !inc.version.poisonedSeen) = true
    all_goals simp only [hr, if_true, Bool.false_eq_true, if_false]
    · refine .inl ?_
      refine Neutral.trans ?_ (neutral_changeRecord _ _ _)
      exact (neutral_filterCalls _ _).trans (neutral_noteLate _ _)
    · refine .inr ?_
      exact (neutral_noteLate _ _).trans (neutral_changeRecord _ _ _)

/-- A filing of the version of an open train that goes keeps both laws. -/
theorem storeStep_filed {s u : State} {l : Link} {x : Train} {e : DirEntry} (hx : trainOf s l = some x) (ho : Outside s u)
    (ht : ∀ m, trainOf u m = trainOf (setTrain l none s) m)
    (he : ∀ j, entryOf u j = if j = x.index then e else entryOf s j) (hf : ¬Fills e)
    (hfit : ∀ n w, EntryFits n w (entryOf s x.index) → EntryFits n w e) : StoreStep s u where
  toOutside := ho
  trains h := by
    refine h.remove hx ((ht l).trans (trainOf_setTrain_same l none s))
      (by rw [ht, trainOf_setTrain_other]) fun j => ?_
    rw [he]
    split
    · rename_i hj
      exact iff_of_false hf fun h => h.2 hj
    · rename_i hj
      exact ⟨fun h => ⟨h, hj⟩, fun h => h.1⟩
  locks h := h.of_outside ho fun j hj => by
    rw [he]
    split
    · rename_i hji
      rw [hji] at hj ⊢
      exact hfit _ _ hj
    · exact hj

theorem storeStep_closeTrain (l : Link) (b : Bool) (s : State) : StoreStep s (closeTrain l b s) := by
  cases hx : trainOf s l with
  | none =>
    unfold closeTrain
    rw [hx]
    exact .refl s
  | some x =>
    have h0 : Outside s (setTrain l none s) := {}
    rcases closeTrain_neutral hx b with ⟨hi, he⟩ | ⟨inc, v, hi, hn | hn⟩
    · rw [he]
      refine ⟨h0, fun h => ?_, fun h => h.of_outside h0 fun _ hj => hj⟩
      obtain ⟨u, hu, -⟩ := h.fills l x hx
      rw [hi] at hu
      cases hu
    · refine (storeStep_filed (e := filedReady v (entryOf s x.index)) hx (h0.trans (outside_fileReady x.index v _))
        (fun m => trainOf_fileReady x.index v _ m) (fun j => entryOf_fileReady x.index j v _)
        (not_fills_filedReady v _) fun n w h => h.filedReady hi v).trans hn.storeStep
    · refine (storeStep_filed (e := filedDamaged v (entryOf s x.index)) hx
        (h0.trans (outside_fileDamaged x.index v _)) (fun m => trainOf_fileDamaged x.index v _ m)
        (fun j => entryOf_fileDamaged x.index j v _) (not_fills_filedDamaged v _)
        fun n w h => h.filedDamaged hi v).trans hn.storeStep

/-- A train that goes on with its index. -/
theorem neutral_setTrain {l : Link} {x y : Train} {s : State} (hx : trainOf s l = some x) (hi : y.index = x.index) :
    Neutral s (setTrain l (some y) s) where
  trains m := by
    by_cases hm : m = l
    · subst hm
      rw [trainOf_setTrain_same, hx, Option.map_some, Option.map_some, hi]
    · unfold trainOf setTrain
      rw [PerLink.get_set_ne _ _ hm]

/-- A version after its next row has been received (R28, R31). -/
def rowReceived (poisoned : Bool) (v : Version) : Version :=
  { v with rows := v.rows + 1, poisonedSeen := v.poisonedSeen || poisoned }

/-- A stored row changes the one entry. -/
theorem entryOf_storeRow (i j : RosterIndex) (v : Version) (w : Wire) (s : State) :
    entryOf (storeRow i v w s) j =
      if j = i then { entryOf s i with incoming := some { version := rowReceived w.poisoned v, state := .filling } }
      else entryOf s j := by
  show entryOf (setEntry _ _ _) j = _
  split
  · rename_i hj
    rw [hj, entryOf_setEntry_same]
    rfl
  · rename_i hj
    rw [entryOf_setEntry_ne _ _ hj]
    rfl

/-- A stored row keeps both laws where the train that it belongs to is open. -/
theorem storeStep_storeRow {l : Link} {x : Train} {s : State} {inc : Incoming} (hx : trainOf s l = some x)
    (hi : (entryOf s x.index).incoming = some inc) (w : Wire) :
    StoreStep s (storeRow x.index inc.version w s) := by
  have ho : Outside s (storeRow x.index inc.version w s) := {}
  refine ⟨ho, fun h => h.congr (fun _ => rfl) fun j => ?_, fun h => h.of_outside ho fun j hj => ?_⟩
  · rw [entryOf_storeRow]
    split
    · rename_i hj
      rw [hj]
      exact iff_of_true rfl ((fills_iff _).2 (h.fills l x hx))
    · rfl
  · rw [entryOf_storeRow]
    split
    · rename_i hji
      rw [hji] at hj ⊢
      have hw := hj.not_withheld hi
      rw [hw] at hj ⊢
      exact hj.fill _
    · exact hj

theorem storeStep_takeTileBody (l : Link) (w : Wire) (s : State) : StoreStep s (takeTileBody l w s) := by
  unfold takeTileBody
  split
  · exact (neutral_countReceive _ _ s).storeStep
  · rename_i x hx
    split
    · exact (neutral_countReceive _ _ s).storeStep
    · rename_i inc hi
      split
      · have h1 : StoreStep s (setTrain l (some { x with lastRow := some (bodyRow w.payload), gapTimer := 0 })
            (storeRow x.index inc.version w s)) :=
          StoreStep.trans (storeStep_storeRow hx hi w) (Neutral.storeStep
            (neutral_setTrain (show trainOf (storeRow x.index inc.version w s) l = some x from hx) rfl))
        dsimp only
        split
        · exact h1.trans (storeStep_closeTrain _ _ _)
        · exact h1
      · split
        · exact storeStep_closeTrain _ _ s
        · exact Neutral.storeStep (neutral_setTrain hx rfl)
      · exact storeStep_closeTrain _ _ s

/-! ## Dropping and purging -/

/-- The clearing of an entry whose held version is not locked keeps both laws. -/
theorem storeStep_clearEntry {i : RosterIndex} {s : State} (hu : Unlocked (entryOf s i)) :
    StoreStep s (clearEntry i s) := by
  refine (storeStep_dropIncoming i .abandoned s).trans (storeStep_freeHeld ?_)
  have hh : (entryOf (dropIncoming i .abandoned s) i).held = (entryOf s i).held := by
    unfold dropIncoming voidTrainOf
    rw [(freeIncoming_frame _ _ _).2, if_pos rfl]
    exact ((voidTrainIf_frame i i .abandoned .b _).2.2).trans (voidTrainIf_frame i i .abandoned .a s).2.2
  intro h
  rw [hh]
  exact hu h

/-- Where no train is open at all, an entry may be purged. -/
theorem storeStep_purgeEntry {i : RosterIndex} {s : State} (h : ∀ l, trainOf s l = none) :
    StoreStep s (purgeEntry i s) := by
  have h1 : StoreStep s (freeIncoming i s) := storeStep_freeIncoming fun ⟨l, hl⟩ => by
    rw [h l] at hl
    cases hl
  unfold purgeEntry
  dsimp only
  split
  · rename_i x hx
    split
    · rename_i h0
      refine h1.trans (storeStep_freeHeld fun y hy => ?_)
      rw [hx] at hy
      cases hy
      exact h0
    · exact h1
  · exact h1

theorem trainOf_purgeEntry (i : RosterIndex) (s : State) (l : Link) : trainOf (purgeEntry i s) l = trainOf s l := by
  unfold purgeEntry
  dsimp only
  split
  · split
    · rw [trainOf_freeHeld, trainOf_freeIncoming]
    · exact trainOf_freeIncoming i s l
  · exact trainOf_freeIncoming i s l

theorem storeStep_purgeEntries : ∀ (is : List RosterIndex) (s : State), (∀ l, trainOf s l = none) →
    StoreStep s (is.foldl (fun s i => purgeEntry i s) s)
  | [], s, _ => .refl s
  | i :: is, s, h => (storeStep_purgeEntry h).trans
      (storeStep_purgeEntries is _ fun l => (trainOf_purgeEntry i s l).trans (h l))

theorem storeStep_purgeStore (s : State) : StoreStep s (purgeStore s) := by
  refine ((storeStep_voidTrain .a _ s).trans (storeStep_voidTrain .b _ _)).trans
    (storeStep_purgeEntries _ _ fun l => ?_)
  rw [← Option.map_eq_none_iff (f := Train.index), trainOf_voidTrain_index]
  split
  · rfl
  · rename_i hl
    rw [trainOf_voidTrain_index, if_pos]
    cases l
    · rfl
    · exact absurd rfl hl

end Sys2Proof.Machine
end

section
/-!
The removal of an order (R79, R81): what giving a lock back, lowering the pending uses and free-after-use do to the
entries, the Arrival List and the blocks, and that together they come to what `Removed` says.
-/

namespace Sys2Proof.Machine

/-! ## What a removal may change -/

/-- Nothing differs but the directory, the free list with its count and the Arrival List. -/
def TileOnly (s t : State) : Prop :=
  t = { s with intake.directory := t.intake.directory, store := { t.store with bytes := s.store.bytes } }

theorem TileOnly.refl (s : State) : TileOnly s s := by rfl

theorem TileOnly.trans {s t u : State} (p : TileOnly s t) (q : TileOnly t u) : TileOnly s u := by
  unfold TileOnly at p q ⊢
  refine q.trans ?_
  rw [p]

theorem TileOnly.foldl {α : Type} {f : State → α → State} (h : ∀ s x, TileOnly s (f s x)) :
    ∀ (xs : List α) (s : State), TileOnly s (xs.foldl f s)
  | [], s => .refl s
  | x :: xs, s => (h s x).trans (TileOnly.foldl h xs (f s x))

theorem tileOnly_freeHeld (i : RosterIndex) (s : State) : TileOnly s (freeHeld i s) := by
  unfold freeHeld
  split <;> rfl

theorem tileOnly_promote (i : RosterIndex) (s : State) : TileOnly s (promote i s) := by
  unfold promote
  split
  · rename_i v _
    have h1 : TileOnly s (emptyIncoming i s) := by rfl
    exact (h1.trans (tileOnly_freeHeld i _)).trans (u := becomeHeld i .ready v _) (by rfl)
  · rfl
  · rfl

theorem tileOnly_unlockEntry (i : RosterIndex) (s : State) : TileOnly s (unlockEntry i s) := by
  unfold unlockEntry
  split
  · rfl
  · rename_i h _
    have h1 : TileOnly s (setEntry i { entryOf s i with held := some { h with lock := h.lock - 1 } } s) := by rfl
    dsimp only
    split
    · split
      · exact h1.trans (tileOnly_freeHeld i _)
      · exact h1.trans (tileOnly_promote i _)
    · exact h1

/-! ## Blocks -/

theorem BlocksMove.refl (s : State) : BlocksMove s s := ⟨rfl, fun _ => rfl⟩

theorem BlocksMove.trans {s t u : State} (p : BlocksMove s t) (q : BlocksMove t u) : BlocksMove s u :=
  ⟨q.1.trans p.1, fun b => (q.2 b).trans (p.2 b)⟩

theorem BlocksMove.foldl {α : Type} {f : State → α → State} (h : ∀ s x, BlocksMove s (f s x)) :
    ∀ (xs : List α) (s : State), BlocksMove s (xs.foldl f s)
  | [], s => .refl s
  | x :: xs, s => (h s x).trans (BlocksMove.foldl h xs (f s x))

theorem BlocksMove.same {s t : State} (hd : t.intake.directory = s.intake.directory)
    (hl : t.store.freeList = s.store.freeList) (hc : t.store.freeCount = s.store.freeCount) : BlocksMove s t := by
  unfold BlocksMove
  rw [listedBlocks_congr hd, hl, hc]
  exact ⟨rfl, fun _ => rfl⟩

/-- Replacing an entry exchanges the blocks of its two slots in number too. -/
theorem length_listed_setEntry (i : RosterIndex) (e : DirEntry) (s : State) :
    (listedBlocks (setEntry i e s)).length + (heldBlocks (entryOf s i).held).length
        + (incomingBlocks (entryOf s i).incoming).length
      = (listedBlocks s).length + (heldBlocks e.held).length + (incomingBlocks e.incoming).length := by
  have h := (listed_setEntry i e s).length_eq
  have hl : ∀ e : DirEntry, (entryBlocks e).length = (heldBlocks e.held).length + (incomingBlocks e.incoming).length :=
    fun e => List.length_append
  rw [List.length_append, List.length_append, hl, hl] at h
  omega

/-- The blocks that an entry lists and that do not stay in it return: the blocks of its slots before, those of its slots
after, and those returned agree. -/
theorem blocksMove_setEntry {s : State} {i : RosterIndex} {e : DirEntry} {bs : List Nat} {t : State}
    (hd : t.intake.directory = (setEntry i e s).intake.directory)
    (hl : t.store.freeList = bs.foldl (fun fl b => insertBlock b fl) s.store.freeList)
    (hc : t.store.freeCount = s.store.freeCount + bs.length)
    (hb : (heldBlocks (entryOf s i).held ++ incomingBlocks (entryOf s i).incoming).Perm
      (bs ++ (heldBlocks e.held ++ incomingBlocks e.incoming))) : BlocksMove s t := by
  refine ⟨?_, fun b => ?_⟩
  · have h1 := length_listed_setEntry i e s
    have h2 := hb.length_eq
    simp only [List.length_append] at h2
    rw [listedBlocks_congr hd, hc]
    omega
  · have h1 := count_listed_setEntry b i e s
    have h2 := hb.count_eq b
    simp only [List.count_append] at h2
    rw [listedBlocks_congr hd, hl, count_insertBlocks]
    omega

theorem blocksMove_freeHeld (i : RosterIndex) (s : State) : BlocksMove s (freeHeld i s) := by
  unfold freeHeld
  split
  · exact .refl s
  · rename_i h hh
    refine blocksMove_setEntry (i := i) (e := { entryOf s i with held := none }) (bs := h.version.blocks) rfl rfl rfl ?_
    rw [hh]
    exact .refl _

/-! ## Giving one lock back -/

/-- The blocks of the held version return where it gives way to its WAITING successor (R44). -/
theorem blocksMove_promote (i : RosterIndex) (s : State) : BlocksMove s (promote i s) := by
  unfold promote
  split
  · rename_i v hv
    unfold freeHeld
    have he : entryOf (emptyIncoming i s) i = { entryOf s i with incoming := none } := entryOf_setEntry_same i _ s
    split
    · rename_i hh
      rw [he] at hh
      refine blocksMove_setEntry (i := i) (e := { held := some { version := v, state := .ready, lock := 0 }, incoming := none })
        (bs := []) ?_ rfl rfl ?_
      · show (((s.intake.directory.set i _).set i _)) = _
        rw [Vector.set_set]
        rfl
      · rw [hv, show (entryOf s i).held = none from hh]
        exact List.perm_append_comm
    · rename_i h hh
      rw [he] at hh
      refine blocksMove_setEntry (i := i) (e := { held := some { version := v, state := .ready, lock := 0 }, incoming := none })
        (bs := h.version.blocks) ?_ rfl rfl ?_
      · show ((((s.intake.directory.set i _).set i _)).set i _) = _
        rw [Vector.set_set, Vector.set_set]
        rfl
      · rw [hv, show (entryOf s i).held = some h from hh]
        simp [heldBlocks, incomingBlocks]
  · exact .refl s
  · exact .refl s

theorem blocksMove_unlockEntry (i : RosterIndex) (s : State) : BlocksMove s (unlockEntry i s) := by
  unfold unlockEntry
  split
  · exact .refl s
  · rename_i h hh
    have h1 : BlocksMove s (setEntry i { entryOf s i with held := some { h with lock := h.lock - 1 } } s) := by
      refine blocksMove_setEntry (i := i) (bs := []) rfl rfl rfl ?_
      rw [hh]
      exact .refl _
    dsimp only
    split
    · split
      · exact h1.trans (blocksMove_freeHeld i _)
      · exact h1.trans (blocksMove_promote i _)
    · exact h1

/-- Giving a lock back changes the one entry, as `entryUnlocked` says (R44, R46). -/
theorem entryOf_unlockEntry (i j : RosterIndex) (s : State) :
    entryOf (unlockEntry i s) j =
      if j = i then entryUnlocked (recordOf s i).withheld (entryOf s i) else entryOf s j := by
  unfold unlockEntry entryUnlocked
  cases hh : (entryOf s i).held with
  | none =>
    dsimp only
    split
    · rename_i hj
      rw [hj]
    · rfl
  | some h =>
    dsimp only
    by_cases h1 : h.lock = 1
    · rw [if_pos h1, if_neg (not_not_intro h1)]
      have hr : ∀ e, recordOf (setEntry i e s) i = recordOf s i := fun e => rfl
      by_cases hw : (recordOf s i).withheld = true
      · rw [if_pos hw, if_pos hw, (freeHeld_frame _ _ _).2]
        split
        · rw [entryOf_setEntry_same]
        · rename_i hj
          rw [entryOf_setEntry_ne _ _ hj]
      · rw [if_neg hw, if_neg hw]
        unfold promote
        rw [entryOf_setEntry_same]
        dsimp only
        cases hi : (entryOf s i).incoming with
        | none =>
          dsimp only
          split
          · rename_i hj
            rw [hj, entryOf_setEntry_same]
            simp [h1]
          · rename_i hj
            rw [entryOf_setEntry_ne _ _ hj]
        | some inc =>
          obtain ⟨v, st⟩ := inc
          cases st with
          | waiting =>
            dsimp only
            rw [entryOf_becomeHeld]
            split
            · rfl
            · rename_i hj
              rw [(freeHeld_frame _ _ _).2, if_neg hj, entryOf_emptyIncoming_ne hj, entryOf_setEntry_ne _ _ hj]
          | filling =>
            dsimp only
            split
            · rename_i hj
              rw [hj, entryOf_setEntry_same]
              simp [h1]
            · rename_i hj
              rw [entryOf_setEntry_ne _ _ hj]
    · rw [if_neg h1, if_pos h1]
      split
      · rename_i hj
        rw [hj, entryOf_setEntry_same]
      · rename_i hj
        rw [entryOf_setEntry_ne _ _ hj]

/-- The held version of an entry goes, and none takes its place, when a lock on it is given back. -/
def goes (withheld : Bool) (e : DirEntry) : Bool := e.held.isSome && (entryUnlocked withheld e).held.isNone

/-- Giving a lock back takes the index off the Arrival List where its version goes, and puts it at the back where another
takes its place. -/
theorem arrival_unlockEntry (i : RosterIndex) (s : State) :
    (unlockEntry i s).store.arrival =
      (if goes (recordOf s i).withheld (entryOf s i) || promotes (recordOf s i).withheld (entryOf s i) then
        s.store.arrival.filter fun j => decide (j ≠ i)
      else s.store.arrival)
      ++ if promotes (recordOf s i).withheld (entryOf s i) then [i] else [] := by
  unfold unlockEntry goes promotes entryUnlocked
  cases hh : (entryOf s i).held with
  | none => simp
  | some h =>
    dsimp only
    by_cases h1 : h.lock = 1
    · by_cases hw : (recordOf s i).withheld = true
      · simp only [h1, hw, if_true]
        rw [(freeHeld_some (by rw [entryOf_setEntry_same])).2.2]
        cases (entryOf s i).incoming <;> simp
      · simp only [h1, hw, if_true, if_false, ne_eq, not_true_eq_false]
        unfold promote
        rw [entryOf_setEntry_same]
        dsimp only
        cases hi : (entryOf s i).incoming with
        | none => simp
        | some inc =>
          obtain ⟨v, st⟩ := inc
          cases st with
          | waiting =>
            dsimp only
            show (freeHeld i (emptyIncoming i _)).store.arrival ++ [i] = _
            rw [(freeHeld_some (h := { h with lock := 1 - 1 })
              (by unfold emptyIncoming; rw [entryOf_setEntry_same, entryOf_setEntry_same])).2.2]
            simp [h1, emptyIncoming]
          | filling => simp
    · cases (entryOf s i).incoming <;> simp [h1]

/-! ## Giving all locks of an order back -/

/-- Seats and their decisions, taken together, hold a lock on an index. -/
def seatsLock (xs : List Seat) (es : List SeatEntry) (i : RosterIndex) : Bool :=
  (xs.zip es).any fun x => decide (x.1.index = i) && x.2.lockMark

theorem orderLocks_eq {s : State} {o : Order} {p : Plan} (h : planOf s o.plan = some p) (i : RosterIndex) :
    orderLocks s o i = seatsLock p.seats o.decisions i := by
  unfold orderLocks
  rw [h]
  rfl

theorem seatsLock_cons (x : Seat) (xs : List Seat) (e : SeatEntry) (es : List SeatEntry) (i : RosterIndex) :
    seatsLock (x :: xs) (e :: es) i = (decide (x.index = i) && e.lockMark || seatsLock xs es i) := rfl

theorem seatsLock_nil_right (xs : List Seat) (i : RosterIndex) : seatsLock xs [] i = false := by
  unfold seatsLock
  rw [List.zip_nil_right]
  rfl

/-- Seats hold no lock on an index that none of them names. -/
theorem seatsLock_of_not_mem {xs : List Seat} {es : List SeatEntry} {i : RosterIndex}
    (h : i ∉ xs.map Seat.index) : seatsLock xs es i = false := by
  unfold seatsLock
  rw [List.any_eq_false]
  rintro ⟨x, e⟩ hx
  have := (List.of_mem_zip hx).1
  have hne : x.index ≠ i := fun he => h (he ▸ List.mem_map_of_mem this)
  simp [hne]

theorem giveBackLock_eq (s : State) (x : Seat × SeatEntry) :
    giveBackLock s x = if x.2.lockMark then unlockEntry x.1.index s else s := rfl

theorem TileOnly.recordOf {s t : State} (h : TileOnly s t) (i : RosterIndex) : recordOf t i = recordOf s i := by
  rw [h]
  rfl

theorem recordOf_unlockEntry (i j : RosterIndex) (s : State) : recordOf (unlockEntry i s) j = recordOf s j :=
  (tileOnly_unlockEntry i s).recordOf j

theorem tileOnly_giveBackLocks (xs : List (Seat × SeatEntry)) (s : State) : TileOnly s (xs.foldl giveBackLock s) :=
  TileOnly.foldl (fun s x => by
    rw [giveBackLock_eq]
    split
    · exact tileOnly_unlockEntry _ s
    · exact .refl s) xs s

/-- Giving back the locks of seats that name each index once unlocks the entries that they lock, once each. -/
theorem entryOf_giveBackLocks : ∀ (xs : List Seat) (es : List SeatEntry) (s : State) (j : RosterIndex),
    (xs.map Seat.index).Nodup →
    entryOf ((xs.zip es).foldl giveBackLock s) j =
      if seatsLock xs es j then entryUnlocked (recordOf s j).withheld (entryOf s j) else entryOf s j
  | [], _, _, _, _ => rfl
  | _ :: _, [], _, _, _ => rfl
  | x :: xs, e :: es, s, j, h => by
    rw [List.map_cons, List.nodup_cons] at h
    rw [List.zip_cons_cons, List.foldl_cons, entryOf_giveBackLocks xs es _ j h.2, seatsLock_cons, giveBackLock_eq]
    by_cases hm : e.lockMark = true
    · simp only [hm, if_true, Bool.and_true, recordOf_unlockEntry, entryOf_unlockEntry]
      by_cases hj : j = x.index
      · subst hj
        simp [seatsLock_of_not_mem h.1]
      · simp [hj, show ¬x.index = j from fun h => hj h.symm]
    · simp [hm]

/-- The indices, among these seats, whose WAITING version takes the held one's place when the locks are given back. -/
def promotedOf (s : State) (xs : List Seat) (locks : RosterIndex → Bool) : List RosterIndex :=
  (xs.map Seat.index).filter fun i => locks i && promotes (recordOf s i).withheld (entryOf s i)

theorem filter_filter_eq {α : Type} {p q r : α → Bool} {xs : List α} (h : ∀ x ∈ xs, r x = (p x && q x)) :
    (xs.filter p).filter q = xs.filter r := by
  rw [List.filter_filter]
  refine List.filter_congr fun x hx => ?_
  rw [h x hx, Bool.and_comm]

theorem promotedOf_congr {s t : State} {xs : List Seat} {p q : RosterIndex → Bool}
    (h : ∀ i ∈ xs.map Seat.index, p i = q i ∧ recordOf s i = recordOf t i ∧ entryOf s i = entryOf t i) :
    promotedOf s xs p = promotedOf t xs q := by
  refine List.filter_congr fun i hi => ?_
  obtain ⟨h1, h2, h3⟩ := h i hi
  rw [h1, h2, h3]

/-- The Arrival List after the locks have been given back. -/
theorem arrival_giveBackLocks : ∀ (xs : List Seat) (es : List SeatEntry) (s : State), (xs.map Seat.index).Nodup →
    ((xs.zip es).foldl giveBackLock s).store.arrival =
      (s.store.arrival.filter fun i => !(seatsLock xs es i
        && (goes (recordOf s i).withheld (entryOf s i) || promotes (recordOf s i).withheld (entryOf s i))))
      ++ promotedOf s xs (seatsLock xs es)
  | [], _, s, _ => by
    have h : (fun i => !(seatsLock [] [] i
        && (goes (recordOf s i).withheld (entryOf s i) || promotes (recordOf s i).withheld (entryOf s i))))
        = fun _ => true := rfl
    simp [seatsLock, promotedOf]
  | x :: xs, [], s, _ => by simp [seatsLock_nil_right, promotedOf]
  | x :: xs, e :: es, s, h => by
    rw [List.map_cons, List.nodup_cons] at h
    have hx : seatsLock xs es x.index = false := seatsLock_of_not_mem h.1
    rw [List.zip_cons_cons, List.foldl_cons, arrival_giveBackLocks xs es _ h.2, giveBackLock_eq]
    have hother : ∀ i, i ≠ x.index → seatsLock (x :: xs) (e :: es) i = seatsLock xs es i := fun i hi => by
      rw [seatsLock_cons, decide_eq_false fun h => hi h.symm, Bool.false_and, Bool.false_or]
    have hself : seatsLock (x :: xs) (e :: es) x.index = e.lockMark := by
      rw [seatsLock_cons, hx, decide_eq_true rfl, Bool.true_and, Bool.or_false]
    have hprom : ∀ t : State, (∀ i, i ≠ x.index → recordOf t i = recordOf s i ∧ entryOf t i = entryOf s i) →
        promotedOf t xs (seatsLock xs es) = promotedOf s xs (seatsLock (x :: xs) (e :: es)) := fun t ht =>
      promotedOf_congr fun i hi => by
        have hne : i ≠ x.index := fun he => h.1 (he ▸ hi)
        exact ⟨(hother i hne).symm, ht i hne⟩
    have hcons : promotedOf s (x :: xs) (seatsLock (x :: xs) (e :: es)) =
        (if e.lockMark && promotes (recordOf s x.index).withheld (entryOf s x.index) then [x.index] else [])
          ++ promotedOf s xs (seatsLock (x :: xs) (e :: es)) := by
      unfold promotedOf
      rw [List.map_cons, List.filter_cons, hself]
      split <;> rfl
    rw [hcons]
    by_cases hm : e.lockMark = true
    · rw [if_pos hm, hprom _ fun i hi => ⟨recordOf_unlockEntry _ _ _, by rw [entryOf_unlockEntry, if_neg hi]⟩, hm,
        Bool.true_and, arrival_unlockEntry, List.filter_append, ← List.append_assoc]
      congr 1
      congr 1
      · have hstep : ∀ i, i ≠ x.index →
            (!(seatsLock xs es i
              && (goes (recordOf (unlockEntry x.index s) i).withheld (entryOf (unlockEntry x.index s) i)
                || promotes (recordOf (unlockEntry x.index s) i).withheld (entryOf (unlockEntry x.index s) i))))
            = !(seatsLock (x :: xs) (e :: es) i
              && (goes (recordOf s i).withheld (entryOf s i) || promotes (recordOf s i).withheld (entryOf s i))) :=
          fun i hi => by rw [hother i hi, recordOf_unlockEntry, entryOf_unlockEntry, if_neg hi]
        split
        · rename_i hg
          refine filter_filter_eq fun i _ => ?_
          by_cases hi : i = x.index
          · subst hi
            rw [hself, hm, hg]
            simp
          · rw [hstep i hi, decide_eq_true hi, Bool.true_and]
        · rename_i hg
          refine List.filter_congr fun i _ => ?_
          by_cases hi : i = x.index
          · subst hi
            rw [hself, hm, hx, Bool.eq_false_iff.2 hg]
            rfl
          · exact hstep i hi
      · split
        · rw [List.filter_singleton, hx]
          rfl
        · rfl
    · rw [if_neg hm, hprom s fun _ _ => ⟨rfl, rfl⟩, Bool.eq_false_iff.2 hm, Bool.false_and]
      congr 1
      refine List.filter_congr fun i _ => ?_
      by_cases hi : i = x.index
      · subst hi
        rw [hself, hx, Bool.eq_false_iff.2 hm]
      · rw [hother i hi]

/-! ## Pending uses and free-after-use -/

/-- Lowering the pending uses of every seat lowers those of an index as often as it is named (R12). -/
theorem recordOf_lowerUses (i : RosterIndex) : ∀ (xs : List Seat) (s : State),
    recordOf (xs.foldl lowerUse s) i =
      { recordOf s i with uses := (recordOf s i).uses - xs.countP fun x => decide (x.index = i) }
  | [], _ => rfl
  | x :: xs, s => by
    rw [List.foldl_cons, recordOf_lowerUses i xs, List.countP_cons]
    unfold lowerUse
    by_cases h : x.index = i
    · subst h
      rw [recordOf_setRecord_same]
      simp only [decide_true, if_true]
      congr 1
      omega
    · rw [recordOf_setRecord_ne _ _ fun he => h he.symm]
      simp [h]

/-- The held versions that free-after-use frees are those of its indices without a use (R63). -/
theorem freeAfterUse_spec : ∀ (is : List RosterIndex) (s : State) (j : RosterIndex),
    recordOf (freeAfterUse is s) j = recordOf s j
    ∧ entryOf (freeAfterUse is s) j =
        if j ∈ is ∧ (recordOf s j).uses = 0 then { entryOf s j with held := none } else entryOf s j
  | [], s, j => by simp [freeAfterUse]
  | i :: is, s, j => by
    have h := freeAfterUse_spec is (if (recordOf s i).uses = 0 then freeHeld i s else s) j
    have hr : ∀ k, recordOf (if (recordOf s i).uses = 0 then freeHeld i s else s) k = recordOf s k := fun k => by
      split
      · exact (freeHeld_frame _ _ _).1
      · rfl
    rw [hr] at h
    refine ⟨h.1, h.2.trans ?_⟩
    by_cases hu : (recordOf s i).uses = 0
    · rw [if_pos hu, (freeHeld_frame _ _ _).2]
      by_cases hj : j = i
      · subst hj
        simp [hu]
      · simp [hj]
    · rw [if_neg hu]
      by_cases hj : j = i
      · subst hj
        simp [hu]
      · simp [hj]

theorem arrival_freeHeld (i : RosterIndex) (s : State) :
    (freeHeld i s).store.arrival =
      s.store.arrival.filter fun j => !(decide (j = i) && (entryOf s i).held.isSome) := by
  cases hh : (entryOf s i).held with
  | none =>
    unfold freeHeld
    rw [hh]
    simp
  | some h =>
    rw [(freeHeld_some hh).2.2]
    simp

/-- The Arrival List after free-after-use. -/
theorem arrival_freeAfterUse : ∀ (is : List RosterIndex) (s : State),
    (freeAfterUse is s).store.arrival =
      s.store.arrival.filter fun j => !(decide (j ∈ is ∧ (recordOf s j).uses = 0) && (entryOf s j).held.isSome)
  | [], s => by simp [freeAfterUse]
  | i :: is, s => by
    have h := arrival_freeAfterUse is (if (recordOf s i).uses = 0 then freeHeld i s else s)
    refine Eq.trans h ?_
    by_cases hu : (recordOf s i).uses = 0
    · rw [if_pos hu, arrival_freeHeld]
      refine filter_filter_eq fun j _ => ?_
      rw [(freeHeld_frame _ _ _).1, (freeHeld_frame _ _ _).2]
      by_cases hj : j = i
      · subst hj
        simp [hu]
      · simp [hj]
    · rw [if_neg hu]
      refine List.filter_congr fun j _ => ?_
      by_cases hj : j = i
      · subst hj
        simp [hu]
      · simp [hj]

/-! ## The removal -/

/-- The state of a removal before the low-water test: steps 1 to 4 of R79, and free-after-use. -/
def removedState (o : Order) (s : State) : State :=
  let s1 := ((seatsOf s o).zip o.decisions).foldl giveBackLock s
  let s2 := (seatsOf s o).foldl lowerUse s1
  let s3 := leaveQueue o.tag (dropCallsOf o.tag s2)
  if s3.tables.settings.freeAfterUse then freeAfterUse ((seatsOf s o).map Seat.index) s3 else s3

theorem removeOrder_eq (o : Order) (s : State) : removeOrder o s = lowWaterTest (removedState o s) := rfl

/-- The state of a removal before free-after-use. -/
def detachedState (o : Order) (s : State) : State :=
  leaveQueue o.tag (dropCallsOf o.tag
    ((seatsOf s o).foldl lowerUse (((seatsOf s o).zip o.decisions).foldl giveBackLock s)))

/-- Lowering pending uses changes the roster alone. -/
theorem lowerUses_only (xs : List Seat) (s : State) :
    xs.foldl lowerUse s = { s with tables.roster := (xs.foldl lowerUse s).tables.roster } := by
  induction xs generalizing s with
  | nil => rfl
  | cons x xs ih => exact ih (lowerUse s x)

theorem tileOnly_freeAfterUse (is : List RosterIndex) (s : State) : TileOnly s (freeAfterUse is s) :=
  TileOnly.foldl (fun s i => by
    split
    · exact tileOnly_freeHeld i s
    · exact .refl s) is s

/-- What is detached changes the roster, the directory, the free list, the Arrival List, the queue and the calls. -/
theorem detachedState_only (o : Order) (s : State) : detachedState o s =
    { s with
      tables.roster := (detachedState o s).tables.roster
      intake.directory := (detachedState o s).intake.directory
      store := { (detachedState o s).store with bytes := s.store.bytes }
      scheduler.queue := s.scheduler.queue.filter fun x => decide (x.tag ≠ o.tag)
      seats.calls := s.seats.calls.filter fun c => decide (c.tag ≠ o.tag) } := by
  unfold detachedState
  have h1 := tileOnly_giveBackLocks ((seatsOf s o).zip o.decisions) s
  generalize ((seatsOf s o).zip o.decisions).foldl giveBackLock s = u at h1
  have h2 := lowerUses_only (seatsOf s o) u
  generalize (seatsOf s o).foldl lowerUse u = v at h2
  rw [h2, h1]
  rfl

theorem removedState_eq (o : Order) (s : State) : removedState o s =
    if s.tables.settings.freeAfterUse then freeAfterUse ((seatsOf s o).map Seat.index) (detachedState o s)
    else detachedState o s := by
  have h : (detachedState o s).tables.settings = s.tables.settings := by
    rw [detachedState_only o s]
  show (if (detachedState o s).tables.settings.freeAfterUse then _ else _) = _
  rw [h]
  rfl

/-- The same of the whole removal before its low-water test. -/
theorem removedState_only (o : Order) (s : State) : removedState o s =
    { s with
      tables.roster := (removedState o s).tables.roster
      intake.directory := (removedState o s).intake.directory
      store := { (removedState o s).store with bytes := s.store.bytes }
      scheduler.queue := s.scheduler.queue.filter fun x => decide (x.tag ≠ o.tag)
      seats.calls := s.seats.calls.filter fun c => decide (c.tag ≠ o.tag) } := by
  rw [removedState_eq]
  have h1 := detachedState_only o s
  split
  · have h2 := tileOnly_freeAfterUse ((seatsOf s o).map Seat.index) (detachedState o s)
    generalize freeAfterUse ((seatsOf s o).map Seat.index) (detachedState o s) = v at h2
    rw [h2, h1]
  · exact h1

theorem blocksMove_removedState (o : Order) (s : State) : BlocksMove s (removedState o s) := by
  have h1 : BlocksMove s (detachedState o s) := by
    refine BlocksMove.trans (BlocksMove.foldl (fun s x => ?_) ((seatsOf s o).zip o.decisions) s)
      (BlocksMove.trans (BlocksMove.foldl (f := lowerUse) (fun s x => .same rfl rfl rfl) (seatsOf s o) _)
        (.same rfl rfl rfl))
    rw [giveBackLock_eq]
    split
    · exact blocksMove_unlockEntry _ s
    · exact .refl s
  rw [removedState_eq]
  split
  · refine h1.trans (BlocksMove.foldl (fun s i => ?_) _ _)
    split
    · exact blocksMove_freeHeld i s
    · exact .refl s
  · exact h1

theorem entryOf_lowerUses (xs : List Seat) (s : State) (j : RosterIndex) :
    entryOf (xs.foldl lowerUse s) j = entryOf s j := by
  induction xs generalizing s with
  | nil => rfl
  | cons x xs ih => exact (ih _).trans rfl

theorem arrival_lowerUses (xs : List Seat) (s : State) :
    (xs.foldl lowerUse s).store.arrival = s.store.arrival := by
  induction xs generalizing s with
  | nil => rfl
  | cons x xs ih => exact (ih _).trans rfl

theorem seatsOf_eq {s : State} {o : Order} {p : Plan} (h : planOf s o.plan = some p) : seatsOf s o = p.seats := by
  unfold seatsOf
  rw [h]

theorem recordOf_removedState (o : Order) (s : State) (i : RosterIndex) : recordOf (removedState o s) i = recordOf (detachedState o s) i := by
  rw [removedState_eq]
  split
  · exact (freeAfterUse_spec _ _ _).1
  · rfl

section
variable {o : Order} {p : Plan} {s : State} (hp : planOf s o.plan = some p) (hn : (p.seats.map Seat.index).Nodup)
include hp

theorem recordOf_detachedState (i : RosterIndex) : recordOf (detachedState o s) i =
    { recordOf s i with uses := (recordOf s i).uses - p.seats.countP fun x => decide (x.index = i) } := by
  show recordOf (List.foldl lowerUse _ _) i = _
  rw [recordOf_lowerUses, (tileOnly_giveBackLocks _ s).recordOf, seatsOf_eq hp]

include hn

theorem entryOf_detachedState (i : RosterIndex) : entryOf (detachedState o s) i =
    if orderLocks s o i then entryUnlocked (recordOf s i).withheld (entryOf s i) else entryOf s i := by
  show entryOf (List.foldl lowerUse _ _) i = _
  rw [entryOf_lowerUses, seatsOf_eq hp, entryOf_giveBackLocks _ _ _ _ hn, orderLocks_eq hp]

theorem arrival_detachedState : (detachedState o s).store.arrival =
    (s.store.arrival.filter fun i => !(orderLocks s o i
      && (goes (recordOf s i).withheld (entryOf s i) || promotes (recordOf s i).withheld (entryOf s i))))
    ++ promotedOf s p.seats (orderLocks s o) := by
  show (List.foldl lowerUse _ _).store.arrival = _
  rw [arrival_lowerUses, seatsOf_eq hp, arrival_giveBackLocks _ _ _ hn, funext (orderLocks_eq hp)]

/-- The entries once an order is removed, before the low-water test. -/
theorem entryOf_removedState (i : RosterIndex) : entryOf (removedState o s) i =
    let unlocked := if orderLocks s o i then entryUnlocked (recordOf s i).withheld (entryOf s i) else entryOf s i
    if s.tables.settings.freeAfterUse = true ∧ (∃ x ∈ p.seats, x.index = i)
        ∧ (recordOf (detachedState o s) i).uses = 0 then { unlocked with held := none }
    else unlocked := by
  rw [removedState_eq]
  split
  · rename_i hf
    rw [(freeAfterUse_spec _ _ _).2, entryOf_detachedState hp hn, seatsOf_eq hp]
    simp only [hf, true_and, List.mem_map]
  · rename_i hf
    rw [entryOf_detachedState hp hn]
    simp [hf]

omit hn in
/-- The Arrival List once an order is removed, before the low-water test. -/
theorem arrival_removedState : (removedState o s).store.arrival =
    (detachedState o s).store.arrival.filter fun j =>
      !(decide (s.tables.settings.freeAfterUse = true ∧ (∃ x ∈ p.seats, x.index = j)
          ∧ (recordOf (detachedState o s) j).uses = 0) && (entryOf (detachedState o s) j).held.isSome) := by
  rw [removedState_eq]
  split
  · rename_i hf
    rw [arrival_freeAfterUse, seatsOf_eq hp]
    simp only [hf, true_and, List.mem_map]
  · rename_i hf
    simp [hf]

end

/-- An entry that holds a version after a lock has been given back held one before. -/
theorem held_of_entryUnlocked {w : Bool} {e : DirEntry} (h : (entryUnlocked w e).held.isSome = true) :
    e.held.isSome = true := by
  unfold entryUnlocked at h
  cases hh : e.held with
  | none => rw [hh] at h; simp [hh] at h
  | some x => rfl

/-- A version that is promoted stands in the held slot. -/
theorem held_of_promotes {w : Bool} {e : DirEntry} (h : promotes w e = true) :
    e.held.isSome = true ∧ (entryUnlocked w e).held.isSome = true := by
  unfold promotes at h
  unfold entryUnlocked
  cases hh : e.held with
  | none => simp [hh] at h
  | some x =>
    refine ⟨rfl, ?_⟩
    cases hi : e.incoming with
    | none => simp [hh, hi] at h
    | some v =>
      simp only [hh, hi, Bool.and_eq_true, decide_eq_true_eq, Bool.not_eq_true'] at h
      obtain ⟨⟨h1, h2⟩, h3⟩ := h
      obtain ⟨v, st⟩ := v
      cases h2
      simp [h1, h3]

/-- A removal comes, before its low-water test, to what `Removed` says (R79, R81). -/
theorem removedState_removed {o : Order} {p : Plan} {s : State} (hp : planOf s o.plan = some p)
    (hn : (p.seats.map Seat.index).Nodup) : Removed o p s (removedState o s) where
  records i := by rw [recordOf_removedState, recordOf_detachedState hp]
  entries i := by
    dsimp only
    rw [entryOf_removedState hp hn, recordOf_removedState]
  arrival := by
    dsimp only
    rw [arrival_removedState hp, arrival_detachedState hp hn, List.filter_append]
    have hmem : ∀ i, i ∈ promotedOf s p.seats (orderLocks s o) → orderLocks s o i = true
        ∧ promotes (recordOf s i).withheld (entryOf s i) = true := fun i hi => by
      simpa [promotedOf] using (List.mem_filter.1 hi).2
    have hlocked : ∀ i, orderLocks s o i = true → i ∈ p.seats.map Seat.index := fun i hi => by
      by_contra hno
      rw [orderLocks_eq hp, seatsLock_of_not_mem hno] at hi
      cases hi
    congr 1
    · refine filter_filter_eq fun i _ => ?_
      show (_ && !decide (i ∈ promotedOf s p.seats (orderLocks s o))) = _
      have hprom : decide (i ∈ promotedOf s p.seats (orderLocks s o)) =
          (orderLocks s o i && promotes (recordOf s i).withheld (entryOf s i)) := by
        rw [Bool.eq_iff_iff, decide_eq_true_iff]
        refine ⟨fun h => (List.mem_filter.1 h).2, fun h => List.mem_filter.2 ⟨?_, h⟩⟩
        exact hlocked i (Bool.and_eq_true_iff.1 h).1
      rw [hprom, entryOf_removedState hp hn, entryOf_detachedState hp hn]
      dsimp only
      have hkey := held_of_entryUnlocked (w := (recordOf s i).withheld) (e := entryOf s i)
      unfold goes
      by_cases hc : s.tables.settings.freeAfterUse = true ∧ (∃ x ∈ p.seats, x.index = i)
          ∧ (recordOf (detachedState o s) i).uses = 0
      · rw [if_pos hc, decide_eq_true hc]
        cases hl : orderLocks s o i <;> simp only [Bool.false_eq_true, if_false, if_true]
        · cases (entryOf s i).held.isSome <;> rfl
        · cases h1 : (entryOf s i).held.isSome <;>
            cases h2 : (entryUnlocked (recordOf s i).withheld (entryOf s i)).held <;>
            cases promotes (recordOf s i).withheld (entryOf s i) <;> simp_all
      · rw [if_neg hc, decide_eq_false hc]
        cases hl : orderLocks s o i <;> simp only [Bool.false_eq_true, if_false, if_true]
        · cases (entryOf s i).held <;> rfl
        · cases h1 : (entryOf s i).held.isSome <;>
            cases h2 : (entryUnlocked (recordOf s i).withheld (entryOf s i)).held <;>
            cases promotes (recordOf s i).withheld (entryOf s i) <;> simp_all
    · refine List.filter_congr fun i hi => ?_
      obtain ⟨h1, h2⟩ := hmem i hi
      obtain ⟨h3, h4⟩ := held_of_promotes h2
      rw [entryOf_removedState hp hn, entryOf_detachedState hp hn, if_pos h1, h3, h4]
      dsimp only
      split
      · rename_i hc
        rw [decide_eq_true hc]
        rfl
      · rename_i hc
        rw [decide_eq_false hc]
        cases hx : (entryUnlocked (recordOf s i).withheld (entryOf s i)).held with
        | none => rw [hx] at h4; cases h4
        | some x => rfl
  blocks := blocksMove_removedState o s
  queue := by rw [removedState_only]
  calls := by rw [removedState_only]
  rest := by
    have h := removedState_only o s
    generalize removedState o s = v at h
    rw [h]

end Sys2Proof.Machine
end

section
/-!
Seat decisions and beginnings under the laws: what a decision does to the head's Decision Table and to the entry that it
locks, the freeze of a band, and the beginning of an impression on a queue that stands ready for one.
-/

namespace Sys2Proof.Machine

/-! ## Decision Tables and held slots -/

/-- Two states differ in nothing that the laws see but Decision Tables and held slots. -/
structure Beside (s t : State) : Prop where
  records : ∀ i, recordOf t i = recordOf s i := by intros; rfl
  plans : t.tables.plans = s.tables.plans := by rfl
  planRows : t.tables.planRows = s.tables.planRows := by rfl
  planSeats : t.tables.planSeats = s.tables.planSeats := by rfl
  staged : ∀ l x, (slotOf t l).staging.map Staging.target = some x →
    (slotOf s l).staging.map Staging.target = some x := by exact fun _ _ h => h
  places : t.scheduler.queue.map Order.place = s.scheduler.queue.map Order.place := by rfl
  impression : t.scheduler.impression.map Impression.view = s.scheduler.impression.map Impression.view := by rfl
  calls : s.seats.calls.length ≤ Config.callPlaces → t.seats.calls.length ≤ Config.callPlaces := by exact fun h => h
  waiting : (∀ m, (portOf s m).calls.length ≤ Config.callPlaces) →
    ∀ m, (portOf t m).calls.length ≤ Config.callPlaces := by exact fun h => h
  trains : ∀ l, (trainOf t l).map Train.index = (trainOf s l).map Train.index := by intros; rfl
  incoming : ∀ i, (entryOf t i).incoming.map Incoming.state = (entryOf s i).incoming.map Incoming.state := by
    intros; rfl

theorem Beside.refl (s : State) : Beside s s := {}

theorem Beside.trans {s t u : State} (p : Beside s t) (q : Beside t u) : Beside s u where
  records i := (q.records i).trans (p.records i)
  plans := q.plans.trans p.plans
  planRows := q.planRows.trans p.planRows
  planSeats := q.planSeats.trans p.planSeats
  staged l x h := p.staged l x (q.staged l x h)
  places := q.places.trans p.places
  impression := q.impression.trans p.impression
  calls h := q.calls (p.calls h)
  waiting h := q.waiting (p.waiting h)
  trains l := (q.trains l).trans (p.trains l)
  incoming i := (q.incoming i).trans (p.incoming i)

theorem Beside.foldl {α : Type} {f : State → α → State} (h : ∀ s x, Beside s (f s x)) :
    ∀ (xs : List α) (s : State), Beside s (xs.foldl f s)
  | [], s => .refl s
  | x :: xs, s => (h s x).trans (Beside.foldl h xs (f s x))

theorem Neutral.beside {s t : State} (n : Neutral s t) : Beside s t where
  records := n.records
  plans := n.plans
  planRows := n.planRows
  planSeats := n.planSeats
  staged := n.staged
  places := map_place_of_core n.queue
  impression := n.impression
  calls := n.calls
  waiting := n.waiting
  trains := n.trains
  incoming := n.incoming

theorem Beside.trainLaw {s t : State} (b : Beside s t) (h : TrainLaw s) : TrainLaw t :=
  h.congr b.trains fun i => by unfold Fills; rw [b.incoming]

theorem Beside.rosterLaw {s t : State} (b : Beside s t) (h : RosterLaw s) : RosterLaw t :=
  h.congr (fun i => by rw [b.records]; exact ⟨rfl, rfl, rfl⟩) b.plans b.staged (map_plan_of_place b.places)

theorem Beside.queueLaw {s t : State} (b : Beside s t) (h : QueueLaw s) : QueueLaw t :=
  h.congr b.plans b.places b.impression

/-- Such a change keeps every law but that of the locks. -/
theorem Beside.keeps {s t : State} (b : Beside s t) (hl : QueueLaw s → RosterLaw s → LockLaw s → LockLaw t) :
    Keeps s t where
  trains := b.trainLaw
  places h := h.congr (by simpa using congrArg List.length b.places) b.calls b.waiting
  totals h := h.congr b.plans b.planRows b.planSeats
  queue := b.queueLaw
  roster _ := b.rosterLaw
  locks := hl

/-- The head of the queue prints the plan of the impression. -/
def Prints (s : State) (p : Plan) : Prop := ∀ o rest, s.scheduler.queue = o :: rest → planOf s o.plan = some p

theorem Beside.prints {s t : State} (b : Beside s t) {p : Plan} (h : Prints s p) : Prints t p := by
  intro o rest hq
  have hp := b.places
  rw [hq, List.map_cons] at hp
  obtain ⟨x, xs, hx, he, -⟩ := List.map_eq_cons_iff.1 hp.symm
  rw [planOf_congr b.plans, ← plan_of_place he]
  exact h x xs hx

/-- The head prints the plan of the impression in progress (R65, R69). -/
theorem QueueLaw.prints {s : State} (h : QueueLaw s) {c : Impression} {p : Plan} (hc : s.scheduler.impression = some c)
    (hp : planOf s c.plan = some p) : Prints s p := by
  intro o rest hq
  rw [← (h.printing c o rest hc hq).2]
  exact hp

/-! ## Locks of a Decision Table -/

/-- A seat's own mark is its index's lock, where the seats name each index once. -/
theorem seatsLock_index : ∀ {xs : List Seat} {es : List SeatEntry} {n : Nat} {x : Seat} {e : SeatEntry},
    (xs.map Seat.index).Nodup → xs[n]? = some x → es[n]? = some e → seatsLock xs es x.index = e.lockMark
  | [], _, _, _, _, _, hx, _ => by simp at hx
  | _ :: _, [], _, _, _, _, _, he => by simp at he
  | y :: xs, d :: es, 0, x, e, h, hx, he => by
    cases hx
    cases he
    rw [List.map_cons, List.nodup_cons] at h
    rw [seatsLock_cons, seatsLock_of_not_mem h.1, decide_eq_true rfl, Bool.true_and, Bool.or_false]
  | y :: xs, d :: es, n + 1, x, e, h, hx, he => by
    rw [List.map_cons, List.nodup_cons] at h
    rw [List.getElem?_cons_succ] at hx he
    have hne : y.index ≠ x.index := fun hi => h.1 (hi ▸ List.mem_map_of_mem (List.mem_of_getElem? hx))
    rw [seatsLock_cons, decide_eq_false hne, Bool.false_and, Bool.false_or]
    exact seatsLock_index h.2 hx he

/-- A seat's entry bears on no other index. -/
theorem seatsLock_set_ne : ∀ {xs : List Seat} {es : List SeatEntry} {n : Nat} {x : Seat} (e : SeatEntry)
    {j : RosterIndex}, xs[n]? = some x → j ≠ x.index → seatsLock xs (es.set n e) j = seatsLock xs es j
  | [], _, _, _, _, _, hx, _ => by simp at hx
  | _ :: _, [], _, _, _, _, _, _ => by simp
  | y :: xs, d :: es, 0, x, e, j, hx, hj => by
    cases hx
    rw [List.set_cons_zero, seatsLock_cons, seatsLock_cons, decide_eq_false fun h => hj h.symm, Bool.false_and,
      Bool.false_and]
  | y :: xs, d :: es, n + 1, x, e, j, hx, hj => by
    rw [List.getElem?_cons_succ] at hx
    rw [List.set_cons_succ, seatsLock_cons, seatsLock_cons, seatsLock_set_ne e hx hj]

/-- What leaves every mark leaves the locks. -/
theorem seatsLock_zipWith {f : Seat → SeatEntry → SeatEntry} (hf : ∀ x e, (f x e).lockMark = e.lockMark) :
    ∀ (xs : List Seat) (es : List SeatEntry) (j : RosterIndex), seatsLock xs (List.zipWith f xs es) j = seatsLock xs es j
  | [], _, _ => rfl
  | _ :: _, [], _ => rfl
  | x :: xs, e :: es, j => by
    rw [List.zipWith_cons_cons, seatsLock_cons, seatsLock_cons, hf, seatsLock_zipWith hf xs es j]

theorem lockCount_cons {s : State} {o : Order} {rest : List Order} (h : s.scheduler.queue = o :: rest)
    (i : RosterIndex) :
    lockCount s i = (rest.countP fun x => orderLocks s x i) + if orderLocks s o i then 1 else 0 := by
  unfold lockCount
  rw [h, List.countP_cons]

/-! ## One decision -/

theorem modHead_cons {s : State} {o : Order} {rest : List Order} (h : s.scheduler.queue = o :: rest)
    (f : Order → Order) : modHead f s = { s with scheduler.queue := f o :: rest } := by
  unfold modHead
  rw [h]

/-- A change of the head's Decision Table, seat lines or copies done is beside the other laws. -/
theorem beside_modHead (f : Order → Order) (s : State) (h : ∀ o, (f o).place = o.place := by intro o; rfl) :
    Beside s (modHead f s) := by
  unfold modHead
  split
  · exact .refl s
  · rename_i o os hq
    refine { places := ?_ }
    rw [hq, List.map_cons, List.map_cons, h o]

/-- A lock on an index raises the lock count of its held version, if it has one (R43). -/
theorem entryOf_lockEntry (i j : RosterIndex) (s : State) : entryOf (lockEntry i s) j =
    if j = i then { entryOf s i with held := (entryOf s i).held.map fun h => { h with lock := h.lock + 1 } }
    else entryOf s j := by
  unfold lockEntry
  cases hh : (entryOf s i).held with
  | none =>
    dsimp only
    split
    · rename_i hj
      rw [hj, Option.map_none, ← hh]
    · rfl
  | some h =>
    dsimp only
    split
    · rename_i hj
      rw [hj, entryOf_setEntry_same]
      rfl
    · rename_i hj
      rw [entryOf_setEntry_ne _ _ hj]

theorem tileOnly_lockEntry (i : RosterIndex) (s : State) : TileOnly s (lockEntry i s) := by
  unfold lockEntry
  split <;> rfl

theorem beside_lockEntry (i : RosterIndex) (s : State) : Beside s (lockEntry i s) := by
  have h : Beside s { lockEntry i s with intake.directory := s.intake.directory } := by
    rw [tileOnly_lockEntry]
    exact {}
  refine { h with incoming := fun j => ?_ }
  rw [entryOf_lockEntry]
  split
  · rename_i hj
    rw [hj]
  · rfl

theorem beside_decideSeat (tag : BitVec 16) (n : Nat) (i : RosterIndex) (s : State) :
    Beside s (decideSeat tag n i s) := by
  unfold decideSeat
  dsimp only
  refine Beside.trans ?_ (neutral_filterCalls _ _).beside
  split
  · exact (beside_modHead _ s).trans (beside_lockEntry _ _)
  · exact beside_modHead _ s

/-- A seat is decided PLACED exactly where a READY version is held for a student who is not withheld (R93). -/
theorem decisionNow_placed {s : State} {i : RosterIndex} (h : decisionNow s i = .placed) :
    (recordOf s i).withheld = false ∧ ∃ x, (entryOf s i).held = some x ∧ x.state = .ready := by
  unfold decisionNow at h
  split at h
  · cases h
  · rename_i hw
    refine ⟨Bool.eq_false_iff.2 hw, ?_⟩
    split at h
    · rename_i x hx
      refine ⟨x, hx, ?_⟩
      split at h
      · assumption
      · cases h
    · cases h

theorem decisionNow_ne_undecided (s : State) (i : RosterIndex) : decisionNow s i ≠ .undecided := by
  unfold decisionNow
  split
  · nofun
  · split
    · split <;> nofun
    · nofun

/-- An entry fits one lock more once its READY version is locked once more. -/
theorem EntryFits.lockMore {n : Nat} {w : Bool} {e : DirEntry} (h : EntryFits n w e) {x : Held} (hx : e.held = some x)
    (hs : x.state = .ready) :
    EntryFits (n + 1) w { e with held := e.held.map fun h => { h with lock := h.lock + 1 } } where
  held y hy := by
    rw [hx] at hy
    cases hy
    exact congrArg (· + 1) (h.held x hx)
  free hn := by rw [hx] at hn; cases hn
  damaged y hy hd := by
    rw [hx] at hy
    cases hy
    rw [show x.state = .damaged from hd] at hs
    cases hs
  waiting v hv hw := ⟨{ x with lock := x.lock + 1 }, by rw [hx]; rfl, Nat.succ_pos _⟩
  withheld hw := ⟨(h.withheld hw).1, fun y hy => by
    rw [hx] at hy
    cases hy
    exact Nat.succ_pos _⟩

/-- A decision on an UNDECIDED seat of the head keeps the law of the locks (R66, R93). -/
theorem lockLaw_decideSeat {s : State} (h : LockLaw s) {o : Order} {rest : List Order} {p : Plan} {n : Nat} {x : Seat}
    {e : SeatEntry} (hq : s.scheduler.queue = o :: rest) (hp : planOf s o.plan = some p)
    (hn : (p.seats.map Seat.index).Nodup) (hx : p.seats[n]? = some x) (he : o.decisions[n]? = some e)
    (hu : e.decision = .undecided) (tag : BitVec 16) : LockLaw (decideSeat tag n x.index s) := by
  obtain ⟨⟨hlen, hmarks⟩, hfit⟩ := (lockLaw_iff s).1 h
  unfold decideSeat
  dsimp only
  refine (neutral_filterCalls _ _).lockLaw ?_
  unfold setDecision
  rw [modHead_cons hq]
  generalize hd : decisionNow s x.index = d
  generalize hnew : ({ decision := d, lockMark := decide (d = .placed) } : SeatEntry) = new
  generalize ho' : ({ o with decisions := o.decisions.set n new } : Order) = o'
  have hnewMark : new.lockMark = decide (d = .placed) := by rw [← hnew]
  have hoMark : e.lockMark = false :=
    ((hmarks o (by rw [hq]; exact List.mem_cons_self) e (List.mem_of_getElem? he)).2 (.inl hu))
  have hplan : planOf s o'.plan = some p := by rw [← ho']; exact hp
  have hdec : o'.decisions = o.decisions.set n new := by rw [← ho']
  have hset : (o.decisions.set n new)[n]? = some new :=
    List.getElem?_set_self (List.getElem?_eq_some_iff.1 he).1
  -- the tables still fit, and the lock count of the seat's index alone rises
  have htables : TablesFit { s with scheduler.queue := o' :: rest } := by
    refine ⟨fun y hy q hq' => ?_, fun y hy => ?_⟩ <;> rcases List.mem_cons.1 hy with rfl | hy
    · have hq2 : planOf s y.plan = some q := hq'
      rw [hplan] at hq2
      cases hq2
      rw [hdec, List.length_set]
      exact hlen o (by rw [hq]; exact List.mem_cons_self) p hp
    · exact hlen y (by rw [hq]; exact List.mem_cons_of_mem _ hy) q hq'
    · intro a ha
      rw [hdec] at ha
      rcases List.mem_or_eq_of_mem_set ha with ha | rfl
      · exact hmarks o (by rw [hq]; exact List.mem_cons_self) a ha
      · rw [hnewMark, show a.decision = d by rw [← hnew]]
        refine ⟨decide_eq_true, fun h => decide_eq_false ?_⟩
        rintro rfl
        rcases h with h | h <;> cases h
    · exact hmarks y (by rw [hq]; exact List.mem_cons_of_mem _ hy)
  have hlocks : ∀ j, orderLocks s o' j = if j = x.index then decide (d = .placed) else orderLocks s o j := fun j => by
    rw [orderLocks_eq hplan, hdec]
    split
    · rename_i hj
      rw [hj, seatsLock_index hn hx hset, hnewMark]
    · rename_i hj
      rw [seatsLock_set_ne new hx hj, orderLocks_eq hp]
  have hcount : ∀ j, lockCount { s with scheduler.queue := o' :: rest } j =
      lockCount s j + if j = x.index ∧ d = .placed then 1 else 0 := fun j => by
    rw [lockCount_cons rfl, lockCount_cons hq]
    show (rest.countP fun y => orderLocks s y j) + (if orderLocks s o' j = true then 1 else 0) = _
    rw [hlocks]
    by_cases hj : j = x.index
    · subst hj
      rw [if_pos rfl, orderLocks_eq hp, seatsLock_index hn hx he, hoMark]
      simp
    · simp [hj]
  by_cases hplaced : d = .placed
  · rw [if_pos hplaced]
    rw [hplaced] at hd
    obtain ⟨hw, y, hy, hready⟩ := decisionNow_placed hd
    refine (lockLaw_iff _).2 ⟨htables.congr ?_ ?_, fun j => ?_⟩
    · exact (beside_lockEntry _ _).plans
    · rw [tileOnly_lockEntry]
    · rw [lockCount_congr (s := { s with scheduler.queue := o' :: rest }) (beside_lockEntry _ _).plans
        (by rw [tileOnly_lockEntry]), hcount, (beside_lockEntry _ _).records, entryOf_lockEntry]
      by_cases hj : j = x.index
      · subst hj
        rw [if_pos ⟨rfl, hplaced⟩, if_pos rfl]
        exact (hfit x.index).lockMore hy hready
      · rw [if_neg fun h => hj h.1, if_neg hj]
        exact hfit j
  · rw [if_neg hplaced]
    refine (lockLaw_iff _).2 ⟨htables, fun j => ?_⟩
    rw [hcount, if_neg fun h => hplaced h.2]
    exact hfit j

/-! ## The freeze of a band -/

theorem isUndecided_iff {s : State} {n : Nat} : isUndecided s n = true ↔
    ∃ o rest e, s.scheduler.queue = o :: rest ∧ o.decisions[n]? = some e ∧ e.decision = .undecided := by
  unfold isUndecided headOrder
  cases hq : s.scheduler.queue with
  | nil => simp
  | cons o rest =>
    simp only [List.head?_cons]
    cases he : o.decisions[n]? with
    | none => simp [he]
    | some e =>
      simp only [decide_eq_true_eq]
      constructor
      · exact fun h => ⟨o, rest, e, rfl, he, h⟩
      · rintro ⟨o', rest', e', h1, h2, h3⟩
        cases h1
        rw [he] at h2
        cases h2
        exact h3

theorem beside_freezeSeat (tag : BitVec 16) (k : Nat) (s : State) (x : Seat × Nat) :
    Beside s (freezeSeat tag k s x) := by
  unfold freezeSeat
  split
  · split
    · exact beside_decideSeat _ _ _ s
    · exact .refl s
  · exact .refl s

theorem lockLaw_freezeSeat {s : State} (h : LockLaw s) {p : Plan} (hp : Prints s p)
    (hn : (p.seats.map Seat.index).Nodup) {x : Seat × Nat} (hx : p.seats[x.2]? = some x.1) (tag : BitVec 16) (k : Nat) :
    LockLaw (freezeSeat tag k s x) := by
  unfold freezeSeat
  split
  · split
    · rename_i hu
      obtain ⟨o, rest, e, hq, he, hd⟩ := isUndecided_iff.1 hu.1
      exact lockLaw_decideSeat h hq (hp o rest hq) hn hx he hd tag
    · exact h
  · exact h

/-- A seat stands in its plan at its number. -/
theorem getElem?_of_mem_zipIdx {p : Plan} {x : Seat × Nat} (h : x ∈ p.seats.zipIdx) : p.seats[x.2]? = some x.1 :=
  List.mem_zipIdx_iff_getElem?.1 h

theorem lockLaw_freezeSeats {p : Plan} (hn : (p.seats.map Seat.index).Nodup) (tag : BitVec 16) (k : Nat) :
    ∀ (xs : List (Seat × Nat)) (s : State), (∀ x ∈ xs, p.seats[x.2]? = some x.1) → Prints s p → LockLaw s →
    LockLaw (xs.foldl (freezeSeat tag k) s)
  | [], _, _, _, h => h
  | x :: xs, s, hm, hp, h =>
    lockLaw_freezeSeats hn tag k xs _ (fun y hy => hm y (List.mem_cons_of_mem _ hy))
      ((beside_freezeSeat tag k s x).prints hp) (lockLaw_freezeSeat h hp hn (hm x List.mem_cons_self) tag k)

theorem beside_freezeBand (s : State) : Beside s (freezeBand s) := by
  unfold freezeBand
  split
  · exact .refl s
  · split
    · exact .refl s
    · exact (Beside.foldl (beside_freezeSeat _ _) _ s).trans (neutral_modImpression _ _).beside

/-- The freeze of a band keeps every law (R92, R93). -/
theorem keeps_freezeBand (s : State) : Keeps s (freezeBand s) := by
  refine (beside_freezeBand s).keeps fun hq hr hl => ?_
  unfold freezeBand
  split
  · exact hl
  · rename_i c hc
    split
    · exact hl
    · rename_i p hp
      exact (neutral_modImpression _ _).lockLaw (lockLaw_freezeSeats (hr.once c.plan p hp) _ _ _ s
        (fun x hx => getElem?_of_mem_zipIdx hx) (hq.prints hc hp) hl)

theorem keeps_freezeReached : ∀ (n : Nat) (s : State), Keeps s (freezeReached n s)
  | 0, s => .refl s
  | n + 1, s => by
    unfold freezeReached
    split
    · split
      · exact (keeps_freezeBand s).trans (keeps_freezeReached n _)
      · exact .refl s
    · exact .refl s

theorem keeps_takeReached (n : Nat) (s : State) : Keeps s (takeReached n s) :=
  (keeps_freezeReached n s).trans (neutral_overFirstSeats neutral_callSeatReached _).keeps

theorem keeps_offerLine (s : State) : Keeps s (offerLine s) := by
  unfold offerLine
  dsimp only
  split
  · exact (keeps_freezeBand s).trans (neutral_overFirstSeats neutral_callSeatAt _).keeps
  · exact (neutral_overFirstSeats neutral_callSeatAt s).keeps

/-! ## Beginnings -/

/-- No impression is in progress and the queue stands ready for the beginning of its head's (R65, R78). -/
structure Between (s : State) : Prop where
  loaded : ∀ o ∈ s.scheduler.queue, planOf s o.plan ≠ none
  tags : (s.scheduler.queue.map Order.tag).Nodup
  idle : s.scheduler.impression = none
  tail : ∀ (o : Order) (rest : List Order), s.scheduler.queue = o :: rest → TailForm o.rush rest

/-- The state at the beginning of the head's impression, before the lines already reached are taken. -/
def begunState (o : Order) (p : Plan) (s : State) : State :=
  let snap := snapshotOf s.tables.settings
  let start := startLine s.press.lineCount s.scheduler.prevEnd snap
  { modHead (beginOrder s p start snap) s with
    scheduler.impression := some (newImpression o p snap start)
    renderer.nextBand := 0
    press.blankWidth := p.width
    press.mode := none }

theorem beginImpression_cons {s : State} {o : Order} {rest : List Order} {p : Plan} (hq : s.scheduler.queue = o :: rest)
    (hp : planOf s o.plan = some p) :
    beginImpression s = takeReached (bandCount p.height s.tables.settings.bandHeight) (begunState o p s) := by
  unfold beginImpression headOrder
  rw [hq, List.head?_cons]
  dsimp only
  rw [hp]
  rfl

theorem beginImpression_nil {s : State} (hq : s.scheduler.queue = []) : beginImpression s = s := by
  unfold beginImpression headOrder
  rw [hq]
  rfl

theorem modHead_only (f : Order → Order) (s : State) :
    modHead f s = { s with scheduler.queue := (modHead f s).scheduler.queue } := by
  unfold modHead
  split <;> rfl

/-- A beginning changes the head, the impression, the next band to render and the port's mode and blank width alone. -/
theorem begunState_only (o : Order) (p : Plan) (s : State) : begunState o p s =
    { s with
      scheduler.queue := (begunState o p s).scheduler.queue
      scheduler.impression := (begunState o p s).scheduler.impression
      renderer.nextBand := 0
      press.blankWidth := p.width
      press.mode := none } := by
  unfold begunState
  dsimp only
  rw [modHead_only]

section
variable {s : State} {o : Order} {rest : List Order} {p : Plan} (hq : s.scheduler.queue = o :: rest)
include hq

theorem queue_begunState : (begunState o p s).scheduler.queue =
    beginOrder s p (startLine s.press.lineCount s.scheduler.prevEnd (snapshotOf s.tables.settings))
      (snapshotOf s.tables.settings) o :: rest := by
  show (modHead _ s).scheduler.queue = _
  rw [modHead_cons hq]

variable (hp : planOf s o.plan = some p)
include hp

theorem queueLaw_begunState (h : Between s) : QueueLaw (begunState o p s) := by
  have hbq := queue_begunState (p := p) hq
  have hplan : ∀ id, planOf (begunState o p s) id = planOf s id := fun id => by rw [begunState_only]; rfl
  refine ⟨fun x hx => ?_, ?_, ?_, fun c x xs hc hx => ?_, fun x xs hx => ?_⟩
  · rw [hplan]
    rw [hbq] at hx
    rcases List.mem_cons.1 hx with rfl | hx
    · show planOf s o.plan ≠ none
      rw [hp]
      nofun
    · exact h.loaded x (by rw [hq]; exact List.mem_cons_of_mem _ hx)
  · rw [hbq]
    have := h.tags
    rw [hq] at this
    exact this
  · rw [hbq]
    exact iff_of_false nofun nofun
  · cases hc
    rw [hbq] at hx
    cases hx
    exact ⟨rfl, rfl⟩
  · rw [hbq] at hx
    cases hx
    exact ⟨.inl rfl, h.tail o rest hq⟩

omit hp in
theorem rosterLaw_begunState (h : RosterLaw s) : RosterLaw (begunState o p s) := by
  refine h.congr (fun i => ?_) ?_ (fun l x hx => ?_) ?_
  · rw [begunState_only]
    exact ⟨rfl, rfl, rfl⟩
  · rw [begunState_only]
  · rw [begunState_only] at hx
    exact hx
  · rw [queue_begunState hq, hq]
    rfl

omit hq hp in
/-- A later copy's switch leaves every lock mark (R72). -/
theorem lockMark_switchEntry (s : State) (x : Seat) (e : SeatEntry) : (switchEntry s x e).lockMark = e.lockMark := by
  unfold switchEntry
  split <;> rfl

theorem lockLaw_begunState (h : LockLaw s) : LockLaw (begunState o p s) := by
  obtain ⟨⟨hlen, hmarks⟩, hfit⟩ := (lockLaw_iff s).1 h
  have hbq := queue_begunState (p := p) hq
  have hplan : ∀ id, planOf (begunState o p s) id = planOf s id := fun id => by rw [begunState_only]; rfl
  have hmem : ∀ x ∈ rest, x ∈ s.scheduler.queue := fun x hx => by rw [hq]; exact List.mem_cons_of_mem _ hx
  have ho : o ∈ s.scheduler.queue := by rw [hq]; exact List.mem_cons_self
  generalize hd : beginOrder s p (startLine s.press.lineCount s.scheduler.prevEnd (snapshotOf s.tables.settings))
      (snapshotOf s.tables.settings) o = o' at hbq
  have hplan' : planOf s o'.plan = some p := by rw [← hd]; exact hp
  have hdec : o'.decisions = if o.done = 0 then o.decisions else List.zipWith (switchEntry s) p.seats o.decisions := by
    rw [← hd]
    rfl
  refine (lockLaw_iff _).2 ⟨⟨fun x hx q hxq => ?_, fun x hx => ?_⟩, fun i => ?_⟩
  · rw [hplan] at hxq
    rw [hbq] at hx
    rcases List.mem_cons.1 hx with rfl | hx
    · rw [hplan'] at hxq
      cases hxq
      rw [hdec]
      split
      · exact hlen o ho p hp
      · rw [List.length_zipWith, hlen o ho p hp, Nat.min_self]
    · exact hlen x (hmem x hx) q hxq
  · rw [hbq] at hx
    rcases List.mem_cons.1 hx with rfl | hx
    · intro e he
      rw [hdec] at he
      split at he
      · exact hmarks o ho e he
      · obtain ⟨n, hn, rfl⟩ := List.getElem_of_mem he
        rw [List.getElem_zipWith]
        have hm := hmarks o ho (o.decisions[n]'(by rw [List.length_zipWith] at hn; omega)) (List.getElem_mem _)
        unfold switchEntry
        split
        · exact ⟨nofun, fun h => by rcases h with h | h <;> cases h⟩
        · exact hm
    · exact hmarks x (hmem x hx)
  · have hl : ∀ x, orderLocks (begunState o p s) x i = orderLocks s x i :=
      fun x => orderLocks_congr (by rw [begunState_only]) x i
    have hlock : orderLocks s o' i = orderLocks s o i := by
      rw [orderLocks_eq hplan', orderLocks_eq hp, hdec]
      split
      · rfl
      · exact seatsLock_zipWith (lockMark_switchEntry s) _ _ _
    have hc : lockCount (begunState o p s) i = lockCount s i := by
      rw [lockCount_cons hbq, lockCount_cons hq]
      simp only [hl, hlock]
    rw [hc, begunState_only]
    exact hfit i

omit hq hp in
theorem trainLaw_begunState (o : Order) (p : Plan) (h : TrainLaw s) : TrainLaw (begunState o p s) :=
  h.congr (fun l => by rw [begunState_only]; rfl) fun i => by rw [begunState_only]; rfl

omit hp in
theorem withinPlaces_begunState (h : WithinPlaces s) : WithinPlaces (begunState o p s) := by
  refine h.congr ?_ ?_ ?_
  · rw [queue_begunState hq, hq]
    rfl
  · rw [begunState_only]
    exact fun h => h
  · rw [begunState_only]
    exact fun h => h

omit hq hp in
theorem totalsLaw_begunState (o : Order) (p : Plan) (h : TotalsLaw s) : TotalsLaw (begunState o p s) := by
  rw [begunState_only]
  exact h

end

/-- Each law passes from one state to another as `Keeps` says, but what stands for the law of the queue is `P` before and
`Q` after: within the boundary of two impressions the queue's law itself does not hold. -/
structure KeepsAs (P Q : State → Prop) (s t : State) : Prop where
  trains : TrainLaw s → TrainLaw t
  places : WithinPlaces s → WithinPlaces t
  totals : TotalsLaw s → TotalsLaw t
  queue : P s → Q t
  roster : P s → RosterLaw s → RosterLaw t
  locks : P s → RosterLaw s → LockLaw s → LockLaw t

theorem KeepsAs.trans {P Q R : State → Prop} {s t u : State} (p : KeepsAs P Q s t) (q : KeepsAs Q R t u) :
    KeepsAs P R s u where
  trains h := q.trains (p.trains h)
  places h := q.places (p.places h)
  totals h := q.totals (p.totals h)
  queue h := q.queue (p.queue h)
  roster hb hr := q.roster (p.queue hb) (p.roster hb hr)
  locks hb hr hl := q.locks (p.queue hb) (p.roster hb hr) (p.locks hb hr hl)

theorem keeps_iff {s t : State} : Keeps s t ↔ KeepsAs QueueLaw QueueLaw s t :=
  ⟨fun h => ⟨h.trains, h.places, h.totals, h.queue, h.roster, h.locks⟩,
    fun h => ⟨h.trains, h.places, h.totals, h.queue, h.roster, h.locks⟩⟩

/-- With nothing in the queue the Scheduler is IDLE (R69). -/
theorem Between.queueLaw_of_nil {s : State} (h : Between s) (hq : s.scheduler.queue = []) : QueueLaw s where
  loaded := h.loaded
  tags := h.tags
  idle := iff_of_true h.idle hq
  printing c o rest hc := by
    rw [h.idle] at hc
    cases hc
  places o rest ho := by
    rw [hq] at ho
    cases ho

theorem keepsAs_beginImpression (s : State) : KeepsAs Between QueueLaw s (beginImpression s) := by
  cases hq : s.scheduler.queue with
  | nil =>
    rw [beginImpression_nil hq]
    exact ⟨id, id, id, fun h => h.queueLaw_of_nil hq, fun _ => id, fun _ _ => id⟩
  | cons o rest =>
    cases hp : planOf s o.plan with
    | none =>
      have he : beginImpression s = s := by
        unfold beginImpression headOrder
        rw [hq, List.head?_cons]
        dsimp only
        rw [hp]
      have hno : ¬Between s := fun h => h.loaded o (by rw [hq]; exact List.mem_cons_self) hp
      rw [he]
      exact ⟨id, id, id, fun h => absurd h hno, fun _ => id, fun _ _ => id⟩
    | some p =>
      rw [beginImpression_cons hq hp]
      exact KeepsAs.trans (Q := QueueLaw) ⟨trainLaw_begunState o p, withinPlaces_begunState hq, totalsLaw_begunState o p,
        queueLaw_begunState hq hp, fun _ => rosterLaw_begunState hq, fun _ _ => lockLaw_begunState hq hp⟩
        (keeps_iff.1 (keeps_takeReached _ _))

end Sys2Proof.Machine
end

section
/-!
Orders under the laws: the removal of an order, its fate at the end of an impression, the taking of an order and its
withdrawal.
-/

namespace Sys2Proof.Machine

/-! ## Counting over the queue -/

/-- An order of the queue and those of other tags are counted apart. -/
theorem countP_eq_without {q : List Order} {o : Order} (ht : (q.map Order.tag).Nodup) (ho : o ∈ q) (f : Order → Bool) :
    q.countP f = (q.filter fun x => decide (x.tag ≠ o.tag)).countP f + if f o then 1 else 0 := by
  induction q with
  | nil => cases ho
  | cons x q ih =>
    rw [List.map_cons, List.nodup_cons] at ht
    rcases List.mem_cons.1 ho with rfl | ho
    · have hrest : q.filter (fun x => decide (x.tag ≠ o.tag)) = q :=
        List.filter_eq_self.2 fun y hy => decide_eq_true fun he => ht.1 (he ▸ List.mem_map_of_mem hy)
      rw [List.filter_cons_of_neg (by simp), hrest, List.countP_cons]
    · have hne : x.tag ≠ o.tag := fun he => ht.1 (he ▸ List.mem_map_of_mem ho)
      rw [List.filter_cons_of_pos (by simpa using hne), List.countP_cons, List.countP_cons, ih ht.2 ho]
      omega

/-- The order of a tag at the head leaves the orders behind it. -/
theorem filter_head {o : Order} {rest : List Order} (ht : ((o :: rest).map Order.tag).Nodup) :
    (o :: rest).filter (fun x => decide (x.tag ≠ o.tag)) = rest := by
  rw [List.map_cons, List.nodup_cons] at ht
  rw [List.filter_cons_of_neg (by simp)]
  exact List.filter_eq_self.2 fun y hy => decide_eq_true fun he => ht.1 (he ▸ List.mem_map_of_mem hy)

/-- The seats of a plan that name an index, which are one at most (R7). -/
theorem countP_index {p : Plan} (hn : (p.seats.map Seat.index).Nodup) (i : RosterIndex) :
    (p.seats.countP fun x => decide (x.index = i)) = if p.seats.any fun x => decide (x.index = i) then 1 else 0 := by
  have h : (p.seats.countP fun x => decide (x.index = i)) = (p.seats.map Seat.index).count i := by
    rw [List.count, List.countP_map]
    refine List.countP_congr fun x _ => ?_
    simp
  rw [h, hn.count]
  refine if_congr ?_ rfl rfl
  simp

theorem orderNames_eq {s : State} {o : Order} {p : Plan} (h : planOf s o.plan = some p) (i : RosterIndex) :
    orderNames s o i = p.seats.any fun x => decide (x.index = i) := by
  unfold orderNames
  rw [h]

/-- An order holds locks on indices that its plan names. -/
theorem orderNames_of_locks {s : State} {o : Order} {i : RosterIndex} (h : orderLocks s o i = true) :
    orderNames s o i = true := by
  cases hp : planOf s o.plan with
  | none =>
    unfold orderLocks at h
    rw [hp] at h
    cases h
  | some p =>
    rw [orderLocks_eq hp] at h
    obtain ⟨⟨x, e⟩, hx, hi⟩ := List.any_eq_true.1 h
    rw [orderNames_eq hp]
    exact List.any_eq_true.2 ⟨x, (List.of_mem_zip hx).1, (Bool.and_eq_true_iff.1 hi).1⟩

/-- An index without a pending use is locked by no order (R12). -/
theorem lockCount_eq_zero {s : State} (h : RosterLaw s) {i : RosterIndex} (hu : (recordOf s i).uses = 0) :
    lockCount s i = 0 := by
  rw [h.uses, List.countP_eq_zero] at hu
  exact List.countP_eq_zero.2 fun o ho hl => hu o ho (orderNames_of_locks hl)

/-! ## The removal of an order -/

/-- One lock given back: the entry fits one lock less. -/
theorem EntryFits.unlock {n : Nat} {w : Bool} {e : DirEntry} (h : EntryFits (n + 1) w e) :
    EntryFits n w (entryUnlocked w e) := by
  unfold entryUnlocked
  cases hh : e.held with
  | none => exact absurd (h.free hh) (by omega)
  | some x =>
    have hlock : x.lock = n + 1 := h.held x hh
    have hready : x.state ≠ .damaged := fun hd => by
      have := h.damaged x hh hd
      omega
    dsimp only
    split
    · have hn : 0 < n := by omega
      have hpos : 0 < x.lock - 1 := by omega
      exact
        { held := fun y hy => by cases hy; show x.lock - 1 = n; omega
          free := nofun
          damaged := fun y hy hd => by cases hy; exact absurd hd hready
          waiting := fun _ _ _ => ⟨_, rfl, hpos⟩
          withheld := fun hw => ⟨(h.withheld hw).1, fun y hy => by cases hy; exact hpos⟩ }
    · have hn : n = 0 := by omega
      subst hn
      split
      · rename_i hw
        have hin : e.incoming = none := (h.withheld hw).1
        exact ⟨nofun, fun _ => rfl, nofun, (fun v hv => by rw [hin] at hv; cases hv), fun _ => ⟨hin, nofun⟩⟩
      · rename_i hw
        cases w
        · split
          · exact entryFits_fresh _ _
          · refine ⟨fun y hy => by cases hy; rfl, nofun, fun y hy _ => by cases hy; rfl, fun v hv hs => ?_, nofun⟩
            have hv' : e.incoming = some v := hv
            rename_i hi
            rw [hv'] at hi
            cases hi
            cases hs
          · rename_i hi
            refine ⟨fun y hy => by cases hy; rfl, nofun, fun y hy _ => by cases hy; rfl, fun v hv hs => ?_, nofun⟩
            have hv' : e.incoming = some v := hv
            rw [hv'] at hi
            cases hi
        · exact absurd rfl hw

/-- The FILLING versions and the train states stand. -/
def SameFilling (s t : State) : Prop :=
  (∀ l, trainOf t l = trainOf s l) ∧ ∀ i, Fills (entryOf t i) ↔ Fills (entryOf s i)

theorem SameFilling.trans {s t u : State} (p : SameFilling s t) (q : SameFilling t u) : SameFilling s u :=
  ⟨fun l => (q.1 l).trans (p.1 l), fun i => (q.2 i).trans (p.2 i)⟩

theorem SameFilling.foldl {α : Type} {f : State → α → State} (h : ∀ s x, SameFilling s (f s x)) :
    ∀ (xs : List α) (s : State), SameFilling s (xs.foldl f s)
  | [], _ => ⟨fun _ => rfl, fun _ => Iff.rfl⟩
  | x :: xs, s => (h s x).trans (SameFilling.foldl h xs (f s x))

theorem fills_entryUnlocked (w : Bool) (e : DirEntry) : Fills (entryUnlocked w e) ↔ Fills e := by
  unfold entryUnlocked
  split
  · exact Iff.rfl
  · split
    · exact Iff.rfl
    · split
      · exact Iff.rfl
      · split
        · rename_i hi
          unfold Fills
          rw [hi]
          exact iff_of_false nofun nofun
        · exact Iff.rfl
        · exact Iff.rfl

theorem sameFilling_giveBackLock (s : State) (x : Seat × SeatEntry) : SameFilling s (giveBackLock s x) := by
  rw [giveBackLock_eq]
  split
  · refine ⟨fun l => ?_, fun i => ?_⟩
    · rw [tileOnly_unlockEntry]
      rfl
    · rw [entryOf_unlockEntry]
      split
      · rename_i hi
        rw [hi]
        exact fills_entryUnlocked _ _
      · exact Iff.rfl
  · exact ⟨fun _ => rfl, fun _ => Iff.rfl⟩

theorem sameFilling_freeAfterUse (is : List RosterIndex) (s : State) : SameFilling s (freeAfterUse is s) := by
  refine ⟨fun l => ?_, fun i => ?_⟩
  · rw [tileOnly_freeAfterUse]
    rfl
  · rw [(freeAfterUse_spec _ _ _).2]
    split <;> exact Iff.rfl

theorem sameFilling_removedState (o : Order) (s : State) : SameFilling s (removedState o s) := by
  have h : SameFilling s (detachedState o s) := by
    refine SameFilling.trans (SameFilling.foldl sameFilling_giveBackLock ((seatsOf s o).zip o.decisions) s)
      (SameFilling.trans (SameFilling.foldl (f := lowerUse) (fun s x => ⟨fun _ => rfl, fun _ => Iff.rfl⟩) (seatsOf s o) _)
        ⟨fun _ => rfl, fun _ => Iff.rfl⟩)
  rw [removedState_eq]
  split
  · exact h.trans (sameFilling_freeAfterUse _ _)
  · exact h

theorem trainLaw_removedState {o : Order} {s : State} (h : TrainLaw s) : TrainLaw (removedState o s) := by
  have hs := sameFilling_removedState o s
  exact h.congr (fun l => by rw [hs.1]) hs.2

theorem queue_removedState (o : Order) (s : State) :
    (removedState o s).scheduler.queue = s.scheduler.queue.filter fun x => decide (x.tag ≠ o.tag) := by
  rw [removedState_only]

theorem planOf_removedState (o : Order) (s : State) (id : Fin 8) : planOf (removedState o s) id = planOf s id := by
  rw [removedState_only]
  rfl

theorem plans_removedState (o : Order) (s : State) : (removedState o s).tables.plans = s.tables.plans := by
  rw [removedState_only]

theorem withinPlaces_removedState {o : Order} {s : State} (h : WithinPlaces s) : WithinPlaces (removedState o s) := by
  obtain ⟨h1, h2, h3⟩ := h
  rw [removedState_only]
  exact ⟨(List.length_filter_le _ _).trans h1, (List.length_filter_le _ _).trans h2, h3⟩

theorem totalsLaw_removedState {o : Order} {s : State} (h : TotalsLaw s) : TotalsLaw (removedState o s) := by
  rw [removedState_only]
  exact h

section
variable {o : Order} {s : State} (ho : o ∈ s.scheduler.queue) (ht : (s.scheduler.queue.map Order.tag).Nodup)
include ho ht

theorem lockCount_removedState (i : RosterIndex) :
    lockCount s i = lockCount (removedState o s) i + if orderLocks s o i then 1 else 0 := by
  unfold lockCount
  rw [queue_removedState, countP_eq_without ht ho]
  congr 1
  exact List.countP_congr fun x _ => by rw [orderLocks_congr (plans_removedState o s)]

variable (hl : planOf s o.plan ≠ none)
include hl

theorem rosterLaw_removedState (h : RosterLaw s) : RosterLaw (removedState o s) := by
  obtain ⟨p, hp⟩ := Option.ne_none_iff_exists'.1 hl
  have hn := h.once o.plan p hp
  have hr := (removedState_removed hp hn).records
  refine ⟨fun i => ?_, fun i j => ?_, fun id q => ?_, fun l g first count hg => ?_, fun i => ?_⟩
  · rw [hr]
    exact h.listed i
  · rw [hr, hr]
    exact h.unique i j
  · rw [planOf_removedState]
    exact h.once id q
  · rw [removedState_only] at hg
    exact h.range l g first count hg
  · rw [hr, queue_removedState]
    dsimp only
    rw [h.uses, countP_index hn, countP_eq_without ht ho, ← orderNames_eq hp, Nat.add_sub_cancel]
    exact List.countP_congr fun x _ => by rw [orderNames_congr (plans_removedState o s)]

theorem lockLaw_removedState (hr : RosterLaw s) (h : LockLaw s) : LockLaw (removedState o s) := by
  obtain ⟨p, hp⟩ := Option.ne_none_iff_exists'.1 hl
  obtain ⟨htab, hfit⟩ := (lockLaw_iff s).1 h
  have hrem := removedState_removed hp (hr.once o.plan p hp)
  have hmem : ∀ x ∈ (removedState o s).scheduler.queue, x ∈ s.scheduler.queue := fun x hx => by
    rw [queue_removedState] at hx
    exact List.mem_of_mem_filter hx
  refine (lockLaw_iff _).2 ⟨⟨fun x hx q hq => ?_, fun x hx => htab.marks x (hmem x hx)⟩, fun i => ?_⟩
  · rw [planOf_removedState] at hq
    exact htab.entries x (hmem x hx) q hq
  · have hc := lockCount_removedState ho ht i
    have hw : (recordOf (removedState o s) i).withheld = (recordOf s i).withheld := by rw [hrem.records]
    have hunlocked : EntryFits (lockCount (removedState o s) i) (recordOf s i).withheld
        (if orderLocks s o i then entryUnlocked (recordOf s i).withheld (entryOf s i) else entryOf s i) := by
      have hi := hfit i
      rw [hc] at hi
      split
      · rename_i hlock
        rw [if_pos hlock] at hi
        exact hi.unlock
      · rename_i hlock
        rw [if_neg hlock] at hi
        exact hi
    rw [hw, hrem.entries]
    split
    · rename_i hfree
      refine hunlocked.emptyHeld fun y hy => ?_
      rw [hunlocked.held y hy]
      exact lockCount_eq_zero (rosterLaw_removedState ho ht hl hr) hfree.2.2
    · exact hunlocked

end

/-! ## Places in the queue -/

theorem isQueuedRush_iff (o : Order) : isQueuedRush o = true ↔ o.state = .queued ∧ o.rush = true := by
  unfold isQueuedRush
  rw [Bool.and_eq_true, decide_eq_true_eq]

/-- An order placed behind the run of QUEUED rush orders. -/
theorem behindRushes_append (o : Order) : ∀ (rushes rest : List Order), (∀ x ∈ rushes, isQueuedRush x = true) →
    (∀ x ∈ rest, isQueuedRush x = false) → behindRushes o (rushes ++ rest) = rushes ++ o :: rest
  | [], [], _, _ => rfl
  | [], x :: xs, _, h => by
    rw [List.nil_append]
    unfold behindRushes
    rw [if_neg (by rw [h x List.mem_cons_self]; nofun)]
    rfl
  | r :: rs, rest, hr, h => by
    rw [List.cons_append]
    unfold behindRushes
    rw [if_pos (hr r List.mem_cons_self),
      behindRushes_append o rs rest (fun x hx => hr x (List.mem_cons_of_mem _ hx)) h]
    rfl

/-- The tail of a queue as the run of its QUEUED rush orders and what stands behind it, which has none. -/
theorem TailForm.run {r : Bool} {rest : List Order} (h : TailForm r rest) :
    ∃ rushes suspended others : List Order, rest = rushes ++ (suspended ++ others)
      ∧ (∀ x ∈ rushes, x.state = .queued ∧ x.rush = true)
      ∧ (∀ x ∈ suspended, x.state = .suspended ∧ x.rush = false)
      ∧ (∀ x ∈ others, x.state = .queued ∧ x.rush = false)
      ∧ suspended.length ≤ 1 ∧ (suspended ≠ [] → r = true)
      ∧ ∀ o, behindRushes o rest = rushes ++ o :: (suspended ++ others) := by
  obtain ⟨a, b, c, hrest, ha, hb, hc, hl, hr⟩ := h
  rw [List.append_assoc] at hrest
  refine ⟨a, b, c, hrest, ha, hb, hc, hl, hr, fun o => ?_⟩
  rw [hrest]
  refine behindRushes_append o a _ (fun x hx => (isQueuedRush_iff x).2 (ha x hx)) fun x hx => ?_
  rw [Bool.eq_false_iff, ne_eq, isQueuedRush_iff]
  rcases List.mem_append.1 hx with hx | hx
  · rw [(hb x hx).1]
    exact nofun
  · rw [(hc x hx).2]
    exact nofun

/-- What stands behind the second order of a queue. -/
theorem TailForm.next {r : Bool} {x : Order} {rest : List Order} (h : TailForm r (x :: rest)) :
    TailForm x.rush rest := by
  obtain ⟨a, b, c, he, ha, hb, hc, hl, hr⟩ := h
  cases a with
  | cons y a =>
    cases he
    exact ⟨a, b, c, rfl, fun z hz => ha z (List.mem_cons_of_mem _ hz), hb, hc, hl,
      fun _ => (ha x List.mem_cons_self).2⟩
  | nil =>
    cases b with
    | cons y b =>
      cases he
      have : b = [] := List.length_eq_zero_iff.1 (by simpa using hl)
      subst this
      exact ⟨[], [], c, rfl, nofun, nofun, hc, by simp, fun h => absurd rfl h⟩
    | nil =>
      cases c with
      | cons y c =>
        cases he
        exact ⟨[], [], _, rfl, nofun, nofun, fun z hz => hc z (List.mem_cons_of_mem _ hz), by simp,
          fun h => absurd rfl h⟩
      | nil => cases he

/-- Orders that leave do not disturb the tail. -/
theorem TailForm.filter {r : Bool} {rest : List Order} (h : TailForm r rest) (f : Order → Bool) :
    TailForm r (rest.filter f) := by
  obtain ⟨a, b, c, rfl, ha, hb, hc, hl, hr⟩ := h
  refine ⟨a.filter f, b.filter f, c.filter f, by rw [List.filter_append, List.filter_append],
    fun x hx => ha x (List.mem_of_mem_filter hx), fun x hx => hb x (List.mem_of_mem_filter hx),
    fun x hx => hc x (List.mem_of_mem_filter hx), (List.length_filter_le _ _).trans hl, fun hne => hr ?_⟩
  rintro rfl
  exact hne rfl

/-- A QUEUED ordinary order joins the back. -/
theorem TailForm.append {r : Bool} {rest : List Order} (h : TailForm r rest) {o : Order} (hs : o.state = .queued)
    (hr : o.rush = false) : TailForm r (rest ++ [o]) := by
  obtain ⟨a, b, c, rfl, ha, hb, hc, hl, hsus⟩ := h
  refine ⟨a, b, c ++ [o], by rw [List.append_assoc], ha, hb, fun x hx => ?_, hl, hsus⟩
  rcases List.mem_append.1 hx with hx | hx
  · exact hc x hx
  · rw [List.mem_singleton.1 hx]
    exact ⟨hs, hr⟩

/-- A QUEUED rush order joins the run of those. -/
theorem TailForm.rush {r : Bool} {rest : List Order} (h : TailForm r rest) {o : Order} (hs : o.state = .queued)
    (hr : o.rush = true) : TailForm r (behindRushes o rest) := by
  obtain ⟨a, b, c, -, ha, hb, hc, hl, hsus, he⟩ := h.run
  refine ⟨a ++ [o], b, c, by rw [he]; simp, fun x hx => ?_, hb, hc, hl, hsus⟩
  rcases List.mem_append.1 hx with hx | hx
  · exact ha x hx
  · rw [List.mem_singleton.1 hx]
    exact ⟨hs, hr⟩

end Sys2Proof.Machine
end

section
/-!
The boundary of two impressions, the taking of an order and its withdrawal, under the laws.
-/

namespace Sys2Proof.Machine

/-! ## The fate of the order whose impression has ended -/

/-- A removal from the head of a queue between two impressions. -/
theorem between_removeHead {s : State} (h : Between s) {o : Order} {rest : List Order}
    (hq : s.scheduler.queue = o :: rest) : Between (removedState o s) := by
  have hrest : (removedState o s).scheduler.queue = rest := by
    rw [queue_removedState, hq]
    exact filter_head (hq ▸ h.tags)
  refine ⟨fun x hx => ?_, ?_, ?_, fun x xs hx => ?_⟩
  · rw [planOf_removedState]
    rw [hrest] at hx
    exact h.loaded x (by rw [hq]; exact List.mem_cons_of_mem _ hx)
  · rw [hrest]
    have := h.tags
    rw [hq, List.map_cons, List.nodup_cons] at this
    exact this.2
  · rw [removedState_only]
    exact h.idle
  · rw [hrest] at hx
    subst hx
    exact (h.tail o _ hq).next

/-- A change that no law sees, of the state between two impressions. -/
theorem Between.congr {s t : State} (n : Outside s t) (h : Between s) : Between t := by
  have hp := map_place_of_core n.queue
  refine ⟨fun o ho => ?_, ?_, ?_, fun o rest ho => ?_⟩
  · obtain ⟨x, hx, he⟩ := exists_mem_of_map_eq hp ho
    rw [planOf_congr n.plans, ← plan_of_place he]
    exact h.loaded x hx
  · have ht : ∀ q : List Order, q.map Order.tag = (q.map Order.place).map Order.tag := fun q => by
      rw [List.map_map]
      rfl
    rw [ht, hp, ← ht]
    exact h.tags
  · have := n.impression
    rw [h.idle, Option.map_none, Option.map_eq_none_iff] at this
    exact this
  · rw [ho, List.map_cons] at hp
    obtain ⟨x, xs, hx, he, hxs⟩ := List.map_eq_cons_iff.1 hp.symm
    rw [← rush_of_place he]
    exact (h.tail x xs hx).congr hxs.symm

theorem StoreStep.keepsAs {s t : State} (p : StoreStep s t) : KeepsAs Between Between s t where
  trains := p.keeps.trains
  places := p.keeps.places
  totals := p.keeps.totals
  queue h := h.congr p.toOutside
  roster _ h := h.congr (fun i => by rw [p.records]; exact ⟨rfl, rfl, rfl⟩) p.plans p.staged
    (map_plan_of_place (map_place_of_core p.queue))
  locks _ _ := p.locks

/-- A queue in another order, for each law but the queue's own. -/
theorem keepsAs_reorder {P Q : State → Prop} {s : State} {q : List Order}
    (hp : (q.map Order.table).Perm (s.scheduler.queue.map Order.table))
    (hq : P s → Q { s with scheduler.queue := q }) : KeepsAs P Q s { s with scheduler.queue := q } := by
  have hmem : ∀ x ∈ q, ∃ y ∈ s.scheduler.queue, y.plan = x.plan ∧ y.decisions = x.decisions := fun x hx => by
    obtain ⟨y, hy, he⟩ := List.mem_map.1 (hp.mem_iff.1 (List.mem_map_of_mem hx))
    exact ⟨y, hy, congrArg Prod.fst he, congrArg Prod.snd he⟩
  have hcount : ∀ (f : Order → Bool) (r : Fin 8 × List SeatEntry → Bool), (∀ x, f x = r x.table) →
      q.countP f = s.scheduler.queue.countP f := fun f r hr => by
    rw [show f = r ∘ Order.table from funext hr, ← List.countP_map, ← List.countP_map]
    exact hp.countP_eq r
  refine ⟨fun h => h.congr (fun _ => rfl) fun _ => Iff.rfl, fun h => ⟨?_, h.2.1, h.2.2⟩, fun h => h, hq, fun _ h => ⟨h.listed, h.unique, h.once, h.range, fun i => ?_⟩,
    fun _ _ h => ?_⟩
  · have := hp.length_eq
    rw [List.length_map, List.length_map] at this
    exact this ▸ h.1
  · refine (h.uses i).trans (hcount (fun o => orderNames s o i)
      (fun x => match planOf s x.1 with
        | some p => p.seats.any fun x => decide (x.index = i)
        | none => false) fun _ => rfl).symm
  · obtain ⟨htab, hfit⟩ := (lockLaw_iff s).1 h
    refine (lockLaw_iff _).2 ⟨⟨fun x hx p hpx => ?_, fun x hx => ?_⟩, fun i => ?_⟩
    · obtain ⟨y, hy, h1, h2⟩ := hmem x hx
      rw [← h2]
      exact htab.entries y hy p (by rw [h1]; exact hpx)
    · obtain ⟨y, hy, -, h2⟩ := hmem x hx
      rw [← h2]
      exact htab.marks y hy
    · have hc : lockCount { s with scheduler.queue := q } i = lockCount s i :=
        hcount (fun o => orderLocks s o i)
          (fun x => match planOf s x.1 with
            | some p => (p.seats.zip x.2).any fun x => decide (x.1.index = i) && x.2.lockMark
            | none => false) fun _ => rfl
      rw [hc]
      exact hfit i

/-- The removal of the head between two impressions. -/
theorem keepsAs_removeHead {s : State} {o : Order} {rest : List Order} (hq : s.scheduler.queue = o :: rest) :
    KeepsAs Between Between s (removeOrder o s) := by
  have ho : o ∈ s.scheduler.queue := by rw [hq]; exact List.mem_cons_self
  rw [removeOrder_eq]
  exact KeepsAs.trans (Q := Between)
    ⟨trainLaw_removedState, withinPlaces_removedState, totalsLaw_removedState, fun h => between_removeHead h hq,
      fun h => rosterLaw_removedState ho h.tags (h.loaded o ho),
      fun h => lockLaw_removedState ho h.tags (h.loaded o ho)⟩
    (storeStep_lowWaterTest _).keepsAs

theorem perm_behindRushes (o : Order) : ∀ xs : List Order, (behindRushes o xs).Perm (o :: xs)
  | [] => .refl _
  | x :: xs => by
    unfold behindRushes
    split
    · exact ((perm_behindRushes o xs).cons x).trans (.swap ..)
    · exact .refl _

/-- A suspended order stands behind the run of QUEUED rush orders (R77). -/
theorem between_suspend {s : State} (h : Between s) {o next : Order} {rest : List Order}
    (hq : s.scheduler.queue = o :: next :: rest) (ho : o.rush = false) (hn : isQueuedRush next = true) :
    Between { s with scheduler.queue := behindRushes { o with state := .suspended } (next :: rest) } := by
  have hperm := perm_behindRushes { o with state := .suspended } (next :: rest)
  obtain ⟨a, b, c, he, ha, hb, hc, -, hsus, hbehind⟩ := (h.tail o (next :: rest) hq).run
  have hb0 : b = [] := by
    by_contra hne
    rw [hsus hne] at ho
    cases ho
  subst hb0
  have hback : ∀ x ∈ behindRushes { o with state := .suspended } (next :: rest),
      ∃ y ∈ s.scheduler.queue, y.plan = x.plan := fun x hx => by
    rw [hq]
    rcases List.mem_cons.1 (hperm.mem_iff.1 hx) with rfl | hx
    · exact ⟨o, List.mem_cons_self, rfl⟩
    · exact ⟨x, List.mem_cons_of_mem _ hx, rfl⟩
  refine ⟨fun x hx => ?_, ?_, h.idle, fun x xs hx => ?_⟩
  · obtain ⟨y, hy, hxy⟩ := hback x hx
    have := h.loaded y hy
    rw [hxy] at this
    exact this
  · refine ((hperm.map Order.tag).nodup_iff).2 ?_
    have := h.tags
    rw [hq] at this
    exact this
  · dsimp only at hx
    rw [hbehind] at hx
    cases a with
    | nil =>
      rw [List.nil_append, List.nil_append] at he
      rw [isQueuedRush_iff] at hn
      have := (hc next (by rw [← he]; exact List.mem_cons_self)).2
      rw [hn.2] at this
      cases this
    | cons r a =>
      cases hx
      refine ⟨a, [{ o with state := .suspended }], c, by simp, fun x hx => ha x (List.mem_cons_of_mem _ hx), ?_, hc,
        by simp, fun _ => (ha _ List.mem_cons_self).2⟩
      intro x hx
      rw [List.mem_singleton.1 hx]
      exact ⟨rfl, ho⟩

theorem keepsAs_settleFate (s : State) : KeepsAs Between Between s (settleFate s) := by
  have hrefl : KeepsAs Between Between s s := (StoreStep.refl s).keepsAs
  unfold settleFate
  split
  · exact hrefl
  · rename_i o rest hq
    split
    · exact (keepsAs_removeHead hq).trans (neutral_latchKind _ _).storeStep.keepsAs
    · split
      · rename_i next rest'
        split
        · rename_i hsus
          simp only [Bool.not_eq_true'] at hsus
          refine keepsAs_reorder ?_ fun h => between_suspend h hq hsus.1 hsus.2
          rw [hq]
          exact (perm_behindRushes _ _).map Order.table
        · exact hrefl
      · exact hrefl

/-- The release of the context: the state stands between two impressions. -/
theorem keepsAs_release {s : State} (x : LineValue) :
    KeepsAs QueueLaw Between s { s with scheduler.prevEnd := x, scheduler.impression := none } where
  trains h := h.congr (fun _ => rfl) fun _ => Iff.rfl
  places h := h
  totals h := h
  queue h := ⟨h.loaded, h.tags, rfl, fun _ _ hq => h.tail hq⟩
  roster _ h := ⟨h.listed, h.unique, h.once, h.range, h.uses⟩
  locks _ _ h := ⟨h.entries, h.marks, h.held, h.free, h.damaged, h.waiting, h.withheld⟩

theorem keeps_endImpression (s : State) : Keeps s (endImpression s) := by
  unfold endImpression
  split
  · rename_i c o hc ho
    dsimp only
    have h1 : Neutral s (writePage (pageRecord s c o) (modHead (fun o => { o with done := o.done + 1 }) s)) :=
      (neutral_modHead (fun o => { o with done := o.done + 1 }) s).trans {}
    refine keeps_iff.2 (KeepsAs.trans ?_ (KeepsAs.trans (keepsAs_release (c.endLine + 1))
      (KeepsAs.trans (keepsAs_settleFate _) (keepsAs_beginImpression _))))
    refine keeps_iff.1 ?_
    split
    · exact (h1.trans (neutral_latchKind _ _)).keeps
    · exact h1.keeps
  · exact .refl s

/-! ## The taking of an order -/

/-- What R67's checks have found where they find nothing to refuse. -/
structure OrderFits (p : List Byte) (a : OrderArgs) (plan : Plan) (s : State) : Prop where
  tag : a.tag = BitVec.ofNat 16 (be16 p 0)
  slot : planArgument p 2 = some a.plan
  copies : a.copies = byteAt p 3
  some_tag : a.tag ≠ 0
  some_copies : a.copies ≠ 0
  room : s.scheduler.queue.length < Config.queuePlaces
  fresh : ∀ o ∈ s.scheduler.queue, o.tag ≠ a.tag
  loaded : planOf s a.plan = some plan
  listed : ∀ x ∈ plan.seats, (recordOf s x.index).listed = true

theorem checkOrder_ok {p : List Byte} {s : State} {a : OrderArgs} {plan : Plan} (h : checkOrder p s = .ok (a, plan)) :
    OrderFits p a plan s := by
  unfold checkOrder at h
  dsimp only at h
  split at h
  · cases h
  · rename_i id hid
    split at h
    · cases h
    · rename_i hargs
      split at h
      · cases h
      · rename_i hroom
        split at h
        · cases h
        · rename_i hfresh
          split at h
          · cases h
          · rename_i q hplan
            split at h
            · cases h
            · rename_i hlisted
              cases h
              rw [not_or] at hargs
              refine ⟨rfl, hid, rfl, hargs.1, hargs.2, by omega, fun o ho he => hfresh ?_, hplan, fun x hx => ?_⟩
              · exact List.any_eq_true.2 ⟨o, ho, decide_eq_true he⟩
              · by_contra hl
                exact hlisted (List.any_eq_true.2 ⟨x, hx, by simpa using hl⟩)

theorem recordOf_setRecord (i j : RosterIndex) (r : RosterRecord) (s : State) :
    recordOf (setRecord i r s) j = if j = i then r else recordOf s j := by
  unfold recordOf setRecord
  simp only [Fin.getElem_fin, Vector.getElem_set, Fin.ext_iff, eq_comm]

/-- Raising pending uses changes the roster alone. -/
theorem raiseUses_only (xs : List Seat) (s : State) :
    xs.foldl raiseUse s = { s with tables.roster := (xs.foldl raiseUse s).tables.roster } := by
  induction xs generalizing s with
  | nil => rfl
  | cons x xs ih => exact ih (raiseUse s x)

theorem recordOf_raiseUses (i : RosterIndex) : ∀ (xs : List Seat) (s : State),
    recordOf (xs.foldl raiseUse s) i =
      { recordOf s i with uses := (recordOf s i).uses + xs.countP fun x => decide (x.index = i) }
  | [], _ => rfl
  | x :: xs, s => by
    rw [List.foldl_cons, recordOf_raiseUses i xs, List.countP_cons]
    unfold raiseUse
    rw [recordOf_setRecord]
    by_cases h : i = x.index
    · subst h
      simp only [if_true, decide_true]
      congr 1
      omega
    · rw [if_neg h, if_neg (by simpa using Ne.symm h), Nat.add_zero]

/-- The state with an order in the queue and its pending uses claimed. -/
def joinedState (queue : List Order) (p : Plan) (s : State) : State :=
  p.seats.foldl raiseUse { s with scheduler.queue := queue }

theorem joinedState_only (queue : List Order) (p : Plan) (s : State) : joinedState queue p s =
    { s with
      tables.roster := (joinedState queue p s).tables.roster
      scheduler.queue := queue } := raiseUses_only _ _

theorem recordOf_joinedState (queue : List Order) (p : Plan) (s : State) (i : RosterIndex) :
    recordOf (joinedState queue p s) i =
      { recordOf s i with uses := (recordOf s i).uses + p.seats.countP fun x => decide (x.index = i) } :=
  recordOf_raiseUses i _ _

theorem planOf_joinedState (queue : List Order) (p : Plan) (s : State) (id : Fin 8) :
    planOf (joinedState queue p s) id = planOf s id := by
  rw [joinedState_only]
  rfl

/-- A new order holds no lock. -/
theorem orderLocks_newOrder (s : State) (a : OrderArgs) (p : Plan) (r : Bool) (i : RosterIndex) :
    orderLocks s (newOrder a p r) i = false := by
  unfold orderLocks
  split
  · rw [List.any_eq_false]
    rintro ⟨x, e⟩ hx
    have := (List.of_mem_zip hx).2
    unfold newOrder at this
    obtain ⟨y, -, he⟩ := List.mem_map.1 this
    rw [← he]
    simp
  · rfl

section
variable {bs : List Byte} {a : OrderArgs} {p : Plan} {s : State} (hf : OrderFits bs a p s) {r : Bool}
  {queue : List Order} (hperm : queue.Perm (newOrder a p r :: s.scheduler.queue))
include hf hperm

theorem loaded_joined {P : State → Prop} (hP : P s → ∀ o ∈ s.scheduler.queue, planOf s o.plan ≠ none) (h : P s) :
    ∀ o ∈ queue, planOf s o.plan ≠ none := by
  intro o ho
  rcases List.mem_cons.1 (hperm.mem_iff.1 ho) with rfl | ho
  · show planOf s a.plan ≠ none
    rw [hf.loaded]
    nofun
  · exact hP h o ho

theorem tags_joined (h : (s.scheduler.queue.map Order.tag).Nodup) : (queue.map Order.tag).Nodup := by
  refine ((hperm.map Order.tag).nodup_iff).2 ?_
  rw [List.map_cons, List.nodup_cons]
  refine ⟨fun hm => ?_, h⟩
  obtain ⟨o, ho, he⟩ := List.mem_map.1 hm
  exact hf.fresh o ho he

/-- An order joins the queue, for each law but the queue's own. -/
theorem keepsAs_joined {Q : State → Prop} (hq : QueueLaw s → Q (joinedState queue p s)) :
    KeepsAs QueueLaw Q s (joinedState queue p s) := by
  have hplans : (joinedState queue p s).tables.plans = s.tables.plans := by rw [joinedState_only]
  have hqueue : (joinedState queue p s).scheduler.queue = queue := by rw [joinedState_only]
  refine ⟨fun h => ?_, fun h => ?_, fun h => ?_, hq, fun _ h => ?_, fun _ hr h => ?_⟩
  · exact h.congr (fun l => by rw [joinedState_only]; rfl) fun i => by rw [joinedState_only]; rfl
  · rw [joinedState_only]
    refine ⟨?_, h.2⟩
    show queue.length ≤ _
    rw [hperm.length_eq, List.length_cons]
    exact hf.room
  · rw [joinedState_only]
    exact h
  · refine ⟨fun i => ?_, fun i j => ?_, fun id q => ?_, fun l g first count hg => ?_, fun i => ?_⟩
    · rw [recordOf_joinedState]
      exact h.listed i
    · rw [recordOf_joinedState, recordOf_joinedState]
      exact h.unique i j
    · rw [planOf_joinedState]
      exact h.once id q
    · rw [joinedState_only] at hg
      exact h.range l g first count hg
    · rw [recordOf_joinedState, hqueue, hperm.countP_eq, List.countP_cons]
      dsimp only
      rw [h.uses, countP_index (h.once a.plan p hf.loaded), orderNames_congr hplans,
        orderNames_eq (o := newOrder a p r) hf.loaded]
      congr 1
      exact List.countP_congr fun x _ => by rw [orderNames_congr hplans]
  · obtain ⟨htab, hfit⟩ := (lockLaw_iff s).1 h
    refine (lockLaw_iff _).2 ⟨⟨fun x hx q hxq => ?_, fun x hx => ?_⟩, fun i => ?_⟩
    · rw [planOf_joinedState] at hxq
      rw [hqueue] at hx
      rcases List.mem_cons.1 (hperm.mem_iff.1 hx) with rfl | hx
      · have hxq' : planOf s a.plan = some q := hxq
        rw [hf.loaded] at hxq'
        cases hxq'
        exact List.length_map _
      · exact htab.entries x hx q hxq
    · rw [hqueue] at hx
      rcases List.mem_cons.1 (hperm.mem_iff.1 hx) with rfl | hx
      · intro e he
        obtain ⟨y, -, he⟩ := List.mem_map.1 he
        rw [← he]
        exact ⟨nofun, fun _ => rfl⟩
      · exact htab.marks x hx
    · have hc : lockCount (joinedState queue p s) i = lockCount s i := by
        unfold lockCount
        rw [hqueue, hperm.countP_eq, List.countP_cons, orderLocks_newOrder]
        exact List.countP_congr fun x _ => by rw [orderLocks_congr hplans]
      rw [hc, recordOf_joinedState, joinedState_only]
      exact hfit i

/-- An order joins at its place while an impression is in progress, and becomes the head of an IDLE unit (R67 to R69). -/
theorem keeps_takeOrder (hplace : ∀ o rest, s.scheduler.queue = o :: rest → o.state = .active ∨ o.state = .ending →
      TailForm o.rush rest → ∃ rest', queue = o :: rest' ∧ TailForm o.rush rest') :
    Keeps s (takeOrder queue p s) := by
  have himp : (joinedState queue p s).scheduler.impression = s.scheduler.impression := by rw [joinedState_only]
  have hqueue : (joinedState queue p s).scheduler.queue = queue := by rw [joinedState_only]
  have hloaded : QueueLaw s → ∀ o ∈ (joinedState queue p s).scheduler.queue,
      planOf (joinedState queue p s) o.plan ≠ none := fun h o ho => by
    rw [hqueue] at ho
    rw [planOf_joinedState]
    exact loaded_joined hf hperm QueueLaw.loaded h o ho
  have htags : QueueLaw s → ((joinedState queue p s).scheduler.queue.map Order.tag).Nodup := fun h => by
    rw [hqueue]
    exact tags_joined hf hperm h.tags
  show Keeps s (if (joinedState queue p s).scheduler.impression.isNone then beginImpression (joinedState queue p s)
    else joinedState queue p s)
  rw [himp]
  cases hi : s.scheduler.impression with
  | none =>
    rw [if_pos Option.isNone_none]
    refine keeps_iff.2 (KeepsAs.trans (Q := Between) (keepsAs_joined hf hperm fun h => ?_) (keepsAs_beginImpression _))
    refine ⟨hloaded h, htags h, himp.trans hi, fun o rest hq => ?_⟩
    rw [h.idle.1 hi] at hperm
    rw [hqueue, List.perm_singleton.1 hperm] at hq
    cases hq
    exact ⟨[], [], [], rfl, nofun, nofun, nofun, by simp, fun h => absurd rfl h⟩
  | some c =>
    rw [if_neg (by simp)]
    refine keeps_iff.2 (keepsAs_joined hf hperm fun h => ?_)
    cases hq : s.scheduler.queue with
    | nil =>
      rw [h.idle.2 hq] at hi
      cases hi
    | cons o rest =>
      obtain ⟨rest', hq', htail⟩ := hplace o rest hq (h.places o rest hq).1 (h.tail hq)
      refine ⟨hloaded h, htags h, iff_of_false ?_ ?_, fun d x xs hd hx => ?_, fun x xs hx => ?_⟩
      · rw [himp, hi]
        nofun
      · rw [hqueue, hq']
        nofun
      · rw [himp] at hd
        rw [hqueue, hq'] at hx
        cases hx
        exact h.printing d o rest hd hq
      · rw [hqueue, hq'] at hx
        cases hx
        exact ⟨(h.places o rest hq).1, htail⟩

end

theorem perm_placeRush (o : Order) (xs : List Order) : (placeRush o xs).Perm (o :: xs) := by
  unfold placeRush
  split
  · exact .refl _
  · split
    · exact ((perm_behindRushes o _).cons _).trans (.swap ..)
    · exact perm_behindRushes o _

/-- QUEUE ORDER keeps every law (R67). -/
theorem keeps_queueOrder {bs : List Byte} {a : OrderArgs} {p : Plan} {s : State} (h : checkOrder bs s = .ok (a, p)) :
    Keeps s (takeOrder (s.scheduler.queue ++ [newOrder a p false]) p s) := by
  refine keeps_takeOrder (checkOrder_ok h) List.perm_append_comm fun o rest hq _ ht => ?_
  rw [hq]
  exact ⟨rest ++ [newOrder a p false], rfl, ht.append rfl rfl⟩

/-- RUSH ORDER keeps every law (R68). -/
theorem keeps_rushOrder {bs : List Byte} {a : OrderArgs} {p : Plan} {s : State} (h : checkOrder bs s = .ok (a, p)) :
    Keeps s (takeOrder (placeRush (newOrder a p true) s.scheduler.queue) p s) := by
  refine keeps_takeOrder (checkOrder_ok h) (perm_placeRush _ _) fun o rest hq hs ht => ?_
  rw [hq]
  exact ⟨behindRushes (newOrder a p true) rest, if_pos hs, ht.rush rfl rfl⟩

/-! ## The withdrawal of an order -/

theorem orderOfTag_eq_some {s : State} {tag : BitVec 16} {o : Order} (h : orderOfTag s tag = some o) :
    o ∈ s.scheduler.queue ∧ o.tag = tag :=
  ⟨List.mem_of_find?_eq_some h, by simpa using List.find?_some h⟩

/-- A QUEUED or SUSPENDED order stands behind the head. -/
theorem QueueLaw.behind {s : State} (h : QueueLaw s) {o : Order} (ho : o ∈ s.scheduler.queue)
    (hs : o.state = .queued ∨ o.state = .suspended) :
    ∃ head rest, s.scheduler.queue = head :: rest ∧ head.tag ≠ o.tag := by
  cases hq : s.scheduler.queue with
  | nil =>
    rw [hq] at ho
    cases ho
  | cons x rest =>
    refine ⟨x, rest, rfl, fun he => ?_⟩
    have hx := (h.places x rest hq).1
    rw [hq] at ho
    rcases List.mem_cons.1 ho with rfl | ho
    · rcases hs with hs | hs <;> rw [hs] at hx <;> rcases hx with hx | hx <;> cases hx
    · have ht := h.tags
      rw [hq, List.map_cons, List.nodup_cons] at ht
      exact ht.1 (he ▸ List.mem_map_of_mem ho)

theorem queueLaw_removedState {s : State} (h : QueueLaw s) {o : Order} (ho : o ∈ s.scheduler.queue)
    (hs : o.state = .queued ∨ o.state = .suspended) : QueueLaw (removedState o s) := by
  obtain ⟨x, rest, hq, hne⟩ := h.behind ho hs
  have hqueue : (removedState o s).scheduler.queue = x :: rest.filter fun y => decide (y.tag ≠ o.tag) := by
    rw [queue_removedState, hq, List.filter_cons_of_pos (by simpa using hne)]
  have himp : (removedState o s).scheduler.impression = s.scheduler.impression := by rw [removedState_only]
  refine ⟨fun y hy => ?_, ?_, ?_, fun c y ys hc hy => ?_, fun y ys hy => ?_⟩
  · rw [planOf_removedState]
    rw [queue_removedState] at hy
    exact h.loaded y (List.mem_of_mem_filter hy)
  · rw [queue_removedState]
    exact h.tags.sublist (List.filter_sublist.map _)
  · rw [himp, hqueue, h.idle, hq]
    exact iff_of_false nofun nofun
  · rw [himp] at hc
    rw [hqueue] at hy
    cases hy
    exact h.printing c x rest hc hq
  · rw [hqueue] at hy
    cases hy
    exact ⟨(h.places x rest hq).1, (h.tail hq).filter _⟩

theorem keeps_removeOrder {s : State} {o : Order} (ho : o ∈ s.scheduler.queue)
    (hs : o.state = .queued ∨ o.state = .suspended) : Keeps s (removeOrder o s) := by
  rw [removeOrder_eq]
  exact Keeps.trans
    ⟨trainLaw_removedState, withinPlaces_removedState, totalsLaw_removedState, fun h => queueLaw_removedState h ho hs,
      fun h => rosterLaw_removedState ho h.tags (h.loaded o ho),
      fun h => lockLaw_removedState ho h.tags (h.loaded o ho)⟩
    (storeStep_lowWaterTest _).keeps

/-- An order of the queue becomes ENDING. -/
def endingIf (tag : BitVec 16) (x : Order) : Order := if x.tag = tag then { x with state := .ending } else x

theorem endingIf_fields (tag : BitVec 16) (x : Order) : (endingIf tag x).table = x.table
    ∧ (endingIf tag x).tag = x.tag ∧ (endingIf tag x).plan = x.plan ∧ (endingIf tag x).rush = x.rush := by
  unfold endingIf
  split <;> exact ⟨rfl, rfl, rfl, rfl⟩

/-- An ACTIVE order stands at the head. -/
theorem QueueLaw.active_head {s : State} (h : QueueLaw s) {o : Order} (ho : o ∈ s.scheduler.queue)
    (hs : o.state = .active) : ∃ rest, s.scheduler.queue = o :: rest := by
  cases hq : s.scheduler.queue with
  | nil =>
    rw [hq] at ho
    cases ho
  | cons x rest =>
    rw [hq] at ho
    rcases List.mem_cons.1 ho with rfl | ho
    · exact ⟨rest, rfl⟩
    · obtain ⟨a, b, c, rfl, ha, hb, hc, -⟩ := h.tail hq
      rcases List.mem_append.1 ho with ho | ho
      · rcases List.mem_append.1 ho with ho | ho
        · rw [(ha o ho).1] at hs
          cases hs
        · rw [(hb o ho).1] at hs
          cases hs
      · rw [(hc o ho).1] at hs
        cases hs

/-- The orders behind a head are not of its tag. -/
theorem map_endingIf_tail {o : Order} {rest : List Order} (ht : ((o :: rest).map Order.tag).Nodup) :
    (o :: rest).map (endingIf o.tag) = { o with state := .ending } :: rest := by
  rw [List.map_cons, List.nodup_cons] at ht
  have hrest : rest.map (endingIf o.tag) = rest :=
    (List.map_congr_left fun x hx =>
      if_neg fun he : x.tag = o.tag => ht.1 (he ▸ List.mem_map_of_mem hx)).trans (List.map_id rest)
  rw [List.map_cons, hrest]
  exact congrArg (· :: rest) (if_pos rfl)

theorem keeps_endActive {s : State} {o : Order} (ho : o ∈ s.scheduler.queue) (hs : o.state = .active) :
    Keeps s { s with scheduler.queue := s.scheduler.queue.map (endingIf o.tag) } := by
  refine keeps_iff.2 (keepsAs_reorder ?_ fun h => ?_)
  · rw [List.map_map, show Order.table ∘ endingIf o.tag = Order.table from funext fun x => (endingIf_fields _ x).1]
  · obtain ⟨rest, hq⟩ := h.active_head ho hs
    have hmap := map_endingIf_tail (o := o) (rest := rest) (hq ▸ h.tags)
    rw [hq, hmap]
    refine ⟨fun x hx => ?_, ?_, ?_, fun c x xs hc hx => ?_, fun x xs hx => ?_⟩
    · rcases List.mem_cons.1 hx with rfl | hx
      · exact h.loaded o ho
      · exact h.loaded x (by rw [hq]; exact List.mem_cons_of_mem _ hx)
    · have := h.tags
      rw [hq] at this
      exact this
    · have := h.idle
      rw [hq] at this
      exact this.trans (iff_of_false nofun nofun)
    · cases hx
      exact h.printing c o _ hc hq
    · cases hx
      exact ⟨.inr rfl, h.tail (o := o) hq⟩

/-- WITHDRAW ORDER keeps every law (R80, R81). -/
theorem keeps_withdraw {s : State} {o : Order} (ho : o ∈ s.scheduler.queue) : Keeps s (withdraw o s) := by
  unfold withdraw
  split
  · rename_i hs
    exact keeps_removeOrder ho (.inl hs)
  · rename_i hs
    exact keeps_removeOrder ho (.inr hs)
  · rename_i hs
    exact keeps_endActive ho hs
  · exact .refl s

end Sys2Proof.Machine
end

section
/-!
Students and tables under the laws: the flag of a student and its entry, and the replacement of plans and roster records.
-/

namespace Sys2Proof.Machine

/-! ## Records that change -/

/-- Two states differ in nothing that the laws see but roster records, trains and entries. -/
structure AroundRoster (s t : State) : Prop where
  plans : t.tables.plans = s.tables.plans := by rfl
  planRows : t.tables.planRows = s.tables.planRows := by rfl
  planSeats : t.tables.planSeats = s.tables.planSeats := by rfl
  staged : ∀ l x, (slotOf t l).staging.map Staging.target = some x →
    (slotOf s l).staging.map Staging.target = some x := by exact fun _ _ h => h
  queue : t.scheduler.queue.map Order.core = s.scheduler.queue.map Order.core := by rfl
  impression : t.scheduler.impression.map Impression.view = s.scheduler.impression.map Impression.view := by rfl
  calls : s.seats.calls.length ≤ Config.callPlaces → t.seats.calls.length ≤ Config.callPlaces := by exact fun h => h
  waiting : (∀ m, (portOf s m).calls.length ≤ Config.callPlaces) →
    ∀ m, (portOf t m).calls.length ≤ Config.callPlaces := by exact fun h => h
  trains : TrainLaw s → TrainLaw t := by exact fun h => h.congr (fun _ => rfl) fun _ => Iff.rfl

theorem AroundRoster.refl (s : State) : AroundRoster s s := {}

theorem AroundRoster.trans {s t u : State} (p : AroundRoster s t) (q : AroundRoster t u) : AroundRoster s u where
  plans := q.plans.trans p.plans
  planRows := q.planRows.trans p.planRows
  planSeats := q.planSeats.trans p.planSeats
  staged l x h := p.staged l x (q.staged l x h)
  queue := q.queue.trans p.queue
  impression := q.impression.trans p.impression
  calls h := q.calls (p.calls h)
  waiting h := q.waiting (p.waiting h)
  trains h := q.trains (p.trains h)

theorem Outside.aroundRoster {s t : State} (o : Outside s t) (h : TrainLaw s → TrainLaw t) : AroundRoster s t where
  plans := o.plans
  planRows := o.planRows
  planSeats := o.planSeats
  staged := o.staged
  queue := o.queue
  impression := o.impression
  calls := o.calls
  waiting := o.waiting
  trains := h

theorem AroundRoster.keeps {s t : State} (a : AroundRoster s t) (hr : RosterLaw s → RosterLaw t)
    (hl : RosterLaw s → LockLaw s → LockLaw t) : Keeps s t where
  trains := a.trains
  places h := h.congr (by simpa using congrArg List.length a.queue) a.calls a.waiting
  totals h := h.congr a.plans a.planRows a.planSeats
  queue h := h.congr a.plans (map_place_of_core a.queue) a.impression
  roster _ := hr
  locks _ := hl

/-! ## The student's flag -/

theorem dropIncoming_frame (i j : RosterIndex) (o : Delivery) (s : State) :
    recordOf (dropIncoming i o s) j = recordOf s j
    ∧ entryOf (dropIncoming i o s) j =
        if j = i then { held := (entryOf s i).held, incoming := none } else entryOf s j := by
  have a := voidTrainIf_frame i j o .a s
  have b := voidTrainIf_frame i j o .b (voidTrainIf i o .a s)
  have hf := freeIncoming_frame i j (voidTrainOf i o s)
  refine ⟨hf.1.trans (b.1.trans a.1), hf.2.trans ?_⟩
  split
  · have hh : (entryOf (voidTrainOf i o s) i).held = (entryOf s i).held := b.2.2.trans a.2.2
    show DirEntry.mk (entryOf (voidTrainOf i o s) i).held none = _
    rw [hh]
  · rename_i h
    exact (b.2.1 h).trans (a.2.1 h)

/-- What WITHHOLD leaves of an entry: a locked held version (R45). -/
def withheldEntry (e : DirEntry) : DirEntry :=
  { held := e.held.filter fun h => decide (h.lock ≠ 0), incoming := none }

theorem withholdEntry_frame (i j : RosterIndex) (s : State) :
    recordOf (withholdEntry i s) j = recordOf s j
    ∧ entryOf (withholdEntry i s) j = if j = i then withheldEntry (entryOf s i) else entryOf s j := by
  obtain ⟨hrec, hent⟩ := dropIncoming_frame i j .withheld s
  have hi : entryOf (dropIncoming i .withheld s) i = { held := (entryOf s i).held, incoming := none } :=
    (dropIncoming_frame i i .withheld s).2.trans (if_pos rfl)
  have hheld : (entryOf (dropIncoming i .withheld s) i).held = (entryOf s i).held := by
    rw [hi]
  unfold withholdEntry withheldEntry
  dsimp only
  rw [hheld]
  cases hh : (entryOf s i).held with
  | none =>
    rw [hh] at hent
    exact ⟨hrec, hent⟩
  | some h =>
    rw [hh] at hi hent
    dsimp only
    by_cases hl : h.lock = 0
    · rw [if_pos hl]
      have hf := freeHeld_frame i j (dropIncoming i .withheld s)
      rw [hi] at hf
      refine ⟨hf.1.trans hrec, hf.2.trans ?_⟩
      rw [hent]
      by_cases hj : j = i
      · rw [if_pos hj, if_pos hj, Option.filter_some, if_neg (by simpa using hl)]
      · rw [if_neg hj, if_neg hj, if_neg hj]
    · rw [if_neg hl]
      refine ⟨hrec, hent.trans ?_⟩
      rw [Option.filter_some, if_pos (decide_eq_true hl)]

theorem outside_withholdEntry (i : RosterIndex) (s : State) : Outside s (withholdEntry i s) := by
  have h := (storeStep_dropIncoming i .withheld s).toOutside
  unfold withholdEntry
  dsimp only
  split
  · split
    · exact h.trans (outside_freeHeld _ _)
    · exact h
  · exact h

theorem trainLaw_freeHeld {i : RosterIndex} {s : State} (h : TrainLaw s) : TrainLaw (freeHeld i s) :=
  h.congr (fun l => by rw [trainOf_freeHeld]) fun j => by unfold Fills; rw [incoming_of_freeHeld]

theorem trainLaw_withholdEntry {i : RosterIndex} {s : State} (h : TrainLaw s) : TrainLaw (withholdEntry i s) := by
  have h1 := (storeStep_dropIncoming i .withheld s).trains h
  unfold withholdEntry
  dsimp only
  split
  · split
    · exact trainLaw_freeHeld h1
    · exact h1
  · exact h1

/-- An entry fits a withheld student once it has been dealt with (R45). -/
theorem EntryFits.withhold {n : Nat} {w : Bool} {e : DirEntry} (h : EntryFits n w e) :
    EntryFits n true (withheldEntry e) := by
  have hback : ∀ x, (withheldEntry e).held = some x → e.held = some x ∧ x.lock ≠ 0 := fun x hx => by
    obtain ⟨h1, h2⟩ := Option.filter_eq_some_iff.1 hx
    exact ⟨h1, of_decide_eq_true h2⟩
  refine ⟨fun x hx => h.held x (hback x hx).1, fun hn => ?_, fun x hx => h.damaged x (hback x hx).1, nofun,
    fun _ => ⟨rfl, fun x hx => Nat.pos_of_ne_zero (hback x hx).2⟩⟩
  cases he : e.held with
  | none => exact h.free he
  | some x =>
    by_contra hne
    rw [← h.held x he] at hne
    unfold withheldEntry at hn
    rw [he] at hn
    simp [hne] at hn

theorem neutral_markWithheldPending (i : RosterIndex) (s : State) : Neutral s (markWithheldPending i s) := by
  unfold markWithheldPending
  split
  · exact .refl s
  · split
    · exact neutral_modImpression _ s
    all_goals exact .refl s

/-- The flag of a student set or cleared. -/
def flagged (w : Bool) (i : RosterIndex) (s : State) : State := setRecord i { recordOf s i with withheld := w } s

theorem recordOf_flagged (w : Bool) (i j : RosterIndex) (s : State) :
    recordOf (flagged w i s) j = if j = i then { recordOf s i with withheld := w } else recordOf s j :=
  recordOf_setRecord i j _ s

theorem rosterLaw_flagged {w : Bool} {i : RosterIndex} {s : State} (h : RosterLaw s) : RosterLaw (flagged w i s) := by
  refine RosterLaw.congr (s := s) (fun j => ?_) rfl (fun _ _ h => h) rfl h
  rw [recordOf_flagged]
  split
  · rename_i hj
    subst hj
    exact ⟨rfl, rfl, rfl⟩
  · exact ⟨rfl, rfl, rfl⟩

/-- WITHHOLD keeps every law (R17, R45, R73). -/
theorem keeps_withholdIndex (i : RosterIndex) (s : State) : Keeps s (withholdIndex i s) := by
  have h1 : AroundRoster s (flagged true i s) := {}
  have h2 := (outside_withholdEntry i (flagged true i s)).aroundRoster trainLaw_withholdEntry
  refine Keeps.trans (t := withholdEntry i (flagged true i s)) ((h1.trans h2).keeps (fun h => ?_) fun _ h => ?_)
    (neutral_markWithheldPending _ _).keeps
  · refine (rosterLaw_flagged h).congr (fun j => ?_) h2.plans h2.staged
      (map_plan_of_place (map_place_of_core h2.queue))
    rw [(outside_withholdEntry i _).records]
    exact ⟨rfl, rfl, rfl⟩
  · refine h.of_entries (h1.trans h2).plans (map_table_of_core (h1.trans h2).queue) fun j hj => ?_
    rw [(withholdEntry_frame i j _).1, (withholdEntry_frame i j _).2, recordOf_flagged]
    by_cases hji : j = i
    · subst hji
      rw [if_pos rfl, if_pos rfl]
      exact hj.withhold
    · rw [if_neg hji, if_neg hji]
      exact hj

/-- An entry that fits a student fits when the flag is cleared. -/
theorem EntryFits.release {n : Nat} {w : Bool} {e : DirEntry} (h : EntryFits n w e) : EntryFits n false e :=
  ⟨h.held, h.free, h.damaged, h.waiting, nofun⟩

/-- RELEASE keeps every law (R17). -/
theorem keeps_releaseIndex (i : RosterIndex) (s : State) : Keeps s (releaseIndex i s) := by
  have h1 : AroundRoster s (flagged false i s) := {}
  refine h1.keeps rosterLaw_flagged fun _ h => h.of_entries rfl rfl fun j hj => ?_
  show EntryFits _ (recordOf (flagged false i s) j).withheld (entryOf s j)
  rw [recordOf_flagged]
  split
  · exact hj.release
  · exact hj

/-! ## Plans -/

theorem noPair_iff {α : Type} (rel : α → α → Bool) : ∀ xs : List α,
    noPair rel xs = true ↔ xs.Pairwise fun x y => rel x y = false
  | [] => by simp [noPair]
  | x :: xs => by
    rw [List.pairwise_cons, ← noPair_iff rel xs]
    simp [noPair]

theorem planOf_setPlan (id i : Fin 8) (p : Option Plan) (s : State) :
    planOf (setPlan id p s) i = if i = id then p else planOf s i := by
  unfold planOf setPlan
  simp only [Fin.getElem_fin, Vector.getElem_set, Fin.ext_iff, eq_comm]

/-- A sum over a list once one of its items is replaced. -/
theorem sum_map_set {α : Type} (f : α → Nat) (p : α) : ∀ (xs : List α) (n : Nat) (h : n < xs.length),
    ((xs.set n p).map f).sum + f xs[n] = (xs.map f).sum + f p
  | [], _, h => by simp at h
  | x :: xs, 0, _ => by
    simp only [List.set_cons_zero, List.map_cons, List.sum_cons, List.getElem_cons_zero]
    omega
  | x :: xs, n + 1, h => by
    have := sum_map_set f p xs n (by simpa using h)
    simp only [List.set_cons_succ, List.map_cons, List.sum_cons, List.getElem_cons_succ]
    omega

/-- A sum over the plan slots once one of them is replaced. -/
theorem sum_setPlan (f : Option Plan → Nat) (id : Fin 8) (p : Option Plan) (s : State) :
    (((s.tables.plans.set id p).toList).map f).sum + f (planOf s id) = (s.tables.plans.toList.map f).sum + f p := by
  have hget : planOf s id = s.tables.plans.toList[id.val]'(by simp) := by simp [planOf]
  rw [Vector.toList_set, hget]
  exact sum_map_set f p _ _ _

/-- The entry of one plan slot is no more than the sum over all. -/
theorem le_sum_plans (f : Option Plan → Nat) (id : Fin 8) (s : State) :
    f (planOf s id) ≤ (s.tables.plans.toList.map f).sum := by
  refine List.le_sum_of_mem (List.mem_map_of_mem ?_)
  have hget : planOf s id = s.tables.plans.toList[id.val]'(by simp) := by simp [planOf]
  rw [hget]
  exact List.getElem_mem _

theorem slotTotals_eq (s : State) (id : Fin 8) : slotTotals s id = (slotRows (planOf s id), slotSeats (planOf s id)) := by
  unfold slotTotals slotRows slotSeats
  cases planOf s id <;> rfl

theorem totalsLaw_setPlan {id : Fin 8} {p : Option Plan} {s : State} (h : TotalsLaw s) : TotalsLaw (setPlan id p s) := by
  obtain ⟨hr, hs⟩ := h
  have h1 := sum_setPlan slotRows id p s
  have h2 := sum_setPlan slotSeats id p s
  have h3 := le_sum_plans slotRows id s
  have h4 := le_sum_plans slotSeats id s
  have hrows : (setPlan id p s).tables.planRows = s.tables.planRows - slotRows (planOf s id) + slotRows p := by
    unfold setPlan
    rw [slotTotals_eq]
    cases p <;> rfl
  have hseats : (setPlan id p s).tables.planSeats = s.tables.planSeats - slotSeats (planOf s id) + slotSeats p := by
    unfold setPlan
    rw [slotTotals_eq]
    cases p <;> rfl
  have hplans : (setPlan id p s).tables.plans = s.tables.plans.set id p := rfl
  refine ⟨?_, ?_⟩
  · rw [hrows, hplans]
    omega
  · rw [hseats, hplans]
    omega

/-- A plan that no order of the queue names is replaced (R8, R9). -/
theorem keeps_setPlan {id : Fin 8} {p : Option Plan} {s : State} (hpin : ¬planPinned s id = true)
    (hn : ∀ q, p = some q → (q.seats.map Seat.index).Nodup) : Keeps s (setPlan id p s) := by
  have hplan : ∀ o ∈ s.scheduler.queue, planOf (setPlan id p s) o.plan = planOf s o.plan := fun o ho => by
    rw [planOf_setPlan, if_neg fun he => hpin ((planPinned_iff s id).2 ⟨o, ho, he⟩)]
  have hnames : ∀ o ∈ s.scheduler.queue, ∀ i, orderNames (setPlan id p s) o i = orderNames s o i := fun o ho i => by
    unfold orderNames
    rw [hplan o ho]
  have hlocks : ∀ o ∈ s.scheduler.queue, ∀ i, orderLocks (setPlan id p s) o i = orderLocks s o i := fun o ho i => by
    unfold orderLocks
    rw [hplan o ho]
  refine ⟨fun h => h.congr (fun _ => rfl) fun _ => Iff.rfl, fun h => h, totalsLaw_setPlan, fun h => ?_, fun _ h => ?_,
    fun _ _ h => ?_⟩
  · exact ⟨fun o ho => by rw [hplan o ho]; exact h.loaded o ho, h.tags, h.idle, h.printing, h.places⟩
  · refine ⟨h.listed, h.unique, fun j q hq => ?_, h.range, fun i => ?_⟩
    · rw [planOf_setPlan] at hq
      split at hq
      · exact hn q hq
      · exact h.once j q hq
    · refine (h.uses i).trans (List.countP_congr fun o ho => ?_)
      rw [hnames o ho]
  · obtain ⟨htab, hfit⟩ := (lockLaw_iff s).1 h
    refine (lockLaw_iff _).2 ⟨⟨fun o ho q hq => ?_, htab.marks⟩, fun i => ?_⟩
    · rw [hplan o ho] at hq
      exact htab.entries o ho q hq
    · have hc : lockCount (setPlan id p s) i = lockCount s i :=
        List.countP_congr fun o ho => by rw [hlocks o ho]
      rw [hc]
      exact hfit i

/-- A staged plan that passes its checks is not pinned and names each index once (R7). -/
theorem checkPlan_taken {id : Fin 8} {bs : List Byte} {o : Bool} {s : State} (h : checkPlan id bs o s = .taken) :
    ¬planPinned s id = true ∧ ((planFrom (readPlan bs)).seats.map Seat.index).Nodup := by
  unfold checkPlan at h
  dsimp only at h
  by_cases h1 : planPinned s id = true
  · rw [if_pos h1] at h
    cases h
  rw [if_neg h1] at h
  iterate 5
    split at h
    · cases h
  split at h
  · cases h
  rename_i hseats
  split at h
  · cases h
  split at h
  · cases h
  rename_i htwice
  refine ⟨h1, ?_⟩
  simp only [Bool.not_eq_true', Bool.not_eq_false, noPair_iff] at htwice
  simp only [not_or, Bool.not_eq_true', Bool.not_eq_false, List.all_eq_true] at hseats
  have hrange : ∀ x ∈ (readPlan bs).seats, x.index ≤ 1023 := fun x hx => by
    have := hseats.2.2 x hx
    unfold seatInRange at this
    split at this
    · exact (of_decide_eq_true this).2.2.2.1
    · cases this
  unfold planFrom
  dsimp only
  rw [List.map_map, List.Nodup, List.pairwise_map]
  refine htwice.imp_of_mem fun {x y} hx hy hne he => ?_
  have := congrArg Fin.val he
  simp only [Function.comp_apply, Fin.ofNat] at this
  rw [Nat.mod_eq_of_lt (by have := hrange x hx; omega), Nat.mod_eq_of_lt (by have := hrange y hy; omega)] at this
  exact of_decide_eq_false hne this

end Sys2Proof.Machine
end

section
/-!
Roster loads under the laws: what each record and entry is after the load, and why the student ids stay unique.
-/

namespace Sys2Proof.Machine

/-! ## What a roster load leaves -/

/-- The staged entry that a load from record `first` on brings to a record. -/
def stagedFor (first : Nat) (es : List RosterEntry) (j : RosterIndex) : Option RosterEntry :=
  if first ≤ j.val then es[j.val - first]? else none

/-- A record that has taken its staged entry (R15). -/
def appliedRecord (e : RosterEntry) (r : RosterRecord) : RosterRecord :=
  { r with
    listed := decide (e.studentId ≠ 0), studentId := e.studentId
    caption := if e.studentId = 0 then [] else e.caption }

theorem val_ofNat {n : Nat} (h : n < 1024) : (Fin.ofNat 1024 n).val = n := Nat.mod_eq_of_lt h

/-- Each record of the range takes its entry, and each directory entry is cleared where the student id changes. -/
theorem applyRoster_frame : ∀ (es : List RosterEntry) (first : Nat) (s : State), first + es.length ≤ 1024 →
    ∀ j : RosterIndex,
      (recordOf (applyRoster first es s) j =
        match stagedFor first es j with
        | some e => appliedRecord e (recordOf s j)
        | none => recordOf s j)
      ∧ entryOf (applyRoster first es s) j =
        match stagedFor first es j with
        | some e =>
          if e.studentId ≠ (recordOf s j).studentId then { held := none, incoming := none } else entryOf s j
        | none => entryOf s j
  | [], first, s, _, j => by
    have h : stagedFor first [] j = none := by
      unfold stagedFor
      split <;> rfl
    rw [h]
    exact ⟨rfl, rfl⟩
  | e :: es, first, s, h, j => by
    rw [List.length_cons] at h
    have ih := applyRoster_frame es (first + 1) (applyEntry (Fin.ofNat 1024 first) e s) (by omega) j
    have hf := applyEntry_frame (Fin.ofNat 1024 first) j e s
    have hv := val_ofNat (n := first) (by omega)
    by_cases hj : j = Fin.ofNat 1024 first
    · subst hj
      have h1 : stagedFor first (e :: es) (Fin.ofNat 1024 first) = some e := by
        unfold stagedFor
        rw [if_pos (by omega), hv, Nat.sub_self]
        rfl
      have h2 : stagedFor (first + 1) es (Fin.ofNat 1024 first) = none := if_neg (by omega)
      rw [h2] at ih
      rw [h1]
      rw [if_pos rfl] at hf
      refine ⟨ih.1.trans hf.1, ih.2.trans (hf.2.trans ?_)⟩
      simp
    · have hne : j.val ≠ first := fun he => hj (Fin.ext (he.trans hv.symm))
      have h1 : stagedFor first (e :: es) j = stagedFor (first + 1) es j := by
        unfold stagedFor
        by_cases hlt : first + 1 ≤ j.val
        · rw [if_pos (by omega), if_pos hlt, show j.val - first = j.val - (first + 1) + 1 by omega]
          rfl
        · rw [if_neg (by omega), if_neg hlt]
      rw [if_neg hj, if_neg fun h => hj h.1] at hf
      rw [h1]
      rw [hf.1, hf.2] at ih
      exact ih

theorem aroundRoster_applyEntry (i : RosterIndex) (e : RosterEntry) (s : State) : AroundRoster s (applyEntry i e s) := by
  unfold applyEntry
  dsimp only
  have hset : ∀ r, AroundRoster s (setRecord i r s) := fun r => {}
  have hclear : ∀ t, AroundRoster t (clearEntry i t) := fun t =>
    Outside.aroundRoster ((storeStep_dropIncoming i .abandoned t).toOutside.trans (outside_freeHeld _ _)) fun h =>
      trainLaw_freeHeld ((storeStep_dropIncoming i .abandoned t).trains h)
  split <;> split
  · exact hset _
  · exact (hset _).trans (hclear _)
  · exact hset _
  · exact (hset _).trans (hclear _)

theorem aroundRoster_applyRoster : ∀ (es : List RosterEntry) (first : Nat) (s : State),
    AroundRoster s (applyRoster first es s)
  | [], _, s => .refl s
  | e :: es, first, s => (aroundRoster_applyEntry _ e s).trans (aroundRoster_applyRoster es (first + 1) _)

/-! ## Student ids -/

/-- No two LISTED records of a run have the same student id. -/
def UniqueIds (rs : List RosterRecord) : Prop :=
  rs.Pairwise fun x y => x.listed = true → y.listed = true → x.studentId ≠ y.studentId

/-- The student ids of the LISTED records of a run. -/
def listedIds (rs : List RosterRecord) : List (BitVec 32) := (rs.filter (·.listed)).map (·.studentId)

theorem uniqueIds_iff (rs : List RosterRecord) : UniqueIds rs ↔ (listedIds rs).Nodup := by
  unfold UniqueIds listedIds
  rw [List.Nodup, List.pairwise_map, List.pairwise_filter]

theorem recordOf_eq_getElem (s : State) (i : RosterIndex) : recordOf s i = s.tables.roster.toList[i.val]'(by simp) := by
  simp [recordOf]

/-- The roster's ids are unique exactly when those of its list of records are. -/
theorem unique_iff_uniqueIds (s : State) :
    (∀ i j : RosterIndex, (recordOf s i).listed = true → (recordOf s j).listed = true →
      (recordOf s i).studentId = (recordOf s j).studentId → i = j) ↔ UniqueIds s.tables.roster.toList := by
  unfold UniqueIds
  rw [List.pairwise_iff_getElem]
  constructor
  · intro h m n hm hn hlt h1 h2 he
    simp only [Vector.length_toList] at hm hn
    have := h ⟨m, hm⟩ ⟨n, hn⟩ (by rw [recordOf_eq_getElem]; exact h1) (by rw [recordOf_eq_getElem]; exact h2)
      (by rw [recordOf_eq_getElem, recordOf_eq_getElem]; exact he)
    have := congrArg Fin.val this
    dsimp only at this
    omega
  · intro h i j hi hj he
    by_contra hne
    rw [recordOf_eq_getElem] at hi hj he
    rw [recordOf_eq_getElem] at he
    rcases Nat.lt_or_gt_of_ne (fun h => hne (Fin.ext h)) with hlt | hlt
    · exact h i.val j.val (by simp) (by simp) hlt hi hj he
    · exact h j.val i.val (by simp) (by simp) hlt hj hi he.symm

/-- The ids of the roster after a load are those that R14 tests. -/
theorem listedIds_applyRoster {first : Nat} {es : List RosterEntry} {s : State} (h : first + es.length ≤ 1024) :
    listedIds (applyRoster first es s).tables.roster.toList = idsAfter s first es := by
  have hget : ∀ (n : Nat) (hn : n < 1024) (hn' : n < (applyRoster first es s).tables.roster.toList.length),
      (applyRoster first es s).tables.roster.toList[n] =
        match stagedFor first es ⟨n, hn⟩ with
        | some e => appliedRecord e (recordOf s ⟨n, hn⟩)
        | none => recordOf s ⟨n, hn⟩ := fun n hn _ => by
    rw [← (applyRoster_frame es first s h ⟨n, hn⟩).1, recordOf_eq_getElem]
  have hlist : (applyRoster first es s).tables.roster.toList =
      s.tables.roster.toList.take first
        ++ (List.zipWith appliedRecord es (s.tables.roster.toList.drop first)
          ++ s.tables.roster.toList.drop (first + es.length)) := by
    refine List.ext_getElem (by simp; omega) fun n h1 h2 => ?_
    have hn : n < 1024 := by simpa using h1
    rw [hget n hn h1]
    by_cases ha : n < first
    · rw [List.getElem_append_left (by simp; omega), List.getElem_take,
        show stagedFor first es ⟨n, hn⟩ = none from if_neg (by dsimp only; omega), recordOf_eq_getElem]
    · rw [List.getElem_append_right (by simp; omega)]
      have hs : stagedFor first es ⟨n, hn⟩ = es[n - first]? := if_pos (by dsimp only; omega)
      by_cases hb : n < first + es.length
      · have hlt : n - first < es.length := by omega
        rw [hs, List.getElem?_eq_getElem hlt, List.getElem_append_left (by simp; omega), List.getElem_zipWith,
          List.getElem_drop]
        simp only [List.length_take, Vector.length_toList]
        have e1 : n - min first 1024 = n - first := by omega
        have e2 : first + (n - min first 1024) = n := by omega
        simp only [e1, recordOf_eq_getElem, show first + (n - first) = n by omega]
      · rw [hs, List.getElem?_eq_none (by omega), List.getElem_append_right (by simp; omega), List.getElem_drop,
          recordOf_eq_getElem]
        simp only [List.length_take, List.length_zipWith, List.length_drop, Vector.length_toList]
        congr 1
        omega
  have hmid : ∀ (es : List RosterEntry) (rs : List RosterRecord), es.length ≤ rs.length →
      listedIds (List.zipWith appliedRecord es rs) = (es.map (·.studentId)).filter fun id => decide (id ≠ 0) := by
    intro es
    induction es with
    | nil => intro rs _; rfl
    | cons e es ih =>
      intro rs hl
      cases rs with
      | nil => simp at hl
      | cons r rs =>
        have := ih rs (by simpa using hl)
        unfold listedIds at this ⊢
        rw [List.zipWith_cons_cons, List.map_cons]
        by_cases he : e.studentId = 0
        · rw [List.filter_cons_of_neg (by simp [appliedRecord, he]), List.filter_cons_of_neg (by simpa using he), this]
        · rw [List.filter_cons_of_pos (by simpa [appliedRecord] using he),
            List.filter_cons_of_pos (by simpa using he), List.map_cons, this]
          rfl
  rw [hlist]
  have happ : ∀ xs ys, listedIds (xs ++ ys) = listedIds xs ++ listedIds ys := fun xs ys => by
    unfold listedIds
    rw [List.filter_append, List.map_append]
  rw [happ, happ, hmid _ _ (by simp; omega)]
  unfold idsAfter
  rw [List.append_assoc]
  rfl

/-! ## A checked roster load -/

/-- What a staged roster that passes its checks has: all its entries, none of them pinned, and ids that stay unique
(R14). -/
structure RosterFits (first count : Nat) (bs : List Byte) (es : List RosterEntry) (s : State) : Prop where
  read : readRoster count bs = some (es, [])
  unpinned : ∀ r ∈ recordsIn s first count, r.uses = 0
  ids : (idsAfter s first es).Nodup

theorem checkRoster_taken {first count : Nat} {bs : List Byte} {o : Bool} {s : State}
    (h : checkRoster first count bs o s = .taken) : ∃ es, RosterFits first count bs es s := by
  unfold checkRoster at h
  split at h
  · cases h
  · rename_i es rest hread
    split at h
    · cases h
    · rename_i hrest
      split at h
      · cases h
      · split at h
        · cases h
        · rename_i hpin
          split at h
          · cases h
          · rename_i hid
            have hnil : rest = [] := by
              by_contra hne
              exact hrest (.inl hne)
            subst hnil
            refine ⟨es, hread, fun r hr => ?_, ?_⟩
            · by_contra hne
              exact hpin (List.any_eq_true.2 ⟨r, hr, decide_eq_true (Nat.pos_of_ne_zero hne)⟩)
            · simp only [Bool.not_eq_true', Bool.not_eq_false, noPair_iff, decide_eq_false_iff_not] at hid
              exact hid

theorem getElem_recordsIn {s : State} {first count : Nat} {j : RosterIndex} (h1 : first ≤ j.val)
    (h2 : j.val < first + count) : recordOf s j ∈ recordsIn s first count := by
  unfold recordsIn
  rw [List.mem_take_iff_getElem]
  refine ⟨j.val - first, by simp; omega, ?_⟩
  rw [List.getElem_drop, recordOf_eq_getElem]
  congr 1
  omega

theorem rosterLaw_applyRoster {first count : Nat} {bs : List Byte} {es : List RosterEntry} {s : State}
    (hf : RosterFits first count bs es s) (hr : first + count ≤ 1024) (h : RosterLaw s) :
    RosterLaw (applyRoster first es s) := by
  have hlen := readRoster_length _ _ _ _ hf.read
  have hfr := applyRoster_frame es first s (by omega)
  have ha := aroundRoster_applyRoster es first s
  have huses : ∀ j, (recordOf (applyRoster first es s) j).uses = (recordOf s j).uses := fun j => by
    rw [(hfr j).1]
    split <;> rfl
  refine ⟨fun j => ?_, ?_, fun id q => ?_, fun l g f c hg ht => ?_, fun i => ?_⟩
  · rw [(hfr j).1]
    split
    · exact decide_eq_true_iff
    · exact h.listed j
  · rw [unique_iff_uniqueIds, uniqueIds_iff, listedIds_applyRoster (by omega)]
    exact hf.ids
  · rw [planOf_congr ha.plans]
    exact h.once id q
  · obtain ⟨g', hg', he⟩ := Option.map_eq_some_iff.1 (ha.staged l g.target (by rw [hg]; rfl))
    exact h.range l g' f c hg' (he.trans ht)
  · rw [huses, h.uses]
    refine (countP_of_map_eq (map_plan_of_place (map_place_of_core ha.queue))
      (fun id => match planOf s id with
        | some p => p.seats.any fun x => decide (x.index = i)
        | none => false) (fun _ => rfl) fun x => ?_).symm
    exact orderNames_congr ha.plans x i

theorem lockLaw_applyRoster {first count : Nat} {bs : List Byte} {es : List RosterEntry} {s : State}
    (hf : RosterFits first count bs es s) (hr : first + count ≤ 1024) (hs : RosterLaw s) (h : LockLaw s) :
    LockLaw (applyRoster first es s) := by
  have hlen := readRoster_length _ _ _ _ hf.read
  have ha := aroundRoster_applyRoster es first s
  refine h.of_entries ha.plans (map_table_of_core ha.queue) fun j hj => ?_
  obtain ⟨hrec, hent⟩ := applyRoster_frame es first s (by omega) j
  rw [hrec, hent]
  split
  · rename_i e he
    show EntryFits _ (recordOf s j).withheld _
    split
    · have hin : first ≤ j.val ∧ j.val < first + count := by
        unfold stagedFor at he
        split at he
        · rename_i h1
          have := (List.getElem?_eq_some_iff.1 he).1
          omega
        · cases he
      rw [lockCount_eq_zero hs (hf.unpinned _ (getElem_recordsIn hin.1 hin.2))]
      exact ⟨nofun, fun _ => rfl, nofun, nofun, fun _ => ⟨rfl, nofun⟩⟩
    · exact hj
  · exact hj

/-- A roster load keeps every law, where its range lies within the roster (R15). -/
theorem keeps_applyRoster {first count : Nat} {bs : List Byte} {es : List RosterEntry} {s : State}
    (hf : RosterFits first count bs es s) (hr : RosterLaw s → first + count ≤ 1024) :
    Keeps s (applyRoster first es s) :=
  (aroundRoster_applyRoster es first s).keeps (fun h => rosterLaw_applyRoster hf (hr h) h)
    fun h => lockLaw_applyRoster hf (hr h) h

end Sys2Proof.Machine
end

section
/-!
Every command keeps the laws: the controls' rules, the tables' loads, the parcels' arrival and `exec` as a whole.
-/

namespace Sys2Proof.Machine

/-! ## The controls by their rules -/

/-- The rule of each control. -/
def controlRule (c : Control) (l : Link) : List Byte → State → Ruling :=
  match c with
  | .reportStatus => reportStatusRule
  | .reportLastControl => reportLastControlRule
  | .unitReset => unitResetRule
  | .quietOther => quietOtherRule l
  | .unquietOther => unquietOtherRule l
  | .inhibitAttention => inhibitAttentionRule
  | .restoreAttention => restoreAttentionRule
  | .setTime => setTimeRule
  | .setNoticeEnables => setNoticeEnablesRule
  | .readNotices => readNoticesRule
  | .readCounters => readCountersRule
  | .settings => settingsRule
  | .queueOrder => queueOrderRule
  | .rushOrder => rushOrderRule
  | .withdrawOrder => withdrawOrderRule
  | .readQueue => readQueueRule
  | .withhold => withholdRule
  | .release => releaseRule
  | .dropTile => dropTileRule
  | .purgeStore => purgeStoreRule
  | .clearPlan => clearPlanRule
  | .readDirectory => readDirectoryRule
  | .readDeliveryLog => readDeliveryLogRule
  | .readPageLog => readPageLogRule
  | .loadPlan => loadPlanRule
  | .loadRoster => loadRosterRule
  | .loadTone => loadToneRule
  | .loadGlyphs => loadGlyphsRule

/-- What a taken control does once it is concluded: UNIT RESET clears, the others do nothing more. -/
def controlAfter : Control → State → State
  | .unitReset => clearForUnitReset
  | _ => nothingAfter

/-- A control arrives and is taken by its rule. -/
theorem controlStep_eq (c : Control) (l : Link) (w : Wire) (s : State) : controlStep c l w s =
    arrive l 3 (controlCode c) w (takeControl c l w (controlRule c l) (controlAfter c)) s := by
  cases c <;> rfl

/-- The command of a known control is its step; the reply that QUIET OTHER discards lets parcels through. -/
theorem exec_controlCommand (c : Control) (l : Link) (w : Wire) (s : State) : exec (controlCommand c l w) s =
    .next (if c = .quietOther then releaseAll (controlStep c l w s) else controlStep c l w s) := by
  cases c <;> rfl

/-! ## The rules under the laws -/

/-- A rule leaves, where it takes the control, a state in which the laws stand, and opens staging for a range of records
that lies within the roster. -/
def RuleKeeps (rule : List Byte → State → Ruling) : Prop :=
  ∀ p s, match rule p s with
    | .refuse _ => True
    | .take t _ _ => Keeps s t
    | .stage x => ∀ first count, x = .roster first count → first + count ≤ 1024

theorem ruleKeeps_reads (l : Link) : RuleKeeps reportStatusRule ∧ RuleKeeps reportLastControlRule
    ∧ RuleKeeps unitResetRule ∧ RuleKeeps readQueueRule ∧ RuleKeeps readDirectoryRule
    ∧ RuleKeeps readDeliveryLogRule ∧ RuleKeeps readPageLogRule ∧ RuleKeeps (quietOtherRule l)
    ∧ RuleKeeps (unquietOtherRule l) := by
  refine ⟨fun p s => .refl s, fun p s => ?_, fun p s => .refl s, fun p s => .refl s, fun p s => ?_, fun p s => ?_,
    fun p s => ?_, fun p s => (neutral_makeQuiet _ s).keeps, fun p s => (neutral_makeUnquiet _ s).keeps⟩
  · unfold reportLastControlRule
    cases s.control.last <;> exact .refl s
  · unfold readDirectoryRule
    cases indexArgument p with
    | none => trivial
    | some i =>
      dsimp only
      by_cases h : (recordOf s i).listed = true
      · rw [if_pos h]
        exact .refl s
      · rw [if_neg h]
        exact .refl s
  · unfold readDeliveryLogRule
    dsimp only
    by_cases h : byteAt p 4 < 1 ∨ 8 < byteAt p 4
    · rw [if_pos h]
      trivial
    · rw [if_neg h]
      cases recordsFrom (deliveryAt s) (byteAt p 4) (BitVec.ofNat 32 (be32 p 0)) <;> exact .refl s
  · unfold readPageLogRule
    dsimp only
    by_cases h : byteAt p 4 < 1 ∨ 4 < byteAt p 4
    · rw [if_pos h]
      trivial
    · rw [if_neg h]
      cases recordsFrom (pageAt s) (byteAt p 4) (BitVec.ofNat 32 (be32 p 0)) <;> exact .refl s

theorem ruleKeeps_notices : RuleKeeps inhibitAttentionRule ∧ RuleKeeps restoreAttentionRule ∧ RuleKeeps setTimeRule
    ∧ RuleKeeps setNoticeEnablesRule ∧ RuleKeeps readNoticesRule ∧ RuleKeeps readCountersRule := by
  have inhibit : ∀ (s : State) b, Neutral s { s with notices.inhibit := b } := fun s b => {}
  have time : ∀ (s : State) m, Neutral s { s with timeMark := m } := fun s m => {}
  have enables : ∀ (s : State) e, Neutral s { s with notices.enabled := e } := fun s e => {}
  have latch : ∀ (s : State) e, Neutral s { s with notices.latched := e } := fun s e => {}
  refine ⟨fun p s => (inhibit s true).keeps, fun p s => (inhibit s false).keeps, fun p s => (time s _).keeps,
    fun p s => ?_, fun p s => (latch s 0).keeps, fun p s => ?_⟩
  · unfold setNoticeEnablesRule
    cases kindSetArgument (be16 p 0) with
    | none => trivial
    | some select =>
      cases kindSetArgument (be16 p 2) with
      | none => trivial
      | some value => exact (enables s _).keeps
  · unfold readCountersRule
    cases flagArgument (byteAt p 0) with
    | none => trivial
    | some clear =>
      cases clear
      · exact .refl s
      · exact (neutral_clearCounters s).keeps

theorem ruleKeeps_settings : RuleKeeps settingsRule := fun p s => by
  unfold settingsRule
  cases settingsArgument p with
  | none => trivial
  | some x =>
    have h : Neutral s { s with tables.settings := x } := {}
    exact h.keeps.trans (((storeStep_expireTrains _).keeps.trans (neutral_expireHold _).keeps).trans
      (storeStep_lowWaterTest _).keeps)

theorem ruleKeeps_orders : RuleKeeps queueOrderRule ∧ RuleKeeps rushOrderRule ∧ RuleKeeps withdrawOrderRule := by
  refine ⟨fun p s => ?_, fun p s => ?_, fun p s => ?_⟩
  · unfold queueOrderRule
    cases h : checkOrder p s with
    | error cause => trivial
    | ok x => exact keeps_queueOrder h
  · unfold rushOrderRule
    cases h : checkOrder p s with
    | error cause => trivial
    | ok x => exact keeps_rushOrder h
  · unfold withdrawOrderRule
    dsimp only
    by_cases ht : BitVec.ofNat 16 (be16 p 0) = 0
    · rw [if_pos ht]
      trivial
    · rw [if_neg ht]
      cases h : orderOfTag s (BitVec.ofNat 16 (be16 p 0)) with
      | none => trivial
      | some o => exact keeps_withdraw (orderOfTag_eq_some h).1

/-- A held version that is not locked has lock count 0. -/
theorem unlocked_of_isLocked {i : RosterIndex} {s : State} (h : ¬isLocked i s = true) : Unlocked (entryOf s i) := by
  intro x hx
  unfold isLocked at h
  rw [hx] at h
  simpa using h

theorem ruleKeeps_students : RuleKeeps withholdRule ∧ RuleKeeps releaseRule ∧ RuleKeeps dropTileRule
    ∧ RuleKeeps purgeStoreRule := by
  refine ⟨fun p s => ?_, fun p s => ?_, fun p s => ?_, fun p s => (storeStep_purgeStore s).keeps⟩
  · unfold withholdRule
    cases indexArgument p with
    | none => trivial
    | some i => exact keeps_withholdIndex i s
  · unfold releaseRule
    cases indexArgument p with
    | none => trivial
    | some i => exact keeps_releaseIndex i s
  · unfold dropTileRule
    cases indexArgument p with
    | none => trivial
    | some i =>
      dsimp only
      by_cases h : isLocked i s = true
      · rw [if_pos h]
        trivial
      · rw [if_neg h]
        exact (storeStep_clearEntry (unlocked_of_isLocked h)).keeps

theorem ruleKeeps_tables : RuleKeeps clearPlanRule ∧ RuleKeeps loadPlanRule ∧ RuleKeeps loadRosterRule
    ∧ RuleKeeps loadToneRule ∧ RuleKeeps loadGlyphsRule := by
  refine ⟨fun p s => ?_, fun p s => ?_, fun p s => ?_, fun p s => ?_, fun p s => nofun⟩
  · unfold clearPlanRule
    cases planArgument p 0 with
    | none => trivial
    | some id =>
      dsimp only
      by_cases h : planPinned s id = true
      · rw [if_pos h]
        trivial
      · rw [if_neg h]
        exact keeps_setPlan h nofun
  · unfold loadPlanRule
    cases planArgument p 0 with
    | none => trivial
    | some id =>
      dsimp only
      by_cases h : planPinned s id = true
      · rw [if_pos h]
        trivial
      · rw [if_neg h]
        exact nofun
  · unfold loadRosterRule
    dsimp only
    by_cases h : 1023 < be16 p 0 ∨ be16 p 2 = 0 ∨ 1024 < be16 p 2 ∨ 1024 < be16 p 0 + be16 p 2
    · rw [if_pos h]
      trivial
    · rw [if_neg h]
      rintro first count he
      cases he
      omega
  · unfold loadToneRule
    cases sessionNumber (byteAt p 0) with
    | none => trivial
    | some n =>
      dsimp only
      by_cases h : sessionBusy s n = true
      · rw [if_pos h]
        trivial
      · rw [if_neg h]
        exact nofun

theorem ruleKeeps_control (c : Control) (l : Link) : RuleKeeps (controlRule c l) := by
  obtain ⟨h1, h2, h3, h4, h5, h6, h7, h8, h9⟩ := ruleKeeps_reads l
  obtain ⟨n1, n2, n3, n4, n5, n6⟩ := ruleKeeps_notices
  obtain ⟨o1, o2, o3⟩ := ruleKeeps_orders
  obtain ⟨s1, s2, s3, s4⟩ := ruleKeeps_students
  obtain ⟨t1, t2, t3, t4, t5⟩ := ruleKeeps_tables
  match c with
  | .reportStatus => exact h1
  | .reportLastControl => exact h2
  | .unitReset => exact h3
  | .quietOther => exact h8
  | .unquietOther => exact h9
  | .inhibitAttention => exact n1
  | .restoreAttention => exact n2
  | .setTime => exact n3
  | .setNoticeEnables => exact n4
  | .readNotices => exact n5
  | .readCounters => exact n6
  | .settings => exact ruleKeeps_settings
  | .queueOrder => exact o1
  | .rushOrder => exact o2
  | .withdrawOrder => exact o3
  | .readQueue => exact h4
  | .withhold => exact s1
  | .release => exact s2
  | .dropTile => exact s3
  | .purgeStore => exact s4
  | .clearPlan => exact t1
  | .readDirectory => exact h5
  | .readDeliveryLog => exact h6
  | .readPageLog => exact h7
  | .loadPlan => exact t2
  | .loadRoster => exact t3
  | .loadTone => exact t4
  | .loadGlyphs => exact t5

/-! ## Controls and tables -/

/-- Staging opens for a range of records that lies within the roster. -/
theorem keeps_openStaging {l : Link} {tag : BitVec 16} {x : TableTarget} {s : State}
    (hx : ∀ first count, x = .roster first count → first + count ≤ 1024) : Keeps s (openStaging l tag x s) := by
  refine ⟨fun h => h.congr (fun _ => rfl) fun _ => Iff.rfl, fun h => h, fun h => h,
    fun h => QueueLaw.congr (s := s) rfl rfl rfl h, fun _ h => ⟨h.listed, h.unique, h.once, fun m g first count hg ht => ?_, h.uses⟩,
    fun _ _ h => LockLaw.of_entries (s := s) h rfl rfl fun _ h => h⟩
  have hm : slotOf (openStaging l tag x s) m = if m = l then
      { slotOf s l with staging := some { target := x, tag := tag, bytes := [], overflow := false, gapTimer := 0 } }
      else slotOf s m := by
    cases m <;> cases l <;> rfl
  rw [hm] at hg
  split at hg
  · cases hg
    exact hx first count ht
  · exact h.range m g first count hg ht

theorem keeps_controlAfter (c : Control) (s : State) : Keeps s (controlAfter c s) := by
  cases c
  case unitReset => exact (neutral_clearForUnitReset s).keeps
  all_goals exact .refl s

theorem keeps_takeControl (c : Control) (l : Link) (w : Wire) {rule : List Byte → State → Ruling}
    {after : State → State} (hr : RuleKeeps rule) (ha : ∀ s, Keeps s (after s)) (s : State) :
    Keeps s (takeControl c l w rule after s) := by
  have h1 := neutral_supersede l s
  have h2 : ∀ o, Keeps s (conclude l (controlCode c) w.tag (toHall w) o [] false (supersede l s)) :=
    fun o => (h1.trans (neutral_conclude _ _ _ _ _ _ _ _)).keeps
  have h3 := hr w.payload (supersede l s)
  unfold takeControl
  dsimp only
  split
  · exact h2 _
  · split
    · exact h2 _
    · split
      · exact h2 _
      · split <;> rename_i he
        · exact h2 _
        · rw [he] at h3
          exact ((h1.keeps.trans h3).trans (neutral_conclude _ _ _ _ _ _ _ _).keeps).trans (ha _)
        · rw [he] at h3
          exact h1.keeps.trans (keeps_openStaging h3)

theorem target_appendBody (g : Staging) (p : List Byte) : (appendBody g p).target = g.target := rfl

/-- A checked table is applied (R1). -/
theorem keeps_applyTable {g : Staging} {s : State} (hc : checkTable g s = .taken)
    (hr : RosterLaw s → ∀ first count, g.target = .roster first count → first + count ≤ 1024) :
    Keeps s (applyTable g s) := by
  unfold checkTable at hc
  unfold applyTable
  cases ht : g.target with
  | plan id =>
    rw [ht] at hc
    obtain ⟨hpin, hn⟩ := checkPlan_taken hc
    exact keeps_setPlan hpin fun q hq => by cases hq; exact hn
  | roster first count =>
    rw [ht] at hc
    obtain ⟨es, hf⟩ := checkRoster_taken hc
    dsimp only
    rw [hf.read]
    exact keeps_applyRoster hf fun h => hr h first count ht
  | tone n =>
    have h : ∀ x, Neutral s { s with tables.tones := x } := fun x => {}
    exact (h _).keeps
  | glyphs =>
    have h : ∀ (t : State) x, Neutral t { t with tables.glyphs := x } := fun t x => {}
    exact ((neutral_startRender s).trans (h _ _)).keeps

theorem keeps_closeTable {l : Link} {g : Staging} {s : State}
    (hr : RosterLaw s → ∀ first count, g.target = .roster first count → first + count ≤ 1024) :
    Keeps s (closeTable l g s) := by
  unfold closeTable
  dsimp only
  split
  · rename_i hc
    exact (keeps_applyTable hc hr).trans
      ((neutral_discardStaging _ _).trans (neutral_conclude _ _ _ _ _ _ _ _)).keeps
  · exact ((neutral_discardStaging _ s).trans (neutral_conclude _ _ _ _ _ _ _ _)).keeps

theorem keeps_takeTableBody (l : Link) (w : Wire) (s : State) : Keeps s (takeTableBody l w s) := by
  unfold takeTableBody
  split
  · exact .refl s
  · split
    · exact (neutral_countReceive _ _ s).keeps
    · rename_i g hg
      dsimp only
      split
      · exact keeps_closeTable fun h first count ht => h.range l g first count hg ht
      · exact (neutral_setSlot_same l _ s (by rw [hg]; rfl)).keeps

/-! ## Exchange pages -/

theorem keeps_adoptMessage (l : Link) (page : List Byte) (s : State) : Keeps s (adoptMessage l page s) := by
  have h : ∀ x, Neutral s { s with tables.settings.trainGap := x } := fun x => {}
  unfold adoptMessage
  split
  · split
    · exact (h _).keeps.trans (storeStep_expireTrains _).keeps
    · exact (neutral_modPort _ _ s).keeps
    · exact .refl s
  · exact .refl s

theorem keeps_takePage (l : Link) (w : Wire) (s : State) : Keeps s (takePage l w s) := by
  have hset : ∀ (x : Exchange) (t : State), Keeps t (setExchange l x t) := fun x t => (neutral_modPort _ _ t).keeps
  unfold takePage
  split
  · exact .refl s
  · dsimp only
    split
    · unfold takeRoundPage
      dsimp only
      split
      · split
        · split
          · exact (neutral_takeAbility _ _ _ s).keeps
          · exact (hset _ s).trans (keeps_adoptMessage _ _ _)
        · exact hset _ s
      · split
        · split
          · exact (neutral_completeRound _ _ _ s).keeps
          · exact hset _ s
        · exact .refl s
    · exact .refl s

/-! ## Arrival -/

theorem keeps_arrive (l : Link) (kind code : Byte) (w : Wire) {body : State → State} (h : ∀ s, Keeps s (body s))
    (s : State) : Keeps s (arrive l kind code w body s) := by
  unfold arrive dispose
  split
  · exact (neutral_holdBack _ _ s).keeps
  · split
    · exact .refl s
    · exact .refl s
    · exact (neutral_countReceive _ _ s).keeps
    · exact keeps_takePage _ _ s
    · exact (neutral_enterFault _ s).keeps
    · split
      · exact (neutral_holdBack _ _ s).keeps
      · exact h s

theorem keeps_controlStep (c : Control) (l : Link) (w : Wire) (s : State) : Keeps s (controlStep c l w s) := by
  rw [controlStep_eq]
  exact keeps_arrive _ _ _ _ (keeps_takeControl _ _ _ (ruleKeeps_control c l) (keeps_controlAfter c)) s

theorem keeps_controlParcelStep (l : Link) (code : Byte) (w : Wire) (s : State) :
    Keeps s (controlParcelStep l code w s) := by
  unfold controlParcelStep
  split
  · exact keeps_controlStep _ l w s
  · exact keeps_arrive _ _ _ _
      (fun s => ((neutral_supersede l s).trans (neutral_conclude _ _ _ _ _ _ _ _)).keeps) s

theorem keeps_parcelStep (l : Link) (kind code : Byte) (w : Wire) (s : State) :
    Keeps s (parcelStep l kind code w s) := by
  unfold parcelStep
  split
  · exact keeps_arrive _ _ _ _ (fun s => (storeStep_takeTileHead l w s).keeps) s
  · exact keeps_arrive _ _ _ _ (fun s => (storeStep_takeTileBody l w s).keeps) s
  · exact keeps_controlParcelStep l code w s
  · exact keeps_arrive _ _ _ _ (keeps_takeTableBody l w) s
  · exact keeps_arrive _ _ _ _ (fun s => .refl s) s
  · exact keeps_arrive _ _ _ _ (fun s => .refl s) s

theorem keeps_receiveParcel (s : State) (i : Instr) : Keeps s (receiveParcel s i) := by
  unfold receiveParcel
  split
  · exact keeps_parcelStep _ _ _ _ s
  · exact .refl s

theorem keeps_releaseHeld (l : Link) (s : State) : Keeps s (releaseHeld l s) :=
  (neutral_modPort _ _ s).keeps.trans (Keeps.foldl keeps_receiveParcel _ _)

theorem keeps_releaseSome : ∀ (n : Nat) (s : State), Keeps s (releaseSome n s)
  | 0, s => .refl s
  | n + 1, s => by
    unfold releaseSome
    split
    · exact (keeps_releaseHeld .a s).trans (keeps_releaseSome n _)
    · split
      · exact (keeps_releaseHeld .b s).trans (keeps_releaseSome n _)
      · exact .refl s

theorem keeps_releaseAll (s : State) : Keeps s (releaseAll s) := keeps_releaseSome _ s

/-! ## The line sync -/

theorem neutral_emitLine (line : List Pixel) (s : State) : Neutral s (emitLine line s) := {}

theorem keeps_emitBlank (s : State) : Keeps s (emitBlank s) :=
  (neutral_emitLine _ s).keeps.trans (keeps_offerLine _)

theorem keeps_emitPageLine (c : Impression) (p : Plan) (m : BandMode) (y : Nat) (s : State) :
    Keeps s (emitPageLine c p m y s) := by
  have h0 : Neutral s { s with press.mode := some m } := {}
  have h1 := h0.trans (neutral_emitLine (lineFor s c p m (y / c.snapshot.bandHeight) y) _)
  unfold emitPageLine
  dsimp only
  split <;> split
  · exact (h1.trans (neutral_endBand _ _)).keeps.trans (keeps_endImpression _)
  · exact h1.keeps.trans (keeps_endImpression _)
  · exact (h1.trans (neutral_endBand _ _)).keeps.trans (keeps_offerLine _)
  · exact h1.keeps.trans (keeps_offerLine _)

theorem keeps_clearSync (s : State) : Keeps s (clearSync s) := by
  unfold clearSync
  split
  · exact keeps_emitBlank s
  · dsimp only
    split
    · unfold firstLine
      split
      · exact keeps_emitPageLine _ _ _ _ s
      · split
        · exact (neutral_fillBand _ s).keeps.trans (keeps_emitPageLine _ _ _ _ _)
        · exact Neutral.keeps {}
    · split <;> exact keeps_emitPageLine _ _ _ _ s

theorem keeps_reissuedSync (m : BandMode) (s : State) : Keeps s (reissuedSync m s) := by
  have h0 : Neutral s { s with press.hold := .clear } := {}
  unfold reissuedSync
  dsimp only
  split
  · exact h0.keeps.trans (keeps_emitBlank _)
  · exact h0.keeps.trans (keeps_emitPageLine _ _ _ _ _)

theorem keeps_takeLineSync (s : State) : Keeps s (takeLineSync s) := by
  have h0 := (neutral_startRender s).keeps
  unfold takeLineSync
  dsimp only
  split
  · exact h0
  · exact h0.trans (keeps_reissuedSync _ _)
  · exact h0.trans (keeps_clearSync _)

/-! ## The links -/

theorem keeps_loseSignal (l : Link) (s : State) : Keeps s (loseSignal l s) := by
  have h : Keeps s (rerouteWaiting (discardStaging l (voidTrain l none (modPort l
      (fun p => { p with
        state := .down, signal := false, sensingTimer := 0, exchange := none, sending := [], reply := none
        heldBack := [] }) s)))) :=
    (((neutral_modPort l _ s).keeps.trans (storeStep_voidTrain l none _).keeps).trans
      (neutral_discardStaging l _).keeps).trans (neutral_rerouteWaiting _).keeps
  unfold loseSignal
  dsimp only
  split
  · exact h
  · exact h.trans (neutral_latchKind _ _).keeps

/-! ## Power-on reset -/

theorem powerOn_queue (a : BitVec 4) (s : State) : (powerOn a s).scheduler.queue = [] := rfl

theorem planOf_powerOn (a : BitVec 4) (s : State) (id : Fin 8) : planOf (powerOn a s) id = none := by
  show (Vector.replicate 8 none)[id.val] = none
  rw [Vector.getElem_replicate]

theorem recordOf_powerOn (a : BitVec 4) (s : State) (i : RosterIndex) :
    recordOf (powerOn a s) i = RosterRecord.empty := by
  show (Vector.replicate 1024 RosterRecord.empty)[i.val] = _
  rw [Vector.getElem_replicate]

theorem trainLaw_powerOn (a : BitVec 4) (s : State) : TrainLaw (powerOn a s) := by
  refine (trainLaw_iff _).2 ⟨fun i => ?_, fun i h => by cases h.1⟩
  rw [entryOf_powerOn]
  refine iff_of_false nofun ?_
  rintro ⟨l, h⟩
  cases l <;> cases h

theorem withinPlaces_powerOn (a : BitVec 4) (s : State) : WithinPlaces (powerOn a s) :=
  ⟨Nat.zero_le _, Nat.zero_le _, fun m => by cases m <;> exact Nat.zero_le _⟩

theorem totalsLaw_powerOn (a : BitVec 4) (s : State) : TotalsLaw (powerOn a s) := ⟨rfl, rfl⟩

theorem queueLaw_powerOn (a : BitVec 4) (s : State) : QueueLaw (powerOn a s) where
  loaded _ h := by cases h
  tags := List.nodup_nil
  idle := iff_of_true rfl rfl
  printing _ _ _ h := by cases h
  places _ _ h := by cases h

theorem rosterLaw_powerOn (a : BitVec 4) (s : State) : RosterLaw (powerOn a s) := by
  refine ⟨fun i => ?_, fun i j h => ?_, fun id p h => ?_, fun l g first count h => ?_, fun i => ?_⟩
  · rw [recordOf_powerOn]
    exact iff_of_false nofun fun h => h rfl
  · rw [recordOf_powerOn] at h
    cases h
  · rw [planOf_powerOn] at h
    cases h
  · cases l <;> cases h
  · rw [recordOf_powerOn]
    rfl

theorem lockLaw_powerOn (a : BitVec 4) (s : State) : LockLaw (powerOn a s) := by
  refine (lockLaw_iff _).2 ⟨⟨fun _ h => (by cases h), fun _ h => (by cases h)⟩, fun i => ?_⟩
  rw [entryOf_powerOn, recordOf_powerOn]
  exact ⟨nofun, fun _ => rfl, nofun, nofun, nofun⟩

theorem keeps_powerOn (a : BitVec 4) (s : State) : Keeps s (powerOn a s) :=
  ⟨fun _ => trainLaw_powerOn a s, fun _ => withinPlaces_powerOn a s, fun _ => totalsLaw_powerOn a s,
    fun _ => queueLaw_powerOn a s, fun _ _ => rosterLaw_powerOn a s, fun _ _ _ => lockLaw_powerOn a s⟩

/-! ## Every command -/

/-- A command that is a parcel is its step, after which QUIET OTHER and the commands of an unknown kind or code let
parcels through. -/
theorem exec_parcel {i : Instr} {l : Link} {kind code : Byte} {w : Wire} (h : parcelParts i = some (l, kind, code, w))
    (s : State) : exec i s = .next (parcelStep l kind code w s)
      ∨ exec i s = .next (releaseAll (parcelStep l kind code w s)) := by
  cases i <;> cases h
  case unknownKindParcel => exact .inr rfl
  case unknownControl => exact .inr rfl
  case quietOther => exact .inr rfl
  all_goals exact .inl rfl

theorem keeps_exec {c : Instr} {s t : State} (h : exec c s = .next t) : Keeps s t := by
  cases hp : parcelParts c with
  | some x =>
    obtain ⟨l, kind, code, w⟩ := x
    rcases exec_parcel hp s with he | he <;> rw [he] at h <;> cases h
    · exact keeps_parcelStep _ _ _ _ s
    · exact (keeps_parcelStep _ _ _ _ s).trans (keeps_releaseAll _)
  | none =>
    cases c
    case powerOnReset a => cases h; exact keeps_powerOn a s
    case lineSync => cases h; exact keeps_takeLineSync s
    case timeTick => cases h; exact (neutral_tick s).keeps
    case signalPresent l => cases h; exact (neutral_takeSignal l s).keeps
    case sensingTimeout l =>
      cases h
      split
      · exact (neutral_modPort _ _ s).keeps
      · exact .refl s
    case signalLost l => cases h; exact keeps_loseSignal l s
    case exchangeTimeout l =>
      cases h
      split
      · exact (neutral_modPort _ _ s).keeps
      · exact .refl s
    case trainGapExpiry l => cases h; exact (storeStep_expireTrain l s).keeps
    case tableTrainExpiry l => cases h; exact (neutral_expireTable l s).keeps
    case renderStart => cases h; exact (neutral_startRender s).keeps
    case renderComplete n => cases h; exact ((neutral_startRender s).trans (neutral_takeCompletion n _)).keeps
    case holdExpiry => cases h; exact (neutral_expireHold s).keeps
    case returnDirectionFree l => cases h; exact (neutral_freeReturn l s).keeps.trans (keeps_releaseAll _)
    all_goals cases hp

/-- The command taken from the queue is no part of what the laws see. -/
theorem neutral_pending (s : State) (r : List Instr) : Neutral s { s with pending := r } := {}

theorem keeps_step {s t : State} (h : step s = .next t) : Keeps s t := by
  unfold step at h
  split at h
  · cases h
    exact .refl s
  · exact (neutral_pending s _).keeps.trans (keeps_exec h)

/-! ## The obligations -/

/-- Settles O5, by the lemma that says what every step keeps of the trains. -/
theorem trainLawKept : Obligations.TrainLawKept :=
  fun _ _ h hs => (keeps_step hs).trains h

/-- Settles O7, by the lemma that says what every step keeps of the queue. -/
theorem queueLawKept : Obligations.QueueLawKept :=
  fun _ _ h hs => (keeps_step hs).queue h

/-- Settles O8, by the lemma that says what every step keeps of the roster. -/
theorem rosterLawKept : Obligations.RosterLawKept :=
  fun _ _ hq hr hs => (keeps_step hs).roster hq hr

/-- Settles O9, by the lemma that says what every step keeps of the locks. -/
theorem lockLawKept : Obligations.LockLawKept :=
  fun _ _ hq hr hl hs => (keeps_step hs).locks hq hr hl

/-- Settles O6: the forms of tile memory by the paths of moves, the places and the totals by what every step keeps. -/
theorem formsPlacesAndTotalsKept : Obligations.FormsPlacesAndTotalsKept :=
  ⟨fun _ _ h hs => step_keeps (P := FreeListAscends) (fun _ _ h => h) (fun _ _ _ => exec_keeps_ascends) hs h,
    fun _ _ h hs =>
      step_keeps (P := fun s => Memory.wf s.store.bytes = true) (fun _ _ h => h) (fun _ _ _ => exec_keeps_wf) hs h,
    fun _ _ h hs => (keeps_step hs).places h, fun _ _ h hs => (keeps_step hs).totals h⟩

/-- The part right after reset is what a power-on reset with its straps leaves. -/
theorem reset_eq_powerOn : State.reset = powerOn Config.resetStraps State.reset := rfl

/-- Settles O10: each law holds of every state that a power-on reset leaves. -/
theorem lawsHoldAtReset : Obligations.LawsHoldAtReset := by
  have h := reset_eq_powerOn
  exact ⟨h ▸ blockLaw_powerOn _ _, h ▸ arrivalLaw_powerOn _ _, h ▸ trainLaw_powerOn _ _,
    h ▸ freeListAscends_powerOn _ _, rfl, h ▸ withinPlaces_powerOn _ _, h ▸ totalsLaw_powerOn _ _,
    h ▸ queueLaw_powerOn _ _, h ▸ rosterLaw_powerOn _ _, h ▸ lockLaw_powerOn _ _⟩

/-- Settles O1: `step` by its two cases. -/
theorem stepTakesTheFrontCommand : Obligations.StepTakesTheFrontCommand :=
  ⟨fun _ _ _ => rfl, fun _ => rfl⟩

end Sys2Proof.Machine
end

section
/-!
Parcels as bytes, the power-on reset and the millisecond tick.
-/

namespace Sys2Proof.Machine

/-! ## Parcels read back -/

/-- The four marker bits of header byte 1 stand below the address. -/
theorem markers_split (a : BitVec 4) (m : Nat) (hm : m < 16) :
    (BitVec.ofNat 8 (a.toNat * 16 + m)).toNat = a.toNat * 16 + m := by
  have := a.isLt
  rw [BitVec.toNat_ofNat, Nat.mod_eq_of_lt (by omega)]

theorem markerBits_lt (a b c d : Bool) : markerBits a b c d < 16 := by
  unfold markerBits
  have := Bool.toNat_le a
  have := Bool.toNat_le b
  have := Bool.toNat_le c
  have := Bool.toNat_le d
  omega

/-- The marker bits are read back one by one. -/
theorem testBit_markers (n : Nat) (a b c d : Bool) :
    (n * 16 + markerBits a b c d).testBit 3 = a ∧ (n * 16 + markerBits a b c d).testBit 2 = b
    ∧ (n * 16 + markerBits a b c d).testBit 1 = c ∧ (n * 16 + markerBits a b c d).testBit 0 = d := by
  simp only [Nat.testBit_eq_decide_div_mod_eq, markerBits]
  cases a <;> cases b <;> cases c <;> cases d <;>
    simp only [Bool.toNat_true, Bool.toNat_false, decide_eq_true_eq, decide_eq_false_iff_not] <;>
    refine ⟨?_, ?_, ?_, ?_⟩ <;> omega

theorem bytesBE_two (v : Nat) : bytesBE 2 v = [BitVec.ofNat 8 (v / 256), BitVec.ofNat 8 v] := by
  simp [bytesBE]

/-- A 16-bit field is read back from its two bytes. -/
theorem field16 (v : BitVec 16) :
    BitVec.ofNat 16 ((BitVec.ofNat 8 (v.toNat / 256)).toNat * 256 + (BitVec.ofNat 8 v.toNat).toNat) = v := by
  have := v.isLt
  refine BitVec.eq_of_toNat_eq ?_
  simp only [BitVec.toNat_ofNat]
  omega

/-- A parcel is the command of its kind and code again, whatever its bytes (section 12.1). -/
theorem decodeParcel_encode (l : Link) (kind code : Byte) (w : Wire) :
    decodeParcel l (headerBytes kind code w ++ w.payload ++ bytesBE 2 w.check.toNat) =
      some (parcelCommand l kind code w) := by
  obtain ⟨address, last, response, poisoned, nocheck, reserved, tag, lengthField, payload, check⟩ := w
  have hlt := markerBits_lt last response poisoned nocheck
  have hm := markers_split address _ hlt
  obtain ⟨t3, t2, t1, t0⟩ := testBit_markers address.toNat last response poisoned nocheck
  have hlen : (payload ++ bytesBE 2 check.toNat).length = payload.length + 2 := by simp [bytesBE_two]
  have haddr : BitVec.ofNat 4 ((address.toNat * 16 + markerBits last response poisoned nocheck) / 16) = address := by
    refine BitVec.eq_of_toNat_eq ?_
    have := address.isLt
    rw [BitVec.toNat_ofNat]
    omega
  have hcheck : be16 (payload ++ bytesBE 2 check.toNat) payload.length =
      (BitVec.ofNat 8 (check.toNat / 256)).toNat * 256 + (BitVec.ofNat 8 check.toNat).toNat := by
    simp [be16, byteAt, bytesBE_two]
  generalize hrest : payload ++ bytesBE 2 check.toNat = rest at hlen hcheck
  unfold decodeParcel headerBytes
  simp only [bytesBE_two tag.toNat, bytesBE_two lengthField.toNat, List.cons_append, List.nil_append, hrest,
    List.length_cons, hlen]
  rw [if_neg (by omega)]
  refine congrArg (fun x => some (parcelCommand l kind code x)) ?_
  have e1 : payload.length + 2 + 1 + 1 + 1 + 1 + 1 + 1 + 1 + 1 - 10 = payload.length := by omega
  have e2 : payload.length + 2 + 1 + 1 + 1 + 1 + 1 + 1 + 1 + 1 - 2 = payload.length + 8 := by omega
  have htake : rest.take payload.length = payload := by rw [← hrest, List.take_left']; rfl
  simp only [e1, e2, byteAt, be16, List.getD_cons_succ, List.getD_cons_zero, List.drop_succ_cons, List.drop_zero, hm,
    t3, t2, t1, t0, haddr, field16, htake, Wire.mk.injEq, true_and]
  exact (congrArg (BitVec.ofNat 16) hcheck).trans (field16 check)

/-- A well-formed command is what its parcel's kind and code name. -/
theorem parcelCommand_of_parts {i : Instr} {l : Link} {kind code : Byte} {w : Wire} (hw : i.wellFormed = true)
    (h : parcelParts i = some (l, kind, code, w)) : parcelCommand l kind code w = i := by
  cases i <;> cases h
  case unknownKindParcel =>
    simp only [Instr.wellFormed, Bool.and_eq_true, Bool.not_eq_true', ownKind, List.mem_cons, List.not_mem_nil,
      or_false, decide_eq_false_iff_not, not_or] at hw
    obtain ⟨-, h1, h2, h3, h4, h8⟩ := hw
    unfold parcelCommand
    split <;> first | contradiction | rfl
  case unknownControl =>
    simp only [Instr.wellFormed, Bool.and_eq_true, Bool.not_eq_true', namesControl, decide_eq_false_iff_not] at hw
    have hn : controlOfCode code = none := by
      unfold controlOfCode
      split
      all_goals first | rfl | omega
    show (match controlOfCode code with
      | some c => controlCommand c l w
      | none => Instr.unknownControl l code w) = _
    rw [hn]
  all_goals rfl

/-- Settles O11: the fields are read back byte by byte, and kind and code name the command again. -/
theorem parcelsReadBackAsSent : Obligations.ParcelsReadBackAsSent := by
  intro i l kind code w hw h
  refine ⟨headerBytes kind code w ++ w.payload ++ bytesBE 2 w.check.toNat, ?_, ?_, ?_⟩
  · unfold encodeParcel
    rw [h]
    rfl
  · simp [headerBytes, bytesBE_two]
    omega
  · rw [decodeParcel_encode, parcelCommand_of_parts hw h]

/-! ## Power-on reset -/

/-- Settles O12: each field by its reset value. -/
theorem powerOnReset : Obligations.PowerOnReset := by
  intro a s
  refine ⟨powerOn a s, rfl, rfl, ⟨planOf_powerOn a s, rfl, rfl, recordOf_powerOn a s, fun n => ?_, rfl, rfl⟩,
    ⟨fun l => ?_, entryOf_powerOn a s, fun q => ?_, rfl⟩, ⟨?_, rfl, rfl⟩, ⟨rfl, rfl, rfl, fun q => ?_, rfl⟩,
    ⟨rfl, rfl⟩, ⟨fun b => ?_, rfl⟩, ⟨rfl, rfl, rfl⟩, fun l => ?_, ⟨rfl, rfl, rfl⟩, ⟨rfl, rfl, rfl⟩, rfl, ?_, rfl, rfl,
    rfl⟩
  · show (Vector.replicate 16 none)[n.val] = none
    rw [Vector.getElem_replicate]
  · cases l <;> rfl
  · show (Vector.replicate 256 none)[q.val] = none
    rw [Vector.getElem_replicate]
  · show List.range' 0 8192 = List.range 8192
    rw [List.range_eq_range']
  · show (Vector.replicate 64 none)[q.val] = none
    rw [Vector.getElem_replicate]
  · show (Vector.replicate 4 Buffer.free)[b.val] = .free
    rw [Vector.getElem_replicate]
  · cases l <;> exact ⟨rfl, rfl, rfl, rfl, rfl, rfl, rfl, rfl, rfl, rfl, rfl⟩
  · have ha : attention (powerOn a s) = false := by
      show ((0 : BitVec 9) &&& 0 != 0 && !false) = false
      decide
    have hr : running (powerOn a s) = false := rfl
    have hl : storeLow (powerOn a s) = false := rfl
    have hh : holding (powerOn a s) = false := rfl
    unfold unitStatus
    rw [ha, hr, hl, hh]
    rfl

/-! ## The millisecond tick -/

/-- Settles O19: `tick` field by field. -/
theorem tickCountsTheMilliseconds : Obligations.TickCountsTheMilliseconds := by
  intro s
  refine ⟨tick s, rfl, rfl, fun l => ?_, fun k n h => ?_, fun h => ?_, rfl⟩
  · cases l <;> exact ⟨rfl, rfl, rfl⟩
  · show { s.press with hold := tickHold s.press.hold } = _
    rw [h]
    rfl
  · show { s.press with hold := tickHold s.press.hold } = _
    have he : tickHold s.press.hold = s.press.hold := by
      unfold tickHold
      split
      · rename_i k n he
        exact absurd he (h k n)
      · rename_i he
        exact he.symm
      · rename_i he
        exact he.symm
    rw [he]

/-! ## The timers of a link -/

/-- A counter stops at 65535 (R157). -/
theorem bump_eq (c : Count) : bump c = if c = 65535 then 65535 else c + 1 := by
  unfold bump
  split
  · assumption
  · rfl

theorem exchangeDue_iff {l : Link} {s : State} : exchangeDue l s = true ↔
    ∃ x, (portOf s l).state = .exchange ∧ (portOf s l).exchange = some x ∧ 50 ≤ x.timer := by
  unfold exchangeDue
  split
  · rename_i x hs hx
    rw [decide_eq_true_eq]
    refine ⟨fun h => ⟨x, hs, hx, h⟩, ?_⟩
    rintro ⟨y, -, hy, h⟩
    rw [hx] at hy
    cases hy
    exact h
  · rename_i hn
    refine iff_of_false nofun ?_
    rintro ⟨x, hs, hx, -⟩
    exact hn x hs hx

/-- Settles O20: the two timers' events by whether their limit is reached. -/
theorem linkTimersMoveTheLink : Obligations.LinkTimersMoveTheLink := by
  intro s l
  refine ⟨fun h => ?_, fun h => ?_, fun x hs hx => ⟨fun ht => ?_, fun ht => ?_⟩, fun hs => ?_⟩
  · have hd : sensingDue l s = true := decide_eq_true h
    show Host.Outcome.next (if sensingDue l s then _ else _) = _
    rw [if_pos hd]
    rfl
  · have hd : ¬sensingDue l s = true := by
      unfold sensingDue
      rw [decide_eq_true_eq]
      rintro ⟨h1, h2⟩
      rcases h with h | h
      · exact h h1
      · omega
    show Host.Outcome.next (if sensingDue l s then _ else _) = _
    rw [if_neg hd]
  · show Host.Outcome.next (if exchangeDue l s then _ else _) = _
    rw [if_pos (exchangeDue_iff.2 ⟨x, hs, hx, ht⟩)]
    unfold restartExchange modPort
    dsimp only
    rw [bump_eq]
  · show Host.Outcome.next (if exchangeDue l s then _ else _) = _
    rw [if_neg]
    rw [exchangeDue_iff]
    rintro ⟨y, -, hy, hle⟩
    rw [hx] at hy
    cases hy
    omega
  · show Host.Outcome.next (if exchangeDue l s then _ else _) = _
    rw [if_neg]
    rw [exchangeDue_iff]
    rintro ⟨y, h, -⟩
    exact hs h

end Sys2Proof.Machine
end

section
/-!
What the offer of a line count leaves unchanged, and the end of an impression; the pieces that the Press Port's statements
are put together from.
-/

namespace Sys2Proof.Machine

/-! ## Freezes and calls -/

/-- An order without what its seats have met, and the number of its decisions. -/
def Order.frame (o : Order) : Order × Nat := ({ o with decisions := [], seatLines := [] }, o.decisions.length)

/-- A change that freezes and call points make: the queue's Decision Tables and seat lines, the context's next band to
freeze, locks, calls, and a notice. -/
structure Offered (s t : State) : Prop where
  only : t =
    { s with
      intake.directory := t.intake.directory
      scheduler.queue := t.scheduler.queue
      scheduler.impression := t.scheduler.impression
      seats := t.seats
      ports := t.ports
      notices := t.notices } := by rfl
  ports : ∀ l, portOf t l = { portOf s l with calls := (portOf t l).calls, notice := (portOf t l).notice } := by
    intros; rfl
  context : t.scheduler.impression.map (fun c => { c with nextFreeze := 0 }) =
    s.scheduler.impression.map (fun c => { c with nextFreeze := 0 }) := by rfl
  latched : ∀ k, k ≠ .callDropped → holdsKind t.notices.latched k = holdsKind s.notices.latched k := by
    intros; rfl
  grows : holdsKind s.notices.latched .callDropped = true → holdsKind t.notices.latched .callDropped = true := by
    exact fun h => h
  frames : t.scheduler.queue.map Order.frame = s.scheduler.queue.map Order.frame := by rfl
  later : s.scheduler.impression.elim 0 Impression.nextFreeze ≤ t.scheduler.impression.elim 0 Impression.nextFreeze := by
    exact le_refl _

theorem Offered.refl (s : State) : Offered s s := {}

theorem Offered.trans {s t u : State} (p : Offered s t) (q : Offered t u) : Offered s u where
  only := by
    refine q.only.trans ?_
    rw [p.only]
  ports l := by
    rw [q.ports, p.ports]
  context := q.context.trans p.context
  latched k h := (q.latched k h).trans (p.latched k h)
  grows h := q.grows (p.grows h)
  frames := q.frames.trans p.frames
  later := p.later.trans q.later

theorem Offered.foldl {α : Type} {f : State → α → State} (h : ∀ s x, Offered s (f s x)) :
    ∀ (xs : List α) (s : State), Offered s (xs.foldl f s)
  | [], s => .refl s
  | x :: xs, s => (h s x).trans (Offered.foldl h xs (f s x))

theorem offered_modHead {f : Order → Order} (h : ∀ o, (f o).frame = o.frame) (s : State) : Offered s (modHead f s) := by
  have hq : (modHead f s).scheduler.queue.map Order.frame = s.scheduler.queue.map Order.frame := by
    unfold modHead
    split
    · rfl
    · next o os he =>
      rw [he]
      exact congrArg (· :: os.map Order.frame) (h o)
  rw [modHead_only] at hq ⊢
  exact { frames := hq }

theorem frame_setDecision (n : Nat) (e : SeatEntry) (o : Order) :
    ({ o with decisions := o.decisions.set n e } : Order).frame = o.frame := by
  unfold Order.frame
  rw [List.length_set]

theorem offered_dropCallsFor (tag : BitVec 16) (i : RosterIndex) (s : State) : Offered s (dropCallsFor tag i s) := {}

theorem offered_lockEntry (i : RosterIndex) (s : State) : Offered s (lockEntry i s) := by
  unfold lockEntry
  split <;> exact {}

theorem offered_decideSeat (tag : BitVec 16) (n : Nat) (i : RosterIndex) (s : State) :
    Offered s (decideSeat tag n i s) := by
  unfold decideSeat
  dsimp only
  refine Offered.trans ?_ (offered_dropCallsFor tag i _)
  split
  · exact (offered_modHead (frame_setDecision n _) s).trans (offered_lockEntry i _)
  · exact offered_modHead (frame_setDecision n _) s

theorem offered_freezeSeat (tag : BitVec 16) (k : Nat) (s : State) (x : Seat × Nat) : Offered s (freezeSeat tag k s x) := by
  unfold freezeSeat
  split
  · split
    · exact offered_decideSeat _ _ _ s
    · exact .refl s
  · exact .refl s

theorem offered_freezeBand (s : State) : Offered s (freezeBand s) := by
  unfold freezeBand
  split
  · exact .refl s
  · split
    · exact .refl s
    · refine (Offered.foldl (offered_freezeSeat _ _) _ s).trans { context := ?_, later := ?_ }
      · simp only [modImpression, Option.map_map]
        rfl
      · unfold modImpression
        cases (List.foldl _ s _).scheduler.impression with
        | none => exact le_refl _
        | some c => exact Nat.le_succ _

theorem portOf_setPort (l m : Link) (p : Port) (s : State) :
    portOf (setPort l p s) m = if m = l then p else portOf s m := by
  cases l <;> cases m <;> rfl

theorem portOf_modPort (l m : Link) (f : Port → Port) (s : State) :
    portOf (modPort l f s) m = if m = l then f (portOf s m) else portOf s m := by
  cases l <;> cases m <;> rfl

theorem offered_latchCallDropped (s : State) : Offered s (latchKind .callDropped s) where
  only := by rw [latchKind_only]
  ports l := by
    conv_lhs => rw [portOf_latchKind]
    conv_rhs => rw [portOf_latchKind]
  context := by rw [latchKind_only]
  latched _ h := latchKind_other h s
  grows := latchKind_keeps _
  frames := by rw [latchKind_only]
  later := by rw [latchKind_only]

theorem offered_issueCall (tag : BitVec 16) (i : RosterIndex) (due : LineValue) (s : State) :
    Offered s (issueCall tag i due s) := by
  unfold issueCall
  dsimp only
  split
  · refine { ports := fun l => ?_ }
    rw [portOf_modPort]
    split <;> rfl
  · exact Offered.trans (t := { s with seats.dropped := bump s.seats.dropped }) {} (offered_latchCallDropped _)

theorem offered_takeCallPoint (tag : BitVec 16) (n : Nat) (i : RosterIndex) (due : LineValue) (s : State) :
    Offered s (takeCallPoint tag n i due s) := by
  unfold takeCallPoint
  dsimp only
  split
  · refine Offered.trans (offered_modHead ?_ s) (offered_issueCall _ _ _ _)
    exact fun _ => rfl
  · refine offered_modHead ?_ s
    exact fun _ => rfl

theorem offered_callSeatAt (tag : BitVec 16) (s : State) (x : Seat × Nat) : Offered s (callSeatAt tag s x) := by
  unfold callSeatAt
  split
  · split
    · exact offered_takeCallPoint _ _ _ _ s
    · exact .refl s
  · exact .refl s

theorem offered_callSeatReached (tag : BitVec 16) (s : State) (x : Seat × Nat) : Offered s (callSeatReached tag s x) := by
  unfold callSeatReached
  split
  · split
    · split
      · exact offered_takeCallPoint _ _ _ _ s
      · exact .refl s
    · exact .refl s
  · exact .refl s

theorem offered_overFirstSeats {f : BitVec 16 → State → Seat × Nat → State} (h : ∀ tag s x, Offered s (f tag s x))
    (s : State) : Offered s (overFirstSeats f s) := by
  unfold overFirstSeats
  split
  · split
    · exact Offered.foldl (h _) _ s
    · exact .refl s
    · exact .refl s
  · exact .refl s

theorem offered_freezeReached : ∀ (n : Nat) (s : State), Offered s (freezeReached n s)
  | 0, s => .refl s
  | n + 1, s => by
    unfold freezeReached
    split
    · split
      · exact (offered_freezeBand s).trans (offered_freezeReached n _)
      · exact .refl s
    · exact .refl s

theorem offered_takeReached (n : Nat) (s : State) : Offered s (takeReached n s) :=
  (offered_freezeReached n s).trans (offered_overFirstSeats offered_callSeatReached _)

theorem offered_offerLine (s : State) : Offered s (offerLine s) := by
  unfold offerLine
  dsimp only
  refine Offered.trans ?_ (offered_overFirstSeats offered_callSeatAt _)
  split
  · exact offered_freezeBand s
  · exact .refl s

/-- The context that an offer leaves is the one it finds but for the next band to freeze. -/
theorem Offered.impression {s t : State} (h : Offered s t) {c : Impression} (hc : s.scheduler.impression = some c) :
    ∃ n, t.scheduler.impression = some { c with nextFreeze := n } := by
  have hm := h.context
  rw [hc, Option.map_some] at hm
  obtain ⟨d, hd, he⟩ := Option.map_eq_some_iff.1 hm
  refine ⟨d.nextFreeze, hd.trans (congrArg some ?_)⟩
  have : d = { ({ d with nextFreeze := 0 } : Impression) with nextFreeze := d.nextFreeze } := rfl
  rw [this, he]

/-! ## The boundary -/

/-- A change that the end of an impression makes: orders, locks, pending uses, the versions that leave, calls, notices, the
Page Log, and what a beginning sets anew. -/
structure Bounded (s t : State) : Prop where
  only : t =
    { s with
      tables.roster := t.tables.roster
      intake.directory := t.intake.directory
      store := { t.store with bytes := s.store.bytes }
      scheduler := t.scheduler
      seats := t.seats
      renderer.nextBand := t.renderer.nextBand
      press.mode := t.press.mode
      press.blankWidth := t.press.blankWidth
      ports := t.ports
      notices := t.notices } := by rfl
  mode : t.press.mode = s.press.mode ∨ t.press.mode = none := by exact .inl rfl
  latched : ∀ k, holdsKind s.notices.latched k = true → holdsKind t.notices.latched k = true := by
    exact fun _ h => h

theorem Bounded.refl (s : State) : Bounded s s := {}

theorem Bounded.trans {s t u : State} (p : Bounded s t) (q : Bounded t u) : Bounded s u where
  only := by
    refine q.only.trans ?_
    rw [p.only]
  mode := by
    rcases q.mode with h | h
    · rw [h]
      exact p.mode
    · exact .inr h
  latched k h := q.latched k (p.latched k h)

theorem bounded_latchKind (k : NoticeKind) (s : State) : Bounded s (latchKind k s) where
  only := by rw [latchKind_only]
  mode := by
    rw [latchKind_only]
    exact .inl rfl
  latched _ h := latchKind_keeps k h

/-- A kind in the latch stays there over the low-water test. -/
theorem latched_lowWaterTest {s : State} {k : NoticeKind} (h : holdsKind s.notices.latched k = true) :
    holdsKind (lowWaterTest s).notices.latched k = true := by
  have hr : (reclaim s.tables.settings.lowWater s).notices = s.notices := by rw [reclaim_only]
  unfold lowWaterTest latchStoreLow
  split
  · split
    · exact latchKind_keeps _ (by rw [hr]; exact h)
    · rw [hr]
      exact h
  · exact h

theorem bounded_lowWaterTest (s : State) : Bounded s (lowWaterTest s) where
  only := by rw [lowWaterTest_only]
  mode := by
    rw [lowWaterTest_only]
    exact .inl rfl
  latched _ h := latched_lowWaterTest h

theorem bounded_removedState (o : Order) (s : State) : Bounded s (removedState o s) := by
  rw [removedState_only]
  exact {}

theorem bounded_removeOrder (o : Order) (s : State) : Bounded s (removeOrder o s) := by
  rw [removeOrder_eq]
  exact (bounded_removedState o s).trans (bounded_lowWaterTest _)

theorem bounded_settleFate (s : State) : Bounded s (settleFate s) := by
  unfold settleFate
  split
  · exact .refl s
  · split
    · exact (bounded_removeOrder _ s).trans (bounded_latchKind _ _)
    · split
      · split
        · exact {}
        · exact .refl s
      · exact .refl s

theorem Offered.bounded {s t : State} (h : Offered s t) : Bounded s t where
  only := by rw [h.only]
  mode := by
    rw [h.only]
    exact .inl rfl
  latched k hk := by
    by_cases hc : k = .callDropped
    · subst hc
      exact h.grows hk
    · rw [h.latched k hc]
      exact hk

theorem bounded_begunState (o : Order) (p : Plan) (s : State) : Bounded s (begunState o p s) := by
  rw [begunState_only]
  exact { mode := .inr rfl }

theorem bounded_beginImpression (s : State) : Bounded s (beginImpression s) := by
  cases hq : s.scheduler.queue with
  | nil =>
    rw [beginImpression_nil hq]
    exact .refl s
  | cons o rest =>
    cases hp : planOf s o.plan with
    | none =>
      have he : beginImpression s = s := by
        unfold beginImpression headOrder
        rw [hq, List.head?_cons]
        dsimp only
        rw [hp]
      rw [he]
      exact .refl s
    | some p =>
      rw [beginImpression_cons hq hp]
      exact (bounded_begunState o p s).trans (offered_takeReached _ _).bounded

/-- The state once the Page Log record of an impression that ends has been written and its context released (R75). -/
def releasedState (c : Impression) (o : Order) (s : State) : State :=
  let r := pageRecord s c o
  let s1 := writePage r (modHead (fun o => { o with done := o.done + 1 }) s)
  let s2 := if 0 < r.absent + r.filled then latchKind .pageDeficient s1 else s1
  { s2 with scheduler.prevEnd := c.endLine + 1, scheduler.impression := none }

theorem endImpression_eq {s : State} {c : Impression} {o : Order} (hc : s.scheduler.impression = some c)
    (ho : headOrder s = some o) : endImpression s = beginImpression (settleFate (releasedState c o s)) := by
  unfold endImpression
  rw [hc, ho]
  rfl

theorem bounded_releasedState (c : Impression) (o : Order) (s : State) : Bounded s (releasedState c o s) := by
  have h1 : Bounded s (writePage (pageRecord s c o) (modHead (fun o => { o with done := o.done + 1 }) s)) := by
    unfold writePage
    rw [modHead_only]
    exact {}
  unfold releasedState
  dsimp only
  split
  · exact (h1.trans (bounded_latchKind _ _)).trans {}
  · exact h1.trans {}

theorem bounded_endImpression (s : State) : Bounded s (endImpression s) := by
  cases hc : s.scheduler.impression with
  | none =>
    unfold endImpression
    rw [hc]
    exact .refl s
  | some c =>
    cases ho : headOrder s with
    | none =>
      unfold endImpression
      rw [hc, ho]
      exact .refl s
    | some o =>
      rw [endImpression_eq hc ho]
      exact ((bounded_releasedState c o s).trans (bounded_settleFate _)).trans (bounded_beginImpression _)

end Sys2Proof.Machine
end

section
/-!
The answer to a line sync (chapter 8): the line that is emitted, the end of a band, underrun by FILL and HOLD policy, and
the line sync reissued after a hold.
-/

namespace Sys2Proof.Machine

/-! ## The first index at which a test holds -/

theorem findFinIdx?_eq_some_iff {α : Type} {n : Nat} {p : α → Bool} {xs : Vector α n} {i : Fin n} :
    xs.findFinIdx? p = some i ↔ p xs[i] = true ∧ ∀ j : Fin n, j < i → p xs[j] = false := by
  obtain ⟨a, rfl⟩ := xs
  simp [Array.findFinIdx?_eq_some_iff]

theorem findFinIdx?_eq_none_iff {α : Type} {n : Nat} {p : α → Bool} {xs : Vector α n} :
    xs.findFinIdx? p = none ↔ ∀ j : Fin n, p xs[j] = false := by
  rw [Vector.findFinIdx?_eq_none_iff]
  constructor
  · intro h j
    simpa using h _ (Vector.getElem_mem j.isLt)
  · intro h x hx
    obtain ⟨j, hj, rfl⟩ := Vector.mem_iff_getElem.1 hx
    simpa using h ⟨j, hj⟩

/-! ## Renders and buffers -/

/-- The start of a render changes the renderer alone. -/
theorem startRender_only (s : State) : startRender s = { s with renderer := (startRender s).renderer } := by
  unfold startRender
  split <;> rfl

theorem pressHold_startRender (s : State) : (startRender s).press = s.press := by rw [startRender_only]

/-- A render starts only where none is in progress. -/
theorem startRender_of_current {s : State} {g : Render} (h : s.renderer.current = some g) : startRender s = s := by
  have hd : dueRender s = none := by
    unfold dueRender
    rw [h]
    split
    · rename_i he _
      cases he
    · rfl
  unfold startRender
  rw [hd]

theorem startRender_of_idle {s : State} (h : s.scheduler.impression = none) : startRender s = s := by
  have hd : dueRender s = none := by
    unfold dueRender
    rw [h]
  unfold startRender
  rw [hd]

/-- The buffer of a render that is due is FREE. -/
theorem free_of_dueRender {s : State} {g : Render} (h : dueRender s = some g) : s.renderer.buffers[g.buffer] = .free := by
  unfold dueRender at h
  split at h
  · rename_i c buf _ _ hb
    split at h
    · dsimp only at h
      split at h
      · cases h
        exact of_decide_eq_true (findFinIdx?_eq_some_iff.1 hb).1
      · cases h
    · cases h
  · cases h

/-- The start of a render leaves every COMPLETE buffer and makes none. -/
theorem complete_startRender (s : State) (j : Fin 4) (k : Nat) (ls : List (List Pixel)) :
    (startRender s).renderer.buffers[j] = .complete k ls ↔ s.renderer.buffers[j] = .complete k ls := by
  unfold startRender
  split
  · rename_i g hg
    have hfree := free_of_dueRender hg
    show (s.renderer.buffers.set g.buffer (.rendering g.band))[j.val] = _ ↔ _
    rw [Vector.getElem_set]
    split
    · rename_i hj
      have hj : g.buffer = j := Fin.ext hj
      subst hj
      rw [hfree]
      exact iff_of_false nofun nofun
    · exact Iff.rfl
  · exact Iff.rfl

theorem notComplete_startRender {s : State} {k : Nat} : NotComplete (startRender s) k ↔ NotComplete s k := by
  unfold NotComplete
  simp only [ne_eq, complete_startRender]

theorem holdsBand_startRender {s : State} {k : Nat} {i : Fin 4} {ls : List (List Pixel)} :
    HoldsBand (startRender s) k i ls ↔ HoldsBand s k i ls := by
  unfold HoldsBand
  simp only [complete_startRender]

/-- A buffer is the COMPLETE one of a band. -/
def isComplete (k : Nat) (b : Buffer) : Bool :=
  match b with
  | .complete band _ => decide (band = k)
  | .free | .rendering _ => false

theorem isComplete_iff (k : Nat) (b : Buffer) : isComplete k b = true ↔ ∃ ls, b = .complete k ls := by
  cases b with
  | free => exact iff_of_false nofun (by rintro ⟨_, h⟩; cases h)
  | rendering n => exact iff_of_false nofun (by rintro ⟨_, h⟩; cases h)
  | complete n ls =>
    refine decide_eq_true_iff.trans ⟨?_, ?_⟩
    · rintro rfl
      exact ⟨ls, rfl⟩
    · rintro ⟨_, h⟩
      cases h
      rfl

theorem completeBuffer_eq (s : State) (k : Nat) : completeBuffer s k = s.renderer.buffers.findFinIdx? (isComplete k) := by
  unfold completeBuffer
  congr 1

theorem completeBuffer_holds {s : State} {k : Nat} {i : Fin 4} {ls : List (List Pixel)} (h : HoldsBand s k i ls) :
    completeBuffer s k = some i := by
  rw [completeBuffer_eq, findFinIdx?_eq_some_iff]
  refine ⟨(isComplete_iff _ _).2 ⟨ls, h.1⟩, fun j hj => ?_⟩
  rw [Bool.eq_false_iff]
  intro hc
  obtain ⟨ls', hc⟩ := (isComplete_iff _ _).1 hc
  rw [h.2 j ls' hc] at hj
  exact absurd hj (lt_irrefl _)

theorem completeBuffer_none {s : State} {k : Nat} : completeBuffer s k = none ↔ NotComplete s k := by
  rw [completeBuffer_eq, findFinIdx?_eq_none_iff]
  unfold NotComplete
  refine forall_congr' fun j => ?_
  rw [← Bool.not_eq_true, isComplete_iff]
  exact not_exists

/-! ## A page line -/

/-- The line of a page is due: the Press Port finds it. -/
theorem pageLine_of_due {s : State} {c : Impression} {p : Plan} {y : Nat} (h : LineDue s c p y) :
    pageLine s = some (c, p, y) := by
  unfold pageLine
  rw [h.impression]
  dsimp only
  rw [h.plan]
  dsimp only
  rw [h.line, if_pos h.within]

/-- Outside the impression there is no page line. -/
theorem pageLine_of_outside {s : State} {c : Impression} {p : Plan} (hc : s.scheduler.impression = some c)
    (hp : planOf s c.plan = some p) (hy : p.height ≤ (s.press.lineCount - c.start).toNat) : pageLine s = none := by
  unfold pageLine
  rw [hc]
  dsimp only
  rw [hp]
  exact if_neg (by omega)

theorem lineDue_startRender {s : State} {c : Impression} {p : Plan} {y : Nat} (h : LineDue s c p y) :
    LineDue (startRender s) c p y := by
  rw [startRender_only]
  exact ⟨h.impression, h.plan, h.line, h.within⟩

/-- A page line ends its band at the band's last line or the page's (R127). -/
theorem bandEnd_iff {height hb y : Nat} (h : 0 < hb) (hy : y < height) :
    y + 1 = bandEnd height hb (y / hb) ↔ y % hb + 1 = hb ∨ y + 1 = height := by
  have hd := Nat.div_add_mod y hb
  have hm := Nat.mod_lt y h
  have hk : (y / hb + 1) * hb = hb * (y / hb) + hb := by rw [Nat.succ_mul, Nat.mul_comm]
  unfold bandEnd
  rw [hk]
  omega

/-- The state once a page line is on the bus and its band, at its last line, has ended. -/
def emittedState (c : Impression) (p : Plan) (mode : BandMode) (y : Nat) (s : State) : State :=
  let k := y / c.snapshot.bandHeight
  let s1 := emitLine (lineFor s c p mode k y) { s with press.mode := some mode }
  if y + 1 = bandEnd p.height c.snapshot.bandHeight k then endBand k s1 else s1

theorem emitPageLine_eq (c : Impression) (p : Plan) (m : BandMode) (y : Nat) (s : State) : emitPageLine c p m y s =
    if y + 1 = p.height then endImpression (emittedState c p m y s) else offerLine (emittedState c p m y s) := rfl

theorem endBand_only (k : Nat) (s : State) : endBand k s =
    { s with press.mode := none, renderer.buffers := (endBand k s).renderer.buffers } := by
  unfold endBand
  dsimp only
  split <;> rfl

theorem emittedState_only (c : Impression) (p : Plan) (m : BandMode) (y : Nat) (s : State) : emittedState c p m y s =
    { s with
      press := { s.press with
        pixelBus := lineFor s c p m (y / c.snapshot.bandHeight) y
        lineCount := s.press.lineCount + 1
        mode := if y + 1 = bandEnd p.height c.snapshot.bandHeight (y / c.snapshot.bandHeight) then none else some m }
      renderer.buffers := (emittedState c p m y s).renderer.buffers } := by
  unfold emittedState
  dsimp only
  split
  · rw [endBand_only]
    rfl
  · rfl

/-- Without a COMPLETE buffer of its band a page line leaves the buffers. -/
theorem buffers_emittedState {s : State} {c : Impression} {y : Nat} (h : NotComplete s (y / c.snapshot.bandHeight)) (p : Plan)
    (m : BandMode) : (emittedState c p m y s).renderer.buffers = s.renderer.buffers := by
  unfold emittedState endBand
  dsimp only
  split
  · have hn : completeBuffer { emitLine (lineFor s c p m (y / c.snapshot.bandHeight) y)
        { s with press.mode := some m } with press.mode := none } (y / c.snapshot.bandHeight) = none :=
      completeBuffer_none.2 h
    rw [hn]
    rfl
  · rfl

/-- The last line of a band frees its buffer (R135). -/
theorem buffer_emittedState {s : State} {c : Impression} {y : Nat} {i : Fin 4} {ls : List (List Pixel)}
    (h : HoldsBand s (y / c.snapshot.bandHeight) i ls) (p : Plan) (m : BandMode) :
    (emittedState c p m y s).renderer.buffers[i] =
      if y + 1 = bandEnd p.height c.snapshot.bandHeight (y / c.snapshot.bandHeight) then .free
      else .complete (y / c.snapshot.bandHeight) ls := by
  unfold emittedState endBand
  dsimp only
  split
  · have hn : completeBuffer { emitLine (lineFor s c p m (y / c.snapshot.bandHeight) y)
        { s with press.mode := some m } with press.mode := none } (y / c.snapshot.bandHeight) = some i :=
      completeBuffer_holds h
    rw [hn]
    exact Vector.getElem_set_self _
  · exact h.1

/-- A buffer that is FREE stays so. -/
theorem free_emittedState {s : State} {j : Fin 4} (h : s.renderer.buffers[j] = .free) (c : Impression) (p : Plan)
    (m : BandMode) (y : Nat) : (emittedState c p m y s).renderer.buffers[j] = .free := by
  unfold emittedState endBand
  dsimp only
  split
  · split
    · show (s.renderer.buffers.set _ Buffer.free)[j.val] = _
      rw [Vector.getElem_set]
      split
      · rfl
      · exact h
    · exact h
  · exact h

theorem bounded_emitPageLine (c : Impression) (p : Plan) (m : BandMode) (y : Nat) (s : State) :
    Bounded (emittedState c p m y s) (emitPageLine c p m y s) := by
  rw [emitPageLine_eq]
  split
  · exact bounded_endImpression _
  · exact (offered_offerLine _).bounded

theorem offered_emitPageLine {p : Plan} {y : Nat} (h : y + 1 ≠ p.height) (c : Impression) (m : BandMode) (s : State) :
    Offered (emittedState c p m y s) (emitPageLine c p m y s) := by
  rw [emitPageLine_eq, if_neg h]
  exact offered_offerLine _

/-- The Press Port after a page line. -/
theorem press_emitPageLine {c : Impression} {p : Plan} {y : Nat} (hb : 0 < c.snapshot.bandHeight) (hy : y < p.height)
    (m : BandMode) (s : State) : (emitPageLine c p m y s).press =
      { s.press with
        pixelBus := lineFor s c p m (y / c.snapshot.bandHeight) y
        lineCount := s.press.lineCount + 1
        mode := if y % c.snapshot.bandHeight + 1 = c.snapshot.bandHeight ∨ y + 1 = p.height then none else some m
        blankWidth := (emitPageLine c p m y s).press.blankWidth } := by
  have hbd := bounded_emitPageLine c p m y s
  have hmode : (emittedState c p m y s).press.mode =
      if y % c.snapshot.bandHeight + 1 = c.snapshot.bandHeight ∨ y + 1 = p.height then none else some m := by
    rw [emittedState_only]
    exact if_congr (bandEnd_iff hb hy) rfl rfl
  have hm : (emitPageLine c p m y s).press.mode = (emittedState c p m y s).press.mode := by
    by_cases hlast : y + 1 = p.height
    · rw [if_pos (.inr hlast)] at hmode
      rcases hbd.mode with h | h
      · exact h
      · rw [h, hmode]
    · rw [(offered_emitPageLine hlast c m s).only]
  rw [hmode] at hm
  conv_lhs => rw [hbd.only]
  rw [hm, emittedState_only]

/-- What any page line leaves: the bytes of tile memory, the trains, the control state and the time. -/
theorem stands_emitPageLine (c : Impression) (p : Plan) (m : BandMode) (y : Nat) (s : State) :
    (emitPageLine c p m y s).store.bytes = s.store.bytes
    ∧ (emitPageLine c p m y s).intake.trains = s.intake.trains ∧ (emitPageLine c p m y s).control = s.control
    ∧ (emitPageLine c p m y s).timeMark = s.timeMark := by
  have hbd := bounded_emitPageLine c p m y s
  refine ⟨?_, ?_, ?_, ?_⟩ <;> rw [hbd.only, emittedState_only]

theorem lineFor_fill (s : State) (c : Impression) (p : Plan) (k y : Nat) :
    lineFor s c p .fill k y = List.replicate p.width p.background := by
  unfold lineFor
  split <;> first | rfl | contradiction

theorem lineFor_buffer {s : State} {c : Impression} {y : Nat} {i : Fin 4} {ls : List (List Pixel)}
    (h : HoldsBand s (y / c.snapshot.bandHeight) i ls) (p : Plan) :
    lineFor s c p .buffer (y / c.snapshot.bandHeight) y = ls.getD (y % c.snapshot.bandHeight) [] := by
  unfold lineFor
  rw [completeBuffer_holds h]
  dsimp only
  rw [h.1]
  show ls.getD _ [] = _
  congr 1
  have := Nat.div_add_mod y c.snapshot.bandHeight
  rw [Nat.mul_comm] at this
  omega

/-! ## The answer to a line sync -/

theorem takeLineSync_clear {s : State} (h : s.press.hold = .clear) : takeLineSync s = clearSync (startRender s) := by
  unfold takeLineSync
  dsimp only
  rw [pressHold_startRender, h]

theorem takeLineSync_holding {s : State} {k n : Nat} (h : s.press.hold = .holding k n) :
    takeLineSync s = startRender s := by
  unfold takeLineSync
  dsimp only
  rw [pressHold_startRender, h]

theorem takeLineSync_awaiting {s : State} {k : Nat} {m : BandMode} (h : s.press.hold = .awaiting k m) :
    takeLineSync s = reissuedSync m (startRender s) := by
  unfold takeLineSync
  dsimp only
  rw [pressHold_startRender, h]

section
variable {s : State} {c : Impression} {p : Plan} {y : Nat} (hd : LineDue s c p y)
include hd

theorem clearSync_within {m : BandMode} (hy : y % c.snapshot.bandHeight ≠ 0) (hm : s.press.mode = some m) :
    clearSync s = emitPageLine c p m y s := by
  unfold clearSync
  rw [pageLine_of_due hd]
  dsimp only
  rw [if_neg hy, hm]

theorem clearSync_complete (hy : y % c.snapshot.bandHeight = 0) (hc : ¬NotComplete s (y / c.snapshot.bandHeight)) :
    clearSync s = emitPageLine c p .buffer y s := by
  unfold clearSync firstLine
  rw [pageLine_of_due hd]
  dsimp only
  rw [if_pos hy, if_pos]
  rw [← Option.ne_none_iff_isSome, ne_eq, completeBuffer_none]
  exact hc

theorem clearSync_filled (hy : y % c.snapshot.bandHeight = 0) (hc : NotComplete s (y / c.snapshot.bandHeight))
    (hl : s.tables.settings.holdLimit = 0) :
    clearSync s = emitPageLine c p .fill y (fillBand (y / c.snapshot.bandHeight) s) := by
  unfold clearSync firstLine
  rw [pageLine_of_due hd]
  dsimp only
  rw [if_pos hy, completeBuffer_none.2 hc, if_neg (by nofun), if_pos hl]

theorem clearSync_held (hy : y % c.snapshot.bandHeight = 0) (hc : NotComplete s (y / c.snapshot.bandHeight))
    (hl : 0 < s.tables.settings.holdLimit) :
    clearSync s = { s with press.hold := .holding (y / c.snapshot.bandHeight) 0 } := by
  unfold clearSync firstLine
  rw [pageLine_of_due hd]
  dsimp only
  rw [if_pos hy, completeBuffer_none.2 hc, if_neg (by nofun), if_neg (by omega)]

theorem reissuedSync_due (m : BandMode) :
    reissuedSync m s = emitPageLine c p m y { s with press.hold := .clear } := by
  have hd' : LineDue { s with press.hold := .clear } c p y := ⟨hd.impression, hd.plan, hd.line, hd.within⟩
  unfold reissuedSync
  dsimp only
  rw [pageLine_of_due hd']

end

/-! ## Filling a band -/

/-- The abandonment of a render changes the renderer alone. -/
theorem abandonRender_only (k : Nat) (s : State) :
    abandonRender k s = { s with renderer := (abandonRender k s).renderer } := by
  unfold abandonRender
  dsimp only
  split
  · split <;> rfl
  · rfl

/-- The render of a band, where it is in progress, stops, and its buffer is FREE (R132). -/
theorem abandonRender_current {s : State} {g : Render} {k : Nat} (hg : s.renderer.current = some g) (hk : g.band = k) :
    (abandonRender k s).renderer.current = none ∧ (abandonRender k s).renderer.buffers[g.buffer] = .free := by
  unfold abandonRender
  rw [hg]
  dsimp only
  rw [if_pos hk]
  exact ⟨rfl, Vector.getElem_set_self _⟩

theorem nextBand_abandonRender (k : Nat) (s : State) : k < (abandonRender k s).renderer.nextBand :=
  lt_of_lt_of_le (Nat.lt_succ_self k) (Nat.le_max_right _ _)

/-- A band's fill changes the renderer, the context's filled bands count, the latch and a notice (R138, R141). -/
theorem fillBand_only (k : Nat) (s : State) : fillBand k s =
    { s with
      renderer := (abandonRender k s).renderer
      scheduler.impression := s.scheduler.impression.map fun c => { c with filled := c.filled + 1 }
      notices := (fillBand k s).notices
      ports := (fillBand k s).ports } := by
  unfold fillBand
  rw [latchKind_only]
  unfold modImpression
  rw [abandonRender_only]

theorem lineFor_fillBand (s u : State) (c : Impression) (p : Plan) (k y : Nat) :
    lineFor s c p .fill k y = lineFor u c p .fill k y := by rw [lineFor_fill, lineFor_fill]

/-! ## The obligations -/

theorem offerLine_of_idle {s : State} (h : s.scheduler.impression = none) : offerLine s = s := by
  have hn : nextFreezeLine s = none := by
    unfold nextFreezeLine
    rw [h]
  unfold offerLine overFirstSeats
  rw [hn]
  dsimp only
  rw [if_neg (by nofun), h]

/-- Settles O13: the port finds no page line, and the offer of the new line count leaves what `Offered` says. -/
theorem lineOutsideAnImpressionIsBlank : Obligations.LineOutsideAnImpressionIsBlank := by
  refine ⟨fun s hh hi => ?_, fun s c p hh hi hp hy => ?_⟩
  · show Host.Outcome.next (takeLineSync s) = _
    have hn : pageLine s = none := by
      unfold pageLine
      rw [hi]
    rw [takeLineSync_clear hh, startRender_of_idle hi]
    unfold clearSync emitBlank
    rw [hn]
    dsimp only
    rw [offerLine_of_idle (s := emitLine _ s) hi]
    rfl
  · refine ⟨_, rfl, ?_⟩
    have hn : pageLine (startRender s) = none := by
      rw [startRender_only]
      exact pageLine_of_outside hi hp hy
    have he : takeLineSync s = offerLine (emitLine (plainLine s.press.blankWidth blankPixel) (startRender s)) := by
      rw [takeLineSync_clear hh]
      unfold clearSync emitBlank
      rw [hn, pressHold_startRender]
    have ho := offered_offerLine (emitLine (plainLine s.press.blankWidth blankPixel) (startRender s))
    rw [← he] at ho
    have hs := startRender_only s
    refine ⟨?_, ?_, ?_, ?_, ?_, ?_, ?_, ?_, ?_, fun l => by rw [ho.ports l, hs]; exact ⟨rfl, rfl⟩⟩ <;>
      (rw [ho.only, hs]; rfl)

/-- Settles O14: the line comes from the buffer, and what the rest of the line sync leaves is `Bounded`, or `Offered` within
the impression. -/
theorem completeBandIsEmittedFromItsBuffer : Obligations.CompleteBandIsEmittedFromItsBuffer := by
  intro s c p y i ls hd hh hb hbuf hmode
  have hd' := lineDue_startRender hd
  have hbuf' := holdsBand_startRender.2 hbuf
  have he : takeLineSync s = emitPageLine c p .buffer y (startRender s) := by
    rw [takeLineSync_clear hh]
    by_cases hy : y % c.snapshot.bandHeight = 0
    · exact clearSync_complete hd' hy fun hn => hn i ls hbuf'.1
    · exact clearSync_within hd' hy (by
        rw [pressHold_startRender]
        exact hmode.resolve_left hy)
  have hpress := press_emitPageLine hb hd.within .buffer (startRender s)
  have hst := stands_emitPageLine c p .buffer y (startRender s)
  have hbd := bounded_emitPageLine c p .buffer y (startRender s)
  have hi := buffer_emittedState hbuf' p .buffer
  rw [← he] at hpress hst hbd
  rw [if_congr (bandEnd_iff hb hd.within) rfl rfl] at hi
  have hbi : (takeLineSync s).renderer.buffers = (emittedState c p .buffer y (startRender s)).renderer.buffers := by
    rw [hbd.only]
  rw [startRender_only] at hst
  refine ⟨takeLineSync s, rfl, ?_, ?_, ?_, ?_, hst⟩
  · rw [hpress]
    exact lineFor_buffer hbuf' p
  · rw [hpress, pressHold_startRender]
  · rw [hpress, pressHold_startRender]
    exact hh
  · rw [hpress, hbi, hi]
    by_cases hlast : y % c.snapshot.bandHeight + 1 = c.snapshot.bandHeight ∨ y + 1 = p.height
    · simp only [if_pos hlast]
      exact ⟨trivial, trivial⟩
    · simp only [if_neg hlast]
      have ho := offered_emitPageLine (fun h => hlast (.inr h)) c .buffer (startRender s)
      rw [← he] at ho
      refine ⟨trivial, trivial, ?_, ?_⟩ <;> rw [ho.only, emittedState_only, startRender_only]

end Sys2Proof.Machine
end

section
/-!
Underrun: a band emitted as fill, a hold, and the line sync reissued after it (sections 8.3 and 8.4).
-/

namespace Sys2Proof.Machine

/-- A page line in background colour: the port, and what stands (R135, R138). -/
theorem fillLine_stands {s u : State} {c : Impression} {p : Plan} {y : Nat} (hb : 0 < c.snapshot.bandHeight)
    (hy : y < p.height) (hu : u = { s with
      renderer := u.renderer, scheduler := u.scheduler, notices := u.notices, ports := u.ports }) :
    let t := emitPageLine c p .fill y u
    t.press =
        { s.press with
          pixelBus := List.replicate p.width p.background
          lineCount := s.press.lineCount + 1
          mode := if y % c.snapshot.bandHeight + 1 = c.snapshot.bandHeight ∨ y + 1 = p.height then none else some .fill
          blankWidth := t.press.blankWidth }
      ∧ (y + 1 < p.height → t.press.blankWidth = s.press.blankWidth ∧ t.tables = s.tables ∧ t.store = s.store)
      ∧ t.store.bytes = s.store.bytes ∧ t.intake.trains = s.intake.trains ∧ t.control = s.control
      ∧ t.timeMark = s.timeMark := by
  have hpress : u.press = s.press := by rw [hu]
  refine ⟨?_, fun hlt => ?_, ?_⟩
  · have h := press_emitPageLine hb hy .fill u
    rw [lineFor_fill, hpress] at h
    exact h
  · have ho := offered_emitPageLine (c := c) (p := p) (y := y) (by omega) .fill u
    refine ⟨?_, ?_, ?_⟩ <;> rw [ho.only, emittedState_only, hu]
  · have h := stands_emitPageLine c p .fill y u
    rw [show u.store = s.store by rw [hu], show u.intake = s.intake by rw [hu], show u.control = s.control by rw [hu],
      show u.timeMark = s.timeMark by rw [hu]] at h
    exact h

/-- The renderer after a page line: the buffers as the line leaves them. -/
theorem renderer_emitPageLine (c : Impression) (p : Plan) (m : BandMode) (y : Nat) (s : State) :
    (emitPageLine c p m y s).renderer.buffers = (emittedState c p m y s).renderer.buffers
    ∧ (emitPageLine c p m y s).renderer.current = s.renderer.current
    ∧ (y + 1 ≠ p.height → (emitPageLine c p m y s).renderer.nextBand = s.renderer.nextBand) := by
  have hbd := bounded_emitPageLine c p m y s
  refine ⟨?_, ?_, fun h => ?_⟩
  · rw [hbd.only]
  · rw [hbd.only, emittedState_only]
  · rw [(offered_emitPageLine h c m s).only, emittedState_only]

/-- The first line of a band emitted as fill (R138). -/
theorem underrun_filled {s : State} {c : Impression} {p : Plan} {y : Nat} (hd : LineDue s c p y) :
    let k := y / c.snapshot.bandHeight
    let t := emitPageLine c p .fill y (fillBand k (startRender s))
    holdsKind t.notices.latched .underrun = true
    ∧ (∀ g : Render, s.renderer.current = some g → g.band = k →
        t.renderer.current = none ∧ t.renderer.buffers[g.buffer] = .free)
    ∧ (y + 1 < p.height →
        (∃ d : Impression, t.scheduler.impression = some d ∧ d.filled = c.filled + 1 ∧ d.heldBands = c.heldBands)
        ∧ k < t.renderer.nextBand) := by
  intro k t
  have hbd := bounded_emitPageLine c p .fill y (fillBand k (startRender s))
  have hren := renderer_emitPageLine c p .fill y (fillBand k (startRender s))
  have hfill := fillBand_only k (startRender s)
  have hrenderer : (fillBand k (startRender s)).renderer = (abandonRender k (startRender s)).renderer := by rw [hfill]
  refine ⟨?_, fun g hg hk => ?_, fun hlt => ⟨?_, ?_⟩⟩
  · refine hbd.latched _ ?_
    rw [emittedState_only]
    exact latchKind_holds _ _
  · have hg' : (startRender s).renderer.current = some g := by rw [startRender_of_current hg]; exact hg
    obtain ⟨h1, h2⟩ := abandonRender_current hg' hk
    rw [← hrenderer] at h1 h2
    refine ⟨hren.2.1.trans h1, ?_⟩
    show (emitPageLine c p .fill y (fillBand k (startRender s))).renderer.buffers[g.buffer] = .free
    rw [hren.1]
    exact free_emittedState h2 c p .fill y
  · have ho := offered_emitPageLine (c := c) (p := p) (y := y) (by omega) .fill (fillBand k (startRender s))
    have hc : (emittedState c p .fill y (fillBand k (startRender s))).scheduler.impression =
        some { c with filled := c.filled + 1 } := by
      rw [emittedState_only, hfill, startRender_only]
      dsimp only
      rw [hd.impression]
      rfl
    obtain ⟨n, hn⟩ := ho.impression hc
    exact ⟨_, hn, rfl, rfl⟩
  · show k < (emitPageLine c p .fill y (fillBand k (startRender s))).renderer.nextBand
    rw [hren.2.2 (by omega), hrenderer]
    exact nextBand_abandonRender k _

/-- Settles O15: the first line of the band by the underrun test, a later one by the band's mode. -/
theorem underrunIsFilled : Obligations.UnderrunIsFilled := by
  intro s c p y hd hh hb k filled
  have hd' := lineDue_startRender hd
  refine ⟨fun hy hn hl => ?_, fun hy hm => ?_⟩
  · have he : takeLineSync s = emitPageLine c p .fill y (fillBand k (startRender s)) := by
      rw [takeLineSync_clear hh]
      exact clearSync_filled hd' hy (notComplete_startRender.2 hn) (by rw [startRender_only]; exact hl)
    refine ⟨takeLineSync s, rfl, ?_⟩
    rw [he]
    exact ⟨fillLine_stands hb hd.within (by rw [fillBand_only, startRender_only]), underrun_filled hd⟩
  · have he : takeLineSync s = emitPageLine c p .fill y (startRender s) := by
      rw [takeLineSync_clear hh]
      exact clearSync_within hd' hy (by rw [pressHold_startRender]; exact hm)
    refine ⟨startRender s, takeLineSync s, rfl, rfl, ?_⟩
    rw [he]
    refine ⟨fillLine_stands hb hd.within (by rw [startRender_only]), fun hlt => ?_⟩
    have ho := offered_emitPageLine (c := c) (p := p) (y := y) (by omega) .fill (startRender s)
    refine ⟨?_, ?_, fun hn => ?_⟩
    · have hc : (emittedState c p .fill y (startRender s)).scheduler.impression = some c := by
        rw [emittedState_only, startRender_only]
        exact hd.impression
      obtain ⟨n, hn⟩ := ho.impression hc
      exact ⟨_, hn, rfl, rfl⟩
    · rw [ho.latched .underrun nofun, emittedState_only, startRender_only]
    · rw [ho.only]
      show (emittedState c p .fill y (startRender s)).renderer = _
      rw [emittedState_only, buffers_emittedState (notComplete_startRender.2 hn)]

/-- Settles O16: a line sync that underruns under HOLD policy, and one that finds the port HOLDING. -/
theorem underrunIsHeld : Obligations.UnderrunIsHeld := by
  refine ⟨fun s c p y hd hh hy hn hl => ?_, fun s k n h => congrArg Host.Outcome.next (takeLineSync_holding h)⟩
  have he : takeLineSync s = { startRender s with
      press := { (startRender s).press with hold := .holding (y / c.snapshot.bandHeight) 0 } } := by
    rw [takeLineSync_clear hh]
    exact clearSync_held (lineDue_startRender hd) hy (notComplete_startRender.2 hn)
      (by rw [startRender_only]; exact hl)
  refine ⟨startRender s, takeLineSync s, rfl, rfl, ?_, ?_⟩
  · rw [he, pressHold_startRender]
    conv_lhs => rw [startRender_only]
  · rw [he]
    rfl

/-- Settles O17: the reissued line sync is a page line in the mode of the verdict. -/
theorem reissuedLineIsAnsweredByTheVerdict : Obligations.ReissuedLineIsAnsweredByTheVerdict := by
  intro s c p k m hb hd hh
  have hdiv : k * c.snapshot.bandHeight / c.snapshot.bandHeight = k := Nat.mul_div_cancel k hb
  have hmod : k * c.snapshot.bandHeight % c.snapshot.bandHeight = 0 := Nat.mul_mod_left k _
  have he : takeLineSync s =
      emitPageLine c p m (k * c.snapshot.bandHeight) { startRender s with press.hold := .clear } := by
    rw [takeLineSync_awaiting hh]
    exact reissuedSync_due (lineDue_startRender hd) m
  have hpress := press_emitPageLine hb hd.within m { startRender s with press.hold := .clear }
  have hst := stands_emitPageLine c p m (k * c.snapshot.bandHeight) { startRender s with press.hold := .clear }
  rw [← he] at hpress hst
  rw [hdiv, hmod] at hpress
  refine ⟨takeLineSync s, rfl, fun hm => ?_, fun i ls hm hbuf => ?_, ?_, ?_, fun h1 h2 => ?_, ?_⟩
  · rw [hpress, hm]
    exact lineFor_fill { startRender s with press.hold := .clear } c p k (k * c.snapshot.bandHeight)
  · have hbuf' : HoldsBand { startRender s with press.hold := .clear }
        (k * c.snapshot.bandHeight / c.snapshot.bandHeight) i ls := by
      rw [hdiv]
      exact holdsBand_startRender.2 hbuf
    have hl := lineFor_buffer (y := k * c.snapshot.bandHeight) hbuf' p
    rw [hdiv, hmod] at hl
    rw [hpress, hm]
    exact hl
  · rw [hpress]
    show (startRender s).press.lineCount + 1 = _
    rw [pressHold_startRender]
  · rw [hpress]
  · rw [hpress]
    exact if_neg (by omega)
  · rw [startRender_only] at hst
    exact hst

end Sys2Proof.Machine
end

section
/-!
The end line of an impression: what is released, the fate of the order, and the next beginning (sections 4.3 to 4.6).
-/

namespace Sys2Proof.Machine

/-! ## The end line -/

/-- The state `u` is `s` once a page line, the end line for one, has been emitted: `d` is the context at that line. -/
structure EndLine (s : State) (d : Impression) (u : State) : Prop where
  scheduler : u.scheduler = { s.scheduler with impression := some d }
  deficient : holdsKind u.notices.latched .pageDeficient = holdsKind s.notices.latched .pageDeficient
  lineCount : u.press.lineCount = s.press.lineCount + 1
  hold : u.press.hold = .clear
  rest : u = { s with
    scheduler := u.scheduler, press := u.press, renderer := u.renderer, ports := u.ports, notices := u.notices }

/-- A page line in any mode, from a state that differs in what the underrun or the verdict changes. -/
theorem emittedState_endLine {s v : State} {d : Impression} (c : Impression) (p : Plan) (m : BandMode) (y : Nat)
    (hs : v.scheduler = { s.scheduler with impression := some d })
    (hn : holdsKind v.notices.latched .pageDeficient = holdsKind s.notices.latched .pageDeficient)
    (hp : v.press = { s.press with hold := .clear })
    (hv : v = { s with
      scheduler := v.scheduler, press := v.press, renderer := v.renderer, ports := v.ports, notices := v.notices }) :
    EndLine s d (emittedState c p m y v) := by
  refine ⟨?_, ?_, ?_, ?_, ?_⟩
  · rw [emittedState_only]
    exact hs
  · rw [emittedState_only]
    exact hn
  · rw [emittedState_only]
    show v.press.lineCount + 1 = _
    rw [hp]
  · rw [emittedState_only]
    show v.press.hold = _
    rw [hp]
  · have he : emittedState c p m y v = { v with
        press := (emittedState c p m y v).press, renderer := (emittedState c p m y v).renderer } := by
      rw [emittedState_only]
    generalize emittedState c p m y v = u at he ⊢
    rw [he]
    conv_lhs => rw [hv]

/-- Whichever way the page line is emitted, it is emitted on a state that only the line has changed (R135, R138). -/
theorem takeLineSync_emits {s : State} {c d : Impression} {p : Plan} {y : Nat} (hd : LineDue s c p y)
    (he : Emits s c d y) :
    ∃ m v, takeLineSync s = emitPageLine c p m y v ∧ EndLine s d (emittedState c p m y v) := by
  have hd' := lineDue_startRender hd
  have hctx : (startRender s).scheduler = { s.scheduler with impression := some c } := by
    rw [startRender_only, ← hd.impression]
  have hstands : startRender s = { s with
      scheduler := (startRender s).scheduler, press := (startRender s).press, renderer := (startRender s).renderer
      ports := (startRender s).ports, notices := (startRender s).notices } := by
    conv_lhs => rw [startRender_only]
    rw [startRender_only]
  have hlatched : holdsKind (startRender s).notices.latched .pageDeficient = holdsKind s.notices.latched .pageDeficient := by
    rw [startRender_only]
  have hpress : s.press.hold = .clear → (startRender s).press = { s.press with hold := .clear } := fun h => by
    rw [startRender_only, ← h]
  rcases he with ⟨hh, hfirst, hm, rfl⟩ | ⟨hh, hfirst, hc, rfl⟩ | ⟨hh, hfirst, hc, hl, rfl⟩ | ⟨⟨k, m, hh⟩, rfl⟩
  · obtain ⟨m, hm⟩ := Option.ne_none_iff_exists'.1 hm
    rw [takeLineSync_clear hh, clearSync_within hd' hfirst (by rw [startRender_only]; exact hm)]
    exact ⟨m, _, rfl, emittedState_endLine _ _ _ _ hctx hlatched (hpress hh) hstands⟩
  · rw [takeLineSync_clear hh, clearSync_complete hd' hfirst fun h => hc (notComplete_startRender.1 h)]
    exact ⟨.buffer, _, rfl, emittedState_endLine _ _ _ _ hctx hlatched (hpress hh) hstands⟩
  · rw [takeLineSync_clear hh, clearSync_filled hd' hfirst (notComplete_startRender.2 (not_not.1 hc))
      (by rw [startRender_only]; exact hl)]
    refine ⟨.fill, _, rfl, emittedState_endLine _ _ _ _ ?_ ?_ ?_ ?_⟩
    · rw [fillBand_only, hctx]
      rfl
    · unfold fillBand
      rw [latchKind_other (j := .pageDeficient) (k := .underrun) nofun]
      unfold modImpression
      rw [abandonRender_only, hlatched]
    · rw [fillBand_only]
      exact hpress hh
    · rw [fillBand_only, startRender_only]
  · rw [takeLineSync_awaiting hh, reissuedSync_due hd']
    refine ⟨m, _, rfl, emittedState_endLine _ _ _ _ hctx hlatched ?_ ?_⟩
    · rw [startRender_only]
    · rw [startRender_only]

theorem takeLineSync_ends {s : State} {c d : Impression} {p : Plan} {y : Nat} (hd : LineDue s c p y)
    (hy : y + 1 = p.height) (he : Emits s c d y) :
    ∃ u, takeLineSync s = endImpression u ∧ EndLine s d u := by
  obtain ⟨m, v, hv, hend⟩ := takeLineSync_emits hd he
  exact ⟨_, by rw [hv, emitPageLine_eq, if_pos hy], hend⟩

theorem takeLineSync_offers {s : State} {c d : Impression} {p : Plan} {y : Nat} (hd : LineDue s c p y)
    (hy : y + 1 ≠ p.height) (he : Emits s c d y) :
    ∃ u, takeLineSync s = offerLine u ∧ EndLine s d u := by
  obtain ⟨m, v, hv, hend⟩ := takeLineSync_emits hd he
  exact ⟨_, by rw [hv, emitPageLine_eq, if_neg hy], hend⟩

/-! ## The release -/

section
variable {s : State} {d : Impression} {o : Order} {rest : List Order}

theorem scheduler_releasedState (hq : s.scheduler.queue = o :: rest) : (releasedState d o s).scheduler =
    { queue := { o with done := o.done + 1 } :: rest, impression := none, prevEnd := d.endLine + 1
      log := s.scheduler.log.set (pageSlot s.scheduler.nextSequence) (some (pageRecord s d o))
      nextSequence := s.scheduler.nextSequence + 1 } := by
  have hw : (writePage (pageRecord s d o) (modHead (fun o => { o with done := o.done + 1 }) s)).scheduler =
      { s.scheduler with
        queue := { o with done := o.done + 1 } :: rest
        log := s.scheduler.log.set (pageSlot s.scheduler.nextSequence) (some (pageRecord s d o))
        nextSequence := s.scheduler.nextSequence + 1 } := by
    rw [modHead_cons hq]
    rfl
  unfold releasedState
  dsimp only
  split
  · rw [latchKind_only, hw]
  · rw [hw]

/-- PAGE_DEFICIENT is latched for an absent seat or a filled band (R75). -/
theorem deficient_releasedState : holdsKind (releasedState d o s).notices.latched .pageDeficient = true ↔
    holdsKind s.notices.latched .pageDeficient = true
      ∨ 0 < (pageRecord s d o).absent + (pageRecord s d o).filled := by
  unfold releasedState
  dsimp only
  split
  · next h => exact iff_of_true (latchKind_holds _ _) (.inr h)
  · next h =>
    have hw : (writePage (pageRecord s d o) (modHead (fun o => { o with done := o.done + 1 }) s)).notices = s.notices := by
      rw [modHead_only]
      rfl
    rw [hw]
    exact ⟨.inl, fun hor => hor.resolve_right h⟩

theorem releasedState_only : releasedState d o s =
    { s with
      scheduler := (releasedState d o s).scheduler
      notices := (releasedState d o s).notices
      ports := (releasedState d o s).ports } := by
  unfold releasedState
  dsimp only
  split
  · rw [latchKind_only, modHead_only]
    rfl
  · rw [modHead_only]
    rfl

end

/-! ## The fate of the order -/

theorem behindRushes_eq (o : Order) (xs : List Order) :
    behindRushes o xs = xs.takeWhile isQueuedRush ++ o :: xs.dropWhile isQueuedRush := by
  induction xs with
  | nil => rfl
  | cons x xs ih =>
    unfold behindRushes
    by_cases hx : isQueuedRush x = true
    · rw [if_pos hx, ih, List.takeWhile_cons_of_pos hx, List.dropWhile_cons_of_pos hx, List.cons_append]
    · rw [if_neg hx, List.takeWhile_cons_of_neg hx, List.dropWhile_cons_of_neg hx, List.nil_append]

theorem takeWhile_ne_nil_iff {o : Order} {xs : List Order} :
    (xs.takeWhile isQueuedRush ≠ [] ∧ o.rush = false)
      ↔ ∃ x ys, xs = x :: ys ∧ (!o.rush) = true ∧ isQueuedRush x = true := by
  cases xs with
  | nil => simp
  | cons x ys =>
    by_cases hx : isQueuedRush x = true
    · simp [hx]
    · simp [hx]

section
variable {s : State} {o : Order} {rest : List Order} (hq : s.scheduler.queue = o :: rest)
include hq

/-- An order that ends leaves the queue, and ORDER_DONE is latched after the low-water test (R76, R79). -/
theorem settleFate_ends (h : o.done = o.copies ∨ o.state = .ending) :
    settleFate s = latchKind .orderDone (lowWaterTest (removedState o s)) := by
  unfold settleFate
  rw [hq]
  dsimp only
  rw [if_pos h, removeOrder_eq]

/-- An ordinary order is suspended behind the rush orders that wait (R77). -/
theorem settleFate_suspends (h : ¬(o.done = o.copies ∨ o.state = .ending)) (hr : o.rush = false)
    (hw : rest.takeWhile isQueuedRush ≠ []) :
    settleFate s = { s with
      scheduler.queue :=
        rest.takeWhile isQueuedRush ++ { o with state := .suspended } :: rest.dropWhile isQueuedRush } := by
  obtain ⟨x, ys, rfl, hx⟩ := takeWhile_ne_nil_iff.1 ⟨hw, hr⟩
  unfold settleFate
  rw [hq]
  dsimp only
  rw [if_neg h, if_pos hx, behindRushes_eq]

theorem settleFate_stays (h : ¬(o.done = o.copies ∨ o.state = .ending))
    (hs : ¬(o.rush = false ∧ rest.takeWhile isQueuedRush ≠ [])) : settleFate s = s := by
  unfold settleFate
  rw [hq]
  dsimp only
  rw [if_neg h]
  cases rest with
  | nil => rfl
  | cons x ys => exact if_neg fun hx => hs (takeWhile_ne_nil_iff.2 ⟨x, ys, rfl, hx⟩).symm

end

/-! ## The next beginning -/

theorem startLine_eq (l e : LineValue) (x : Settings) : startLine l e (snapshotOf x) =
    if x.bandLead < (e + BitVec.ofNat 48 x.pageGap - l).toNat ∧ (e + BitVec.ofNat 48 x.pageGap - l).toNat < 2 ^ 47
    then e + BitVec.ofNat 48 x.pageGap else l + BitVec.ofNat 48 x.bandLead := by
  unfold startLine isAhead linesAhead snapshotOf
  simp only [decide_eq_true_eq]
  exact if_congr and_comm rfl rfl

theorem begunState_begins {s : State} {o : Order} {rest : List Order} {p : Plan}
    (hq : s.scheduler.queue = o :: rest) : Begins o rest p s (begunState o p s) := by
  refine ⟨beginOrder s p (startLine s.press.lineCount s.scheduler.prevEnd (snapshotOf s.tables.settings))
    (snapshotOf s.tables.settings) o, rfl, fun h => if_pos h, fun h hl => ?_, fun h => if_pos h, fun h => ?_, ?_⟩
  · have he : (beginOrder s p (startLine s.press.lineCount s.scheduler.prevEnd (snapshotOf s.tables.settings))
        (snapshotOf s.tables.settings) o).decisions = List.zipWith (switchEntry s) p.seats o.decisions := if_neg (by omega)
    rw [he]
    refine ⟨by rw [List.length_zipWith, hl, Nat.min_self], fun n y e hy hn => ?_⟩
    rw [List.getElem?_zipWith, hy, hn]
    rfl
  · have he : (beginOrder s p (startLine s.press.lineCount s.scheduler.prevEnd (snapshotOf s.tables.settings))
        (snapshotOf s.tables.settings) o).seatLines =
          seatLineTable p (startLine s.press.lineCount s.scheduler.prevEnd (snapshotOf s.tables.settings))
            (snapshotOf s.tables.settings) := if_neg (by rw [h]; nofun)
    rw [he, ← startLine_eq]
    refine ⟨List.length_map _, fun n y r hy hr => ?_⟩
    unfold seatLineTable rowTop
    rw [List.getElem?_map, hy, Option.map_some, hr]
    rfl
  · rw [← startLine_eq]
    unfold begunState
    dsimp only
    rw [modHead_cons hq]
    rfl

/-! ## The obligation -/

/-- Settles O18: the end line is emitted, the impression released, the order settled and the next one begun. -/
theorem lastLineEndsTheImpression : Obligations.LastLineEndsTheImpression := by
  intro s c d p y o rest hd hy hem hq htags absent rushes others ends suspends
  obtain ⟨u, hu, hend⟩ := takeLineSync_ends hd hy hem
  obtain ⟨n, rfl⟩ : ∃ n, d = { c with filled := n } := by
    rcases hem with ⟨_, _, _, rfl⟩ | ⟨_, _, _, rfl⟩ | ⟨_, _, _, _, rfl⟩ | ⟨_, rfl⟩
    · exact ⟨d.filled, rfl⟩
    · exact ⟨d.filled, rfl⟩
    · exact ⟨c.filled + 1, rfl⟩
    · exact ⟨d.filled, rfl⟩
  have huq : u.scheduler.queue = o :: rest := by rw [hend.scheduler, hq]
  have hud : u.scheduler.impression = some { c with filled := n } := by rw [hend.scheduler]
  have hrs := scheduler_releasedState (d := { c with filled := n }) huq
  have hrq : (releasedState { c with filled := n } o u).scheduler.queue = { o with done := o.done + 1 } :: rest := by rw [hrs]
  have hfilter : ({ o with done := o.done + 1 } :: rest).filter (fun x => decide (x.tag ≠ o.tag)) = rest := by
    rw [List.filter_cons_of_neg (by simp)]
    exact List.filter_eq_self.2 fun x hx => decide_eq_true (htags x hx)
  have htables : u.tables = s.tables := by rw [hend.rest]
  have htime : u.timeMark = s.timeMark := by rw [hend.rest]
  have hbounds : Bounded u (settleFate (releasedState { c with filled := n } o u)) :=
    (bounded_releasedState { c with filled := n } o u).trans (bounded_settleFate _)
  have hsettings : (settleFate (releasedState { c with filled := n } o u)).tables.settings = s.tables.settings := by
    rw [hbounds.only, ← htables]
  refine ⟨releasedState { c with filled := n } o u, settleFate (releasedState { c with filled := n } o u), takeLineSync s, rfl, ?_, ?_, ?_, ?_, ?_, fun he => ⟨?_, ?_, ?_⟩,
    fun hs => ?_, fun hne hns => ?_, fun hnil => ?_, fun h hs m hqq hm => ?_, ?_⟩
  · rw [hrs]
    unfold pageRecord
    simp only [hend.scheduler, htime]
    rfl
  · rw [deficient_releasedState, hend.deficient]
    rfl
  · rw [releasedState_only]
    exact hend.lineCount
  · rw [releasedState_only]
    exact hend.hold
  · have hr := releasedState_only (s := u) (d := { c with filled := n }) (o := o)
    generalize releasedState { c with filled := n } o u = r at hr ⊢
    rw [hr]
    conv_lhs => rw [hend.rest]
  · rw [settleFate_ends hrq he, latchKind_only, lowWaterTest_only, removedState_only]
    dsimp only
    rw [hrq, hfilter]
  · rw [settleFate_ends hrq he]
    exact latchKind_holds _ _
  · intro hpl hn
    refine ⟨removedState { o with done := o.done + 1 } (releasedState { c with filled := n } o u), removedState_removed ?_ hn,
      settleFate_ends hrq he⟩
    have hp := hd.plan
    rw [← hpl] at hp
    unfold planOf at hp ⊢
    rw [releasedState_only]
    show u.tables.plans[o.plan] = _
    rw [htables]
    exact hp
  · exact settleFate_suspends hrq hs.1 hs.2.1 hs.2.2
  · exact settleFate_stays hrq hne fun h => hns ⟨hne, h⟩
  · rw [hu, endImpression_eq hud (by unfold headOrder; rw [huq]; rfl), beginImpression_nil hnil]
  · refine ⟨begunState h m (settleFate (releasedState { c with filled := n } o u)), begunState_begins hqq, ?_⟩
    rw [hu, endImpression_eq hud (by unfold headOrder; rw [huq]; rfl), beginImpression_cons hqq hm, hsettings]
    rfl
  · have hb := bounded_endImpression u
    rw [hu]
    refine ⟨?_, ?_, ?_⟩ <;> rw [hb.only, hend.rest]

end Sys2Proof.Machine
end

section
/-!
The voiding of a train with its frame, the loss of a signal, and the receive tests (chapters 2.4 and 9).
-/

namespace Sys2Proof.Machine

/-! ## Voiding: the frame -/

theorem freeIncoming_only (i : RosterIndex) (s : State) : freeIncoming i s =
    { s with
      intake.directory := (freeIncoming i s).intake.directory
      store := { (freeIncoming i s).store with bytes := s.store.bytes, arrival := s.store.arrival } } := by
  unfold freeIncoming
  split <;> rfl

theorem freeIncoming_some {i : RosterIndex} {s : State} {v : Incoming} (hv : (entryOf s i).incoming = some v) :
    (freeIncoming i s).store.freeCount = s.store.freeCount + v.version.blocks.length := by
  unfold freeIncoming
  rw [hv]
  rfl

theorem changeRecord_only (q : BitVec 32) (f : DeliveryRecord → DeliveryRecord) (s : State) :
    changeRecord q f s = { s with intake.log := (changeRecord q f s).intake.log } := by
  unfold changeRecord
  split
  · split <;> rfl
  · rfl

theorem changeRecord_some {q : BitVec 32} {s : State} {r : DeliveryRecord} (f : DeliveryRecord → DeliveryRecord)
    (hr : s.intake.log[logSlot q] = some r) (hq : r.sequence = q) :
    (changeRecord q f s).intake.log[logSlot q] = some (f r) := by
  unfold changeRecord
  rw [hr]
  dsimp only
  rw [if_pos hq]
  exact Vector.getElem_set_self _

/-- The voiding of an open train: freeing, the record, and the latch (R38, R41). -/
theorem voidTrain_some {l : Link} {s : State} {x : Train} (hx : trainOf s l = some x) (o : Option Delivery) :
    voidTrain l o s = latchKind .trainFault (changeRecord x.record
      (match o with
      | some o => fun r => { r with
          closed := true, closeMark := some s.timeMark, rows := incomingRows s x.index, outcome := some o, late := false
          called := false }
      | none => fun r => { r with rows := incomingRows s x.index })
      (setTrain l none (freeIncoming x.index s))) := by
  unfold voidTrain completeRecord
  rw [hx]
  cases o with
  | none => rfl
  | some o =>
    dsimp only
    rw [setTrain_timeMark, freeIncoming_only]

/-- Voiding changes the intake, the free list with its count, the latch and a notice (R38). -/
theorem voidTrain_only (l : Link) (o : Option Delivery) (s : State) : voidTrain l o s =
    { s with
      intake := (voidTrain l o s).intake
      store := { (voidTrain l o s).store with bytes := s.store.bytes, arrival := s.store.arrival }
      ports := (voidTrain l o s).ports
      notices := (voidTrain l o s).notices } := by
  cases hx : trainOf s l with
  | none => rw [voidTrain_of_idle hx]
  | some x =>
    rw [voidTrain_some hx, latchKind_only, changeRecord_only]
    unfold setTrain
    rw [freeIncoming_only]

/-- The train state is IDLE then, and the other link's train stands. -/
theorem trains_voidTrain (l : Link) (o : Option Delivery) (s : State) :
    (voidTrain l o s).intake.trains = s.intake.trains.set l none := by
  cases hx : trainOf s l with
  | none =>
    rw [voidTrain_of_idle hx, ← hx]
    exact (PerLink.set_get _ l).symm
  | some x =>
    rw [voidTrain_some hx, latchKind_only, changeRecord_only]
    unfold setTrain
    rw [freeIncoming_only]

theorem trainOf_voidTrain (l m : Link) (o : Option Delivery) (s : State) :
    trainOf (voidTrain l o s) m = if m = l then none else trainOf s m := by
  unfold trainOf
  rw [trains_voidTrain]
  split
  · next h => rw [h, PerLink.get_set_same]
  · next h => exact PerLink.get_set_ne _ _ h

theorem portOf_voidTrain (l m : Link) (o : Option Delivery) (s : State) :
    portOf (voidTrain l o s) m = { portOf s m with notice := (portOf (voidTrain l o s) m).notice } := by
  cases hx : trainOf s l with
  | none => rw [voidTrain_of_idle hx]
  | some x =>
    rw [voidTrain_some hx, portOf_latchKind]
    unfold portOf
    rw [changeRecord_only, setTrain_ports, freeIncoming_only]

theorem entryOf_voidTrain {l : Link} {s : State} {x : Train} (hx : trainOf s l = some x) (o : Option Delivery)
    (i : RosterIndex) :
    entryOf (voidTrain l o s) i = if i = x.index then { entryOf s i with incoming := none } else entryOf s i := by
  rw [voidTrain_some hx, (latchKind_leaves _ _ _).2, (changeRecord_leaves _ _ _ _).2, entryOf_setTrain,
    (freeIncoming_frame _ _ _).2]
  split
  · next h => rw [h]
  · rfl

theorem freeCount_voidTrain {l : Link} {s : State} {x : Train} {v : Incoming} (hx : trainOf s l = some x)
    (hv : (entryOf s x.index).incoming = some v) (o : Option Delivery) :
    (voidTrain l o s).store.freeCount = s.store.freeCount + v.version.blocks.length := by
  rw [voidTrain_some hx, latchKind_only, changeRecord_only]
  exact freeIncoming_some hv

theorem fault_voidTrain {l : Link} {s : State} {x : Train} (hx : trainOf s l = some x) (o : Option Delivery) :
    holdsKind (voidTrain l o s).notices.latched .trainFault = true := by
  rw [voidTrain_some hx]
  exact latchKind_holds _ _

/-- The record of a train that is lost with its link stays open, with the rows received (R41). -/
theorem log_voidTrain_none {l : Link} {s : State} {x : Train} {v : Incoming} {r : DeliveryRecord}
    (hx : trainOf s l = some x) (hv : (entryOf s x.index).incoming = some v)
    (hr : s.intake.log[logSlot x.record] = some r) (hq : r.sequence = x.record) :
    (voidTrain l none s).intake.log[logSlot x.record] = some { r with rows := v.version.rows } := by
  have hrows : incomingRows s x.index = v.version.rows := by
    unfold incomingRows
    rw [hv]
  rw [voidTrain_some hx, latchKind_only, hrows]
  refine changeRecord_some _ ?_ hq
  rw [setTrain_intake_log, freeIncoming_only]
  exact hr

/-- A latched kind stays latched when a train is voided. -/
theorem latched_voidTrain (l : Link) (o : Option Delivery) {s : State} {k : NoticeKind}
    (h : holdsKind s.notices.latched k = true) : holdsKind (voidTrain l o s).notices.latched k = true := by
  cases hx : trainOf s l with
  | none => rwa [voidTrain_of_idle hx]
  | some x =>
    rw [voidTrain_some hx]
    refine latchKind_keeps _ ?_
    rw [changeRecord_only, setTrain_notices, freeIncoming_only]
    exact h

theorem slotOf_setSlot (l m : Link) (x : Slot) (s : State) :
    slotOf (setSlot l x s) m = if m = l then x else slotOf s m := by
  split
  · next h => rw [h, slotOf_setSlot_same]
  · next h => exact PerLink.get_set_ne _ _ h

theorem discardStaging_only (l : Link) (s : State) :
    discardStaging l s = { s with control.slots := (discardStaging l s).control.slots } := rfl

theorem slotOf_discardStaging (l m : Link) (s : State) :
    slotOf (discardStaging l s) m = if m = l then { slotOf s l with staging := none } else slotOf s m :=
  slotOf_setSlot l m _ s

/-! ## A lost signal -/

/-- A port that has lost its signal, but for what waits (R146). -/
def darkPort (p : Port) : Port :=
  { p with
    state := .down, signal := false, sensingTimer := 0, exchange := none, sending := [], reply := none, heldBack := [] }

/-- The state of the part when a signal has been lost, before what waits moves (R146 steps 1 to 6). -/
def darkState (l : Link) (s : State) : State := discardStaging l (voidTrain l none (modPort l darkPort s))

theorem loseSignal_eq (l : Link) (s : State) : loseSignal l s =
    if (portOf s l).state = .down then rerouteWaiting (darkState l s)
    else latchKind .linkChange (rerouteWaiting (darkState l s)) :=
  if_congr decide_eq_true_iff rfl rfl

section
variable (l : Link) (s : State)

theorem darkState_only : darkState l s =
    { s with
      ports := (darkState l s).ports
      intake := (darkState l s).intake
      store := { (darkState l s).store with bytes := s.store.bytes, arrival := s.store.arrival }
      control.slots := (darkState l s).control.slots
      notices := (darkState l s).notices } := by
  unfold darkState
  rw [discardStaging_only, voidTrain_only]
  rfl

theorem portOf_darkState (m : Link) : portOf (darkState l s) m =
    { (if m = l then darkPort (portOf s l) else portOf s m) with notice := (portOf (darkState l s) m).notice } := by
  have h : portOf (darkState l s) m = portOf (voidTrain l none (modPort l darkPort s)) m := rfl
  rw [h, portOf_voidTrain, portOf_modPort]
  by_cases hm : m = l
  · rw [if_pos hm, if_pos hm, hm]
  · rw [if_neg hm, if_neg hm]

theorem calls_darkState (m : Link) : (portOf (darkState l s) m).calls = (portOf s m).calls := by
  rw [portOf_darkState]
  split
  · next h =>
    rw [h]
    rfl
  · rfl

variable {l s} in
theorem darkState_of_idle (h : trainOf s l = none) : darkState l s = discardStaging l (modPort l darkPort s) := by
  unfold darkState
  rw [voidTrain_of_idle]
  exact h

theorem not_open_darkState : ¬OpenLink (darkState l s) l := by
  unfold OpenLink
  rw [portOf_darkState, if_pos rfl]
  rintro ⟨h, -⟩
  cases h

theorem open_darkState : OpenLink (darkState l s) l.other ↔ OpenLink s l.other := by
  unfold OpenLink
  rw [portOf_darkState, if_neg (Link.other_ne l)]

/-- The calls after the link has gone DOWN: those of an open other link grow by its own (R146, R160). -/
theorem calls_rerouted_darkState {v : State} (h : Rerouted (darkState l s) v) :
    if (portOf s l.other).state = .up ∧ (portOf s l.other).quiet = false then
      (portOf v l.other).calls =
        (portOf s l.other).calls ++ (portOf s l).calls.take (64 - (portOf s l.other).calls.length)
      ∧ (portOf v l).calls = (portOf s l).calls.drop (64 - (portOf s l.other).calls.length)
    else (portOf v l).calls = (portOf s l).calls ∧ (portOf v l.other).calls = (portOf s l.other).calls := by
  have hn := not_open_darkState l s
  split
  · next ho =>
    have hm := h.moves l.other ((open_darkState l s).2 ho) (by rwa [Link.other_other])
    dsimp only at hm
    rw [Link.other_other, calls_darkState, calls_darkState] at hm
    rw [hm.1, hm.2]
    exact ⟨rfl, rfl⟩
  · next ho =>
    have ho' : ¬OpenLink (darkState l s) l.other := fun h => ho ((open_darkState l s).1 h)
    have hs : v = darkState l s := h.stays (by cases l <;> exact iff_of_false ‹_› ‹_›)
    rw [hs, calls_darkState, calls_darkState]
    exact ⟨rfl, rfl⟩

end

/-- What a lost signal leaves, but for the latch and the notices. -/
theorem loseSignal_only (l : Link) (s : State) : loseSignal l s =
    { darkState l s with ports := (loseSignal l s).ports, notices := (loseSignal l s).notices } := by
  rw [loseSignal_eq]
  split
  · rw [rerouteWaiting_only]
  · rw [latchKind_only, rerouteWaiting_only]

theorem portOf_loseSignal (l m : Link) (s : State) : portOf (loseSignal l s) m =
    { (if m = l then darkPort (portOf s l) else portOf s m) with
      calls := (portOf (loseSignal l s) m).calls, notice := (portOf (loseSignal l s) m).notice } := by
  rw [loseSignal_eq]
  split
  · rw [portOf_rerouteWaiting, portOf_darkState]
  · rw [portOf_latchKind, portOf_rerouteWaiting, portOf_darkState]

theorem calls_loseSignal (l m : Link) (s : State) :
    (portOf (loseSignal l s) m).calls = (portOf (rerouteWaiting (darkState l s)) m).calls := by
  rw [loseSignal_eq]
  split
  · rfl
  · rw [portOf_latchKind]

theorem latched_loseSignal {l : Link} {s : State} {k : NoticeKind}
    (h : holdsKind (darkState l s).notices.latched k = true) :
    holdsKind (loseSignal l s).notices.latched k = true := by
  rw [loseSignal_eq]
  split
  · rwa [rerouteWaiting_only]
  · refine latchKind_keeps _ ?_
    rwa [rerouteWaiting_only]

/-- Settles O21: the signal of a link comes, by cases on its state, and goes, through the state before what waits moves. -/
theorem signalComesAndGoes : Obligations.SignalComesAndGoes := by
  refine ⟨fun s l => ⟨fun h => congrArg Host.Outcome.next (if_pos h), fun h => congrArg Host.Outcome.next (if_neg ?_)⟩,
    fun s l => ⟨loseSignal l s, rfl, ?_, ?_, ?_, ?_, ?_, ?_, ?_, ?_, fun x v hx hv => ?_, fun h => ?_, fun h => ?_,
      fun hd h => ?_, ?_, ?_, ?_⟩⟩
  · rintro ⟨h1, h2⟩
    rcases h with h | h
    · exact h h1
    · exact h2 h
  · rw [portOf_loseSignal, if_pos rfl]
    rfl
  · rw [portOf_loseSignal, if_neg (Link.other_ne l)]
  · refine ⟨darkState l s, rerouteWaiting (darkState l s), fun m => ⟨calls_darkState l s m, fun h => ?_⟩,
      open_darkState l s, not_open_darkState l s, rerouteWaiting_rerouted _, loseSignal_eq l s⟩
    rw [darkState_of_idle h]
    show (portOf (modPort l darkPort s) m).notice = _
    rw [portOf_modPort]
    split
    · next hm =>
      rw [hm]
      rfl
    · rfl
  · rw [calls_loseSignal, calls_loseSignal]
    exact calls_rerouted_darkState l s (rerouteWaiting_rerouted _)
  · rw [loseSignal_only]
    show trainOf (voidTrain l none _) l = none
    rw [trainOf_voidTrain, if_pos rfl]
  · rw [loseSignal_only]
    show trainOf (voidTrain l none _) l.other = _
    rw [trainOf_voidTrain, if_neg (Link.other_ne l)]
    rfl
  · rw [loseSignal_only]
    show slotOf (discardStaging l _) l = _
    rw [slotOf_discardStaging, if_pos rfl]
    unfold slotOf
    rw [voidTrain_only]
    rfl
  · rw [loseSignal_only]
    show slotOf (discardStaging l _) l.other = _
    rw [slotOf_discardStaging, if_neg (Link.other_ne l)]
    unfold slotOf
    rw [voidTrain_only]
    rfl
  · have hx' : trainOf (modPort l darkPort s) l = some x := hx
    refine ⟨?_, ?_, ?_, fun r hr hq => ?_⟩
    · rw [loseSignal_only]
      show (entryOf (voidTrain l none _) x.index).incoming = none
      rw [entryOf_voidTrain hx', if_pos rfl]
    · rw [loseSignal_only]
      exact freeCount_voidTrain hx' hv none
    · exact latched_loseSignal (fault_voidTrain hx' none)
    · rw [loseSignal_only]
      exact log_voidTrain_none hx' hv hr hq
  · rw [loseSignal_only, darkState_of_idle h]
    exact ⟨rfl, rfl⟩
  · rw [loseSignal_eq, if_neg h]
    exact latchKind_holds _ _
  · rw [loseSignal_eq, if_pos hd, rerouteWaiting_only, darkState_of_idle h]
    rfl
  · conv_lhs => rw [loseSignal_only, darkState_only]
    rw [loseSignal_only, darkState_only]
  · rw [loseSignal_only, darkState_only]
  · rw [loseSignal_only, darkState_only]

end Sys2Proof.Machine
end

section
/-!
The bring-up exchange, page by page, and the receive tests (sections 9.1 to 9.3).
-/

namespace Sys2Proof.Machine

/-! ## A link that goes to FAULT or to UP -/

/-- A link's port has changed and LINK_CHANGE is latched; then what waits moves (R149, R153, R160). -/
theorem reroute_changed (l : Link) (p : Port) (s : State) :
    let t := rerouteWaiting (latchKind .linkChange (setPort l p s))
    Rerouted (latchKind .linkChange (setPort l p s)) t
      ∧ portOf t l = { p with calls := (portOf t l).calls, notice := (portOf t l).notice }
      ∧ portOf t l.other =
          { portOf s l.other with calls := (portOf t l.other).calls, notice := (portOf t l.other).notice }
      ∧ holdsKind t.notices.latched .linkChange = true
      ∧ t = { s with ports := t.ports, notices := t.notices } := by
  refine ⟨rerouteWaiting_rerouted _, ?_, ?_, ?_, ?_⟩
  · rw [portOf_rerouteWaiting, portOf_latchKind, portOf_setPort_same]
  · rw [portOf_rerouteWaiting, portOf_latchKind, portOf_setPort_other]
  · rw [rerouteWaiting_only]
    exact latchKind_holds _ _
  · rw [rerouteWaiting_only, latchKind_only]
    rfl

/-! ## Pages -/

theorem getD_set_ne {n m : Nat} (h : n ≠ m) (bs : List Byte) (x : Byte) : (bs.set n x).getD m 0 = bs.getD m 0 := by
  rw [List.getD_eq_getElem?_getD, List.getD_eq_getElem?_getD, List.getElem?_set_ne h]

/-- The bytes of a page that are compared, but for the reserved ones, are its own (section 12.6). -/
theorem getD_comparedBytes {n : Nat} {bs : List Byte} (h3 : n ≠ 3 ∨ isAbility bs = true)
    (h6 : n ≠ 6 ∨ isAbility bs = true) (h7 : n ≠ 7) : (comparedBytes bs).getD n 0 = bs.getD n 0 := by
  unfold comparedBytes
  split
  · exact getD_set_ne h7.symm _ _
  · next h =>
    rw [getD_set_ne h7.symm, getD_set_ne (h6.resolve_right h).symm, getD_set_ne (h3.resolve_right h).symm]

theorem byteAt_comparedBytes {n : Nat} {bs : List Byte} (h3 : n ≠ 3 ∨ isAbility bs = true)
    (h6 : n ≠ 6 ∨ isAbility bs = true) (h7 : n ≠ 7) : byteAt (comparedBytes bs) n = byteAt bs n :=
  congrArg BitVec.toNat (getD_comparedBytes h3 h6 h7)

theorem isAbility_iff (bs : List Byte) : isAbility bs = true ↔ byteAt bs 0 = 0 := beq_iff_eq

theorem isAbility_comparedBytes (bs : List Byte) : isAbility (comparedBytes bs) = isAbility bs := by
  unfold isAbility
  rw [byteAt_comparedBytes (.inl (by decide)) (.inl (by decide)) (by decide)]

theorem be16_comparedBytes (bs : List Byte) : be16 (comparedBytes bs) 4 = be16 bs 4 := by
  unfold be16
  rw [byteAt_comparedBytes (.inl (by decide)) (.inl (by decide)) (by decide),
    byteAt_comparedBytes (.inl (by decide)) (.inl (by decide)) (by decide)]

theorem comparedBytes_ability {bs : List Byte} (h : byteAt bs 0 = 0) : comparedBytes bs = bs.set 7 0 :=
  if_pos ((isAbility_iff bs).2 h)

theorem comparedBytes_next {bs : List Byte} (h : byteAt bs 0 ≠ 0) :
    comparedBytes bs = ((bs.set 3 0).set 6 0).set 7 0 := if_neg fun hi => h ((isAbility_iff bs).1 hi)

theorem flagsOffset_eq (bs : List Byte) : flagsOffset bs = if byteAt bs 0 = 0 then 6 else 1 :=
  if_congr (isAbility_iff bs) rfl rfl

theorem flagsOffset_next {bs : List Byte} (h : byteAt bs 0 ≠ 0) : flagsOffset bs = 1 := by
  rw [flagsOffset_eq, if_neg h]

/-- The flags of a next page are those of its byte 1. -/
theorem pageFlags_comparedBytes {bs : List Byte} (h : byteAt bs 0 ≠ 0) : pageFlags (comparedBytes bs) = byteAt bs 1 := by
  unfold pageFlags
  rw [flagsOffset_next, byteAt_comparedBytes (.inl (by decide)) (.inl (by decide)) (by decide)]
  rw [byteAt_comparedBytes (.inl (by decide)) (.inl (by decide)) (by decide)]
  exact h

/-! ## The page that arrives -/

section
variable {s : State} {l : Link} {code : Byte} {w : Wire} {x : Exchange} (h : PageArrives s l code w x)
include h

theorem exec_exchangePage : exec (.exchangePage l code w) s = .next (takePage l w s) := by
  have hb : holdsBack (portOf s l) = false := by
    unfold holdsBack
    rw [h.state]
    rfl
  have hd : disposal (portOf s l) s.straps 8 code w = .exchange := by
    have hf : failsCheck 8 code w = false := by
      unfold failsCheck
      rw [h.length, h.check]
      simp
    unfold disposal
    rw [h.state]
    dsimp only
    rw [if_neg (Nat.not_lt.2 h.fits), hf, if_neg nofun, if_neg (by decide), if_pos (by decide),
      if_neg (by rw [h.page]; decide)]
  show Host.Outcome.next (arrive l 8 code w id s) = _
  unfold arrive dispose
  rw [hb, if_neg nofun, hd]

theorem takePage_belongs (hb : belongs x (comparedBytes w.payload) = true) :
    takePage l w s = takeRoundPage l x (comparedBytes w.payload) s := by
  unfold takePage
  rw [h.exchange]
  exact if_pos hb

theorem takePage_ignored (hb : belongs x (comparedBytes w.payload) = false) : takePage l w s = s := by
  unfold takePage
  rw [h.exchange]
  exact if_neg (by rw [hb]; nofun)

end

/-- A page belongs to the round as R148 says. -/
theorem belongs_iff (x : Exchange) (bs : List Byte) : belongs x (comparedBytes bs) = true ↔
    (x.round = 0 ∧ byteAt bs 0 = 0)
      ∨ (1 ≤ x.round ∧ byteAt bs 0 ≠ 0 ∧ x.lastToggle ≠ some ((byteAt bs 1).testBit 4)) := by
  unfold belongs
  rw [isAbility_comparedBytes]
  by_cases hr : x.round = 0
  · rw [if_pos hr, isAbility_iff]
    exact ⟨fun h => .inl ⟨hr, h⟩, fun h => h.elim And.right fun h => absurd h.1 (by omega)⟩
  · rw [if_neg hr]
    by_cases ha : byteAt bs 0 = 0
    · rw [(isAbility_iff bs).2 ha]
      exact iff_of_false nofun fun h => h.elim (fun h => hr h.1) fun h => h.2.1 ha
    · have hi : isAbility bs = false := Bool.eq_false_iff.2 fun hi => ha ((isAbility_iff bs).1 hi)
      rw [hi]
      unfold pageToggle
      rw [pageFlags_comparedBytes ha, Bool.not_false, Bool.true_and, decide_eq_true_iff]
      exact ⟨fun h => .inr ⟨by omega, ha, h⟩, fun h => h.elim (fun h => absurd h.1 hr) fun h => h.2.2⟩

theorem takeRoundPage_taken {l : Link} {x : Exchange} {page : List Byte} {s : State} (hn : x.takenIn = none)
    (hp : x.previous = some page) :
    takeRoundPage l x page s = if isAbility page then takeAbility l x page s else takeNext l x page s := by
  unfold takeRoundPage
  rw [hn]
  exact if_pos (decide_eq_true hp)

/-- Settles O22: the ability page is tested, by cases on its role and revision. -/
theorem abilityPageIsTakenIn : Obligations.AbilityPageIsTakenIn := by
  intro s l code w x h hr hn ha hp
  have hi : isAbility w.payload = true := (isAbility_iff _).2 ha
  have he : exec (.exchangePage l code w) s = .next (takeAbility l x (comparedBytes w.payload) s) := by
    rw [exec_exchangePage h, takePage_belongs h ((belongs_iff x _).2 (.inl ⟨hr, ha⟩)),
      takeRoundPage_taken hn (by rw [hp, comparedBytes_ability ha]), isAbility_comparedBytes, if_pos hi]
  have h1 : byteAt (comparedBytes w.payload) 1 = byteAt w.payload 1 := byteAt_comparedBytes (.inr hi) (.inr hi) (by decide)
  have h3 : byteAt (comparedBytes w.payload) 3 = byteAt w.payload 3 := byteAt_comparedBytes (.inr hi) (.inr hi) (by decide)
  unfold takeAbility at he
  rw [h1, h3] at he
  refine ⟨fun hf => ?_, fun hf => ?_⟩
  · rw [if_pos hf] at he
    exact ⟨_, he, reroute_changed l _ s⟩
  · rw [if_neg (by omega), be16_comparedBytes, comparedBytes_ability ha] at he
    exact he

/-! ## Rounds -/

theorem withAcknowledge_eq (bs : List Byte) : withAcknowledge bs =
    bs.set (if byteAt bs 0 = 0 then 6 else 1) (bs.getD (if byteAt bs 0 = 0 then 6 else 1) 0 ||| 2) := by
  unfold withAcknowledge
  rw [flagsOffset_eq]

/-- Settles O24: a page of the round, by what the exchange has taken in. -/
theorem roundsPairAndComplete : Obligations.RoundsPairAndComplete := by
  intro s l code w x h ability page flags acknowledged bel leaves
  have hpage : comparedBytes w.payload = page := by
    by_cases ha : byteAt w.payload 0 = 0
    · exact (comparedBytes_ability ha).trans (if_pos ha).symm
    · exact (comparedBytes_next ha).trans (if_neg ha).symm
  have hbel : belongs x (comparedBytes w.payload) = true ↔ bel := belongs_iff x w.payload
  have hround : bel → exec (.exchangePage l code w) s = .next (takeRoundPage l x page s) := fun hb => by
    rw [exec_exchangePage h, takePage_belongs h (hbel.2 hb), hpage]
  have hab : byteAt page 0 = 0 ↔ ability := by
    rw [← isAbility_iff, ← hpage, isAbility_comparedBytes, isAbility_iff]
  refine ⟨fun hb => ?_, fun hb hn hp => ?_, fun taken hb ht hta => ?_⟩
  · rw [exec_exchangePage h, takePage_ignored h (Bool.eq_false_iff.2 fun h => hb (hbel.1 h))]
  · show exec _ _ = _
    rw [hround hb]
    unfold takeRoundPage
    rw [hn]
    exact congrArg Host.Outcome.next (if_neg (by simpa using hp))
  · have hack : withAcknowledge page = acknowledged page := by
      rw [withAcknowledge_eq, if_congr hab rfl rfl]
    have htack : withAcknowledge taken = acknowledged taken := by
      rw [withAcknowledge_eq, if_congr hta rfl rfl]
    have hflags : flagsOffset taken = flags := by rw [flagsOffset_eq, if_congr hta rfl rfl]
    have hstep : exec (.exchangePage l code w) s = .next
        (if acknowledged page = acknowledged taken then
          if x.previous = some page ∧ page = acknowledged taken then completeRound l x taken s
          else setExchange l { x with previous := some page } s
        else s) := by
      rw [hround hb]
      unfold takeRoundPage
      rw [ht]
      simp only [hack, htack, decide_eq_true_eq]
    refine ⟨fun hne => ?_, fun heq hno => ?_, fun hpa hprev => ?_⟩
    · rw [hstep, if_neg hne]
    · show exec _ _ = _
      rw [hstep, if_pos heq, if_neg fun hc => hno.elim (fun h => h hc.2) fun h => h hc.1]
      rfl
    · have heq : acknowledged page = acknowledged taken := by
        have hidem : ∀ (n : Nat) (bs : List Byte),
            (bs.set n (bs.getD n 0 ||| 2)).set n ((bs.set n (bs.getD n 0 ||| 2)).getD n 0 ||| 2)
              = bs.set n (bs.getD n 0 ||| 2) := fun n bs => by
          by_cases hn : n < bs.length
          · rw [List.set_set, List.getD_eq_getElem?_getD, List.getElem?_set_self hn, Option.getD_some,
              BitVec.or_assoc, BitVec.or_self]
          · rw [List.set_eq_of_length_le (by rw [List.length_set]; omega)]
        rw [hpa]
        exact hidem flags taken
      have hc : exec (.exchangePage l code w) s = .next (completeRound l x taken s) := by
        rw [hstep, if_pos heq, if_pos ⟨hprev, hpa⟩]
      have hnext : pageNext taken = (byteAt taken flags).testBit 0 := by
        unfold pageNext pageFlags
        rw [hflags]
      unfold completeRound at hc
      refine ⟨fun hf => ?_, fun hf => ?_⟩
      · show exec _ _ = _
        rw [hc, hnext, if_pos hf]
        have hlast : (if isAbility taken = true then none else some (pageToggle taken)) =
            if ability then none else some ((byteAt taken 1).testBit 4) := by
          by_cases ha : ability
          · rw [if_pos ((isAbility_iff taken).2 (hta.2 ha)), if_pos ha]
          · rw [if_neg fun hi => ha (hta.1 ((isAbility_iff taken).1 hi)), if_neg ha]
            unfold pageToggle pageFlags
            rw [flagsOffset_next fun h => ha (hta.1 h)]
        rw [hlast]
        rfl
      · rw [hnext, if_neg (by rw [hf]; nofun)] at hc
        obtain ⟨hre, hl, ho, hh, hs⟩ := reroute_changed l { portOf s l with state := .up, exchange := none } s
        refine ⟨_, hc, hre, hl, ho, fun hq hno => ?_, hh, hs⟩
        have hm := hre.moves l ?_ ?_
        · have hcalls : ∀ m, (portOf (latchKind .linkChange
              (setPort l { portOf s l with state := .up, exchange := none } s)) m).calls = (portOf s m).calls := fun m => by
            rw [portOf_latchKind, portOf_setPort]
            split
            · next h =>
              rw [h]
            · rfl
          dsimp only at hm
          rw [hcalls, hcalls] at hm
          exact ⟨congrArg Port.calls hm.1, congrArg Port.calls hm.2, congrArg Port.notice hm.2⟩
        · unfold OpenLink
          rw [portOf_latchKind, portOf_setPort_same]
          exact ⟨rfl, hq⟩
        · unfold OpenLink at hno ⊢
          rw [portOf_latchKind, portOf_setPort_other]
          exact hno

end Sys2Proof.Machine
end

section
/-!
Expiring trains, the next page of the exchange, and the receive tests (sections 2.4, 9.2, 9.3 and 10.5).
-/

namespace Sys2Proof.Machine

/-! ## Expiring trains -/

/-- Of a tile train, what stands at a train gap. -/
def runningTrain (gap : Nat) (o : Option Train) : Option Train := o.filter fun x => decide (x.gapTimer < gap)

/-- Of a table train, what stands at a train gap. -/
def runningStaging (gap : Nat) (o : Option Staging) : Option Staging := o.filter fun g => decide (g.gapTimer < gap)

theorem runningTrain_some (gap : Nat) (x : Train) :
    runningTrain gap (some x) = if gap ≤ x.gapTimer then none else some x := by
  unfold runningTrain
  by_cases h : gap ≤ x.gapTimer
  · rw [if_pos h, Option.filter_some, if_neg (by simpa using h)]
  · rw [if_neg h, Option.filter_some, if_pos (by simpa using h)]

theorem runningStaging_some (gap : Nat) (g : Staging) :
    runningStaging gap (some g) = if gap ≤ g.gapTimer then none else some g := by
  unfold runningStaging
  by_cases h : gap ≤ g.gapTimer
  · rw [if_pos h, Option.filter_some, if_neg (by simpa using h)]
  · rw [if_neg h, Option.filter_some, if_pos (by simpa using h)]

theorem expireTrain_due {l : Link} {s : State} {x : Train} (hx : trainOf s l = some x)
    (h : s.tables.settings.trainGap ≤ x.gapTimer) : expireTrain l s = voidTrain l (some .abandoned) s := by
  unfold expireTrain trainGapDue
  rw [hx]
  exact if_pos (decide_eq_true h)

theorem expireTrain_running {l : Link} {s : State}
    (h : ∀ x, trainOf s l = some x → x.gapTimer < s.tables.settings.trainGap) : expireTrain l s = s := by
  unfold expireTrain trainGapDue
  cases hx : trainOf s l with
  | none => rfl
  | some x => exact if_neg (by simpa using h x hx)

theorem expireTrain_only (l : Link) (s : State) : expireTrain l s =
    { s with
      intake := (expireTrain l s).intake
      store := { (expireTrain l s).store with bytes := s.store.bytes, arrival := s.store.arrival }
      ports := (expireTrain l s).ports
      notices := (expireTrain l s).notices } := by
  unfold expireTrain
  split
  · exact voidTrain_only l _ s
  · rfl

theorem portOf_expireTrain (l m : Link) (s : State) :
    portOf (expireTrain l s) m = { portOf s m with notice := (portOf (expireTrain l s) m).notice } := by
  unfold expireTrain
  split
  · exact portOf_voidTrain l m _ s
  · rfl

theorem trainOf_expireTrain (l m : Link) (s : State) : trainOf (expireTrain l s) m =
    if m = l then runningTrain s.tables.settings.trainGap (trainOf s l) else trainOf s m := by
  cases hx : trainOf s l with
  | none =>
    rw [expireTrain_running fun x h => by rw [hx] at h; cases h]
    split
    · next h =>
      rw [h, hx]
      rfl
    · rfl
  | some x =>
    rw [runningTrain_some]
    by_cases hg : s.tables.settings.trainGap ≤ x.gapTimer
    · rw [expireTrain_due hx hg, trainOf_voidTrain, if_pos hg]
    · rw [if_neg hg, expireTrain_running fun y h => by rw [hx] at h; cases h; omega]
      split
      · next h => rw [h, hx]
      · rfl

theorem expireTable_only (l : Link) (s : State) :
    expireTable l s = { s with control.slots := (expireTable l s).control.slots } := by
  unfold expireTable
  split <;> rfl

theorem slotOf_expireTable (l m : Link) (s : State) : slotOf (expireTable l s) m =
    if m = l then
      { slotOf s l with staging := runningStaging s.tables.settings.trainGap (slotOf s l).staging }
    else slotOf s m := by
  unfold expireTable tableTrainDue
  cases hg : (slotOf s l).staging with
  | none =>
    rw [if_neg nofun]
    split
    · next h =>
      rw [h]
      show slotOf s l = { slotOf s l with staging := none }
      rw [← hg]
    · rfl
  | some g =>
    rw [runningStaging_some]
    dsimp only
    by_cases hd : s.tables.settings.trainGap ≤ g.gapTimer
    · rw [if_pos (decide_eq_true hd), slotOf_discardStaging, if_pos hd]
    · rw [if_neg (by simpa using hd), if_neg hd, ← hg]
      split
      · next h => rw [h]
      · rfl

/-- The trains past the gap expire, table trains on either link after the tile trains (R22). -/
theorem expireTrains_only (s : State) : expireTrains s =
    { s with
      intake := (expireTrains s).intake
      store := { (expireTrains s).store with bytes := s.store.bytes, arrival := s.store.arrival }
      ports := (expireTrains s).ports
      control.slots := (expireTrains s).control.slots
      notices := (expireTrains s).notices } := by
  unfold expireTrains
  rw [expireTable_only .b, expireTable_only .a, expireTrain_only .b, expireTrain_only .a]

theorem portOf_expireTrains (m : Link) (s : State) :
    portOf (expireTrains s) m = { portOf s m with notice := (portOf (expireTrains s) m).notice } := by
  have h : portOf (expireTrains s) m = portOf (expireTrain .b (expireTrain .a s)) m := by
    unfold expireTrains portOf
    rw [expireTable_only .b, expireTable_only .a]
  rw [h, portOf_expireTrain, portOf_expireTrain]

theorem settings_expireTrain (l : Link) (s : State) : (expireTrain l s).tables = s.tables := by rw [expireTrain_only]

theorem trainOf_expireTrains (m : Link) (s : State) :
    trainOf (expireTrains s) m = runningTrain s.tables.settings.trainGap (trainOf s m) := by
  have h : trainOf (expireTrains s) m = trainOf (expireTrain .b (expireTrain .a s)) m := by
    unfold expireTrains trainOf
    rw [expireTable_only .b, expireTable_only .a]
  rw [h, trainOf_expireTrain, trainOf_expireTrain, trainOf_expireTrain, settings_expireTrain]
  cases m <;> rfl

theorem slotOf_expireTrains (m : Link) (s : State) : slotOf (expireTrains s) m =
    { slotOf s m with staging := runningStaging s.tables.settings.trainGap (slotOf s m).staging } := by
  have hslot : ∀ n, slotOf (expireTrain .b (expireTrain .a s)) n = slotOf s n := fun n => by
    unfold slotOf
    rw [expireTrain_only .b, expireTrain_only .a]
  have hgap : (expireTrain .b (expireTrain .a s)).tables = s.tables := by
    rw [settings_expireTrain, settings_expireTrain]
  have hgap' : (expireTable .a (expireTrain .b (expireTrain .a s))).tables = s.tables := by
    rw [expireTable_only, hgap]
  unfold expireTrains
  rw [slotOf_expireTable, slotOf_expireTable, slotOf_expireTable, hgap', hgap, hslot, hslot]
  cases m <;> rfl

/-! ## The next page -/

/-- A page of a later round that is taken in, and the exchange that answers it. -/
theorem takePage_next {s : State} {l : Link} {code : Byte} {w : Wire} {x : Exchange} (h : PageArrives s l code w x)
    (hr : 1 ≤ x.round) (hn : x.takenIn = none) (ha : byteAt w.payload 0 ≠ 0)
    (ht : x.lastToggle ≠ some ((byteAt w.payload 1).testBit 4))
    (hp : x.previous = some (comparedBytes w.payload)) :
    exec (.exchangePage l code w) s = .next (takeNext l x (comparedBytes w.payload) s) := by
  rw [exec_exchangePage h, takePage_belongs h ((belongs_iff x _).2 (.inr ⟨hr, ha, ht⟩)), takeRoundPage_taken hn hp,
    isAbility_comparedBytes, if_neg fun hi => ha ((isAbility_iff _).1 hi)]

section
variable {bs : List Byte} (ha : byteAt bs 0 ≠ 0)
include ha

theorem pageMessage_comparedBytes : pageMessage (comparedBytes bs) = (byteAt bs 1).testBit 2 := by
  unfold pageMessage
  rw [pageFlags_comparedBytes ha]

omit ha in
theorem code_comparedBytes : byteAt (comparedBytes bs) 2 = byteAt bs 2 :=
  byteAt_comparedBytes (.inl (by decide)) (.inl (by decide)) (by decide)

variable (l : Link) (x : Exchange) (s : State)

theorem takeNext_silent (hm : (byteAt bs 1).testBit 2 = false) : takeNext l x (comparedBytes bs) s =
    setExchange l (takenInExchange x (comparedBytes bs) (.answer false false (nextToggle x.page) 0 0)) s := by
  unfold takeNext answerTo adoptMessage
  rw [pageMessage_comparedBytes ha, hm]
  rfl

variable (hm : (byteAt bs 1).testBit 2 = true)
include hm

theorem takeNext_gap (h : byteAt bs 2 = 1) : takeNext l x (comparedBytes bs) s =
    let answer := UnitPage.answer true true (nextToggle x.page) 1 (clampTo 1 100 (be16 bs 4))
    expireTrains
      { setExchange l (takenInExchange x (comparedBytes bs) answer) s with
        tables.settings.trainGap := clampTo 1 100 (be16 bs 4) } := by
  unfold takeNext answerTo adoptMessage
  rw [pageMessage_comparedBytes ha, hm, code_comparedBytes, h, be16_comparedBytes]
  rfl

theorem takeNext_limit (h : byteAt bs 2 = 2) : takeNext l x (comparedBytes bs) s =
    let answer := UnitPage.answer true true (nextToggle x.page) 2 (clampTo 256 4096 (be16 bs 4))
    modPort l (fun p => { p with threshold := clampTo 256 4096 (be16 bs 4) })
      (setExchange l (takenInExchange x (comparedBytes bs) answer) s) := by
  unfold takeNext answerTo adoptMessage
  rw [pageMessage_comparedBytes ha, hm, code_comparedBytes, h, be16_comparedBytes]
  rfl

theorem takeNext_declined (h1 : byteAt bs 2 ≠ 1) (h2 : byteAt bs 2 ≠ 2) : takeNext l x (comparedBytes bs) s =
    setExchange l
      (takenInExchange x (comparedBytes bs) (.answer true false (nextToggle x.page) (bs.getD 2 0) 0)) s := by
  have hanswer : answerTo x (comparedBytes bs) = .answer true false (nextToggle x.page) (bs.getD 2 0) 0 := by
    unfold answerTo
    dsimp only
    rw [pageMessage_comparedBytes ha, hm, code_comparedBytes, if_pos rfl,
      getD_comparedBytes (.inl (by decide)) (.inl (by decide)) (by decide)]
    split
    · next h => exact absurd h h1
    · next h => exact absurd h h2
    · rfl
  unfold takeNext adoptMessage
  rw [hanswer, pageMessage_comparedBytes ha, hm, code_comparedBytes, if_pos rfl]
  split
  · next h => exact absurd h h1
  · next h => exact absurd h h2
  · rfl

end

/-- Settles O23: the answer and the effect of a next page, by its message. -/
theorem nextPageIsAnswered : Obligations.NextPageIsAnswered := by
  intro s l code w x h hr hn ha ht page hp toggle answered message gap limit
  have hpage : comparedBytes w.payload = page := comparedBytes_next ha
  have he := takePage_next h hr hn ha ht (by rw [hpage]; exact hp)
  refine ⟨fun hm h1 => ?_, fun hm h2 => ?_, fun hm h1 h2 => ?_, fun hm => ?_⟩
  · rw [takeNext_gap ha l x s hm h1, hpage] at he
    refine ⟨_, he, ?_, ?_, ?_, fun m u hu => ?_, fun m hu => ?_, fun m g hg => ?_, ?_⟩
    · rw [expireTrains_only]
      rfl
    · rw [portOf_expireTrains]
      show (portOf (setExchange l _ s) l).exchange = _
      unfold setExchange
      rw [portOf_modPort_same]
      rfl
    · rw [portOf_expireTrains]
      show (portOf (setExchange l _ s) l).threshold = _
      unfold setExchange
      rw [portOf_modPort_same]
    · rw [trainOf_expireTrains]
      show runningTrain gap (trainOf s m) = _
      rw [hu, runningTrain_some]
    · rw [trainOf_expireTrains]
      show runningTrain gap (trainOf s m) = _
      rw [hu]
      rfl
    · rw [slotOf_expireTrains]
      show runningStaging gap (slotOf s m).staging = _
      rw [hg, runningStaging_some]
    · refine ⟨?_, ?_, ?_, ?_, ?_⟩ <;>
      · rw [expireTrains_only]
        rfl
  · rw [he, takeNext_limit ha l x s hm h2, hpage]
    dsimp only [setExchange, modPort]
    rw [portOf_setPort_same]
    unfold setPort
    dsimp only
    rw [PerLink.set_set]
    rfl
  · rw [he, takeNext_declined ha l x s hm h1 h2, hpage]
    rfl
  · rw [he, takeNext_silent ha l x s hm, hpage]
    rfl

/-! ## The receive tests -/

theorem isForwardKind_iff (kind : Byte) : isForwardKind kind = true ↔ kind ∈ ([1, 2, 3, 4] : List Byte) := by
  unfold isForwardKind
  rw [decide_eq_true_iff]
  simp only [List.mem_cons, List.not_mem_nil, or_false, ← BitVec.toNat_inj]
  show _ ↔ kind.toNat = 1 ∨ kind.toNat = 2 ∨ kind.toNat = 3 ∨ kind.toNat = 4
  omega

theorem isExchangeKind_iff (kind : Byte) : isExchangeKind kind = true ↔ kind = 8 := by
  unfold isExchangeKind
  rw [decide_eq_true_iff, ← BitVec.toNat_inj]
  rfl

theorem failsCheck_iff (kind code : Byte) (w : Wire) : failsCheck kind code w = true ↔
    w.payload.length ≠ w.lengthField.toNat
      ∨ (¬(kind = 2 ∧ w.nocheck = true) ∧ w.check ≠ properCheck kind code w) := by
  have hs : sparesCheck kind w = true ↔ kind = 2 ∧ w.nocheck = true := by
    unfold sparesCheck
    rw [Bool.and_eq_true, decide_eq_true_iff, ← BitVec.toNat_inj]
    rfl
  unfold failsCheck
  rw [Bool.or_eq_true, Bool.and_eq_true, decide_eq_true_iff, decide_eq_true_iff, Bool.not_eq_true', ← hs,
    Bool.not_eq_true]

section
variable {p : Port} {straps : BitVec 4} {kind code : Byte} {w : Wire}

theorem disposal_unread (h : p.state = .down ∨ p.state = .sensing ∨ p.state = .fault) :
    disposal p straps kind code w = .notRead ∨ disposal p straps kind code w = .discarded := by
  unfold disposal
  rcases h with h | h | h <;> rw [h]
  · exact .inl rfl
  · exact .inl rfl
  · exact .inr rfl

variable (hr : p.state = .exchange ∨ p.state = .up)
include hr

/-- The tests of a link that reads, in their order. -/
theorem disposal_read : disposal p straps kind code w =
    if p.threshold < w.payload.length then .counted .oversize
    else if failsCheck kind code w then .counted .checkError
    else if !isForwardKind kind && !isExchangeKind kind then .counted .unknownKind
    else if isExchangeKind kind then
      if p.state = .up ∨ w.payload.length ≠ pageLength then .counted .unknownKind else .exchange
    else if p.state = .exchange then .toFault
    else if w.address ≠ straps ∧ w.address ≠ Config.hallAddress then .counted .misaddressed
    else .routed := by
  unfold disposal
  rcases hr with h | h <;> rw [h]

theorem disposal_oversize (h : p.threshold < w.payload.length) :
    disposal p straps kind code w = .counted .oversize := by rw [disposal_read hr, if_pos h]

variable (hf : ¬p.threshold < w.payload.length)
include hf

theorem disposal_bad (h : failsCheck kind code w = true) : disposal p straps kind code w = .counted .checkError := by
  rw [disposal_read hr, if_neg hf, if_pos h]

variable (hc : failsCheck kind code w = false)
include hc

theorem disposal_unknown (h : kind ∉ ([1, 2, 3, 4, 8] : List Byte)) :
    disposal p straps kind code w = .counted .unknownKind := by
  have h1 : isForwardKind kind = false := Bool.eq_false_iff.2 fun hk =>
    h (List.mem_append_left [8] ((isForwardKind_iff kind).1 hk))
  have h2 : isExchangeKind kind = false := Bool.eq_false_iff.2 fun hk => h <| by
    rw [(isExchangeKind_iff kind).1 hk]
    decide
  rw [disposal_read hr, if_neg hf, hc, if_neg nofun, h1, h2]
  rfl

theorem disposal_page (hk : kind = 8) (h : p.state = .up ∨ w.payload.length ≠ 8) :
    disposal p straps kind code w = .counted .unknownKind := by
  subst hk
  rw [disposal_read hr, if_neg hf, hc, if_neg nofun, if_neg (by decide), if_pos (by decide)]
  exact if_pos h

variable (hk : kind ∈ ([1, 2, 3, 4] : List Byte))
include hk

theorem disposal_forward : disposal p straps kind code w =
    if p.state = .exchange then .toFault
    else if w.address ≠ straps ∧ w.address ≠ Config.hallAddress then .counted .misaddressed
    else .routed := by
  have h1 := (isForwardKind_iff kind).2 hk
  have h2 : isExchangeKind kind = false := Bool.eq_false_iff.2 fun he => by
    rw [(isExchangeKind_iff kind).1 he] at hk
    revert hk
    decide
  rw [disposal_read hr, if_neg hf, hc, if_neg nofun, h1, h2]
  rfl

end

/-- The code that names a control is the control's own (section 12.3). -/
theorem controlCode_of_controlOfCode {code : Byte} {c : Control} (h : controlOfCode code = some c) :
    controlCode c = code := by
  unfold controlOfCode at h
  split at h
  all_goals
    rename_i hn
    obtain ⟨⟩ := h
  all_goals exact BitVec.eq_of_toNat_eq (Eq.symm ‹_›)

/-- Every parcel arrives, whatever its kind and code; the block it is routed to takes it only where it passes. -/
theorem parcelStep_arrives (l : Link) (kind code : Byte) (w : Wire) :
    ∃ body : State → State, ∀ s, parcelStep l kind code w s = arrive l kind code w body s := by
  have hkind : ∀ n : Nat, n < 256 → kind.toNat = n → kind = BitVec.ofNat 8 n := fun n hn h => by
    rw [← h, BitVec.ofNat_toNat, BitVec.setWidth_eq]
  unfold parcelStep
  split
  · next h =>
    rw [hkind 1 (by decide) h]
    exact ⟨_, fun s => rfl⟩
  · next h =>
    rw [hkind 2 (by decide) h]
    exact ⟨_, fun s => rfl⟩
  · next h =>
    rw [hkind 3 (by decide) h]
    unfold controlParcelStep
    cases hc : controlOfCode code with
    | none => exact ⟨_, fun s => rfl⟩
    | some c =>
      have hcode := controlCode_of_controlOfCode hc
      exact ⟨_, fun s => by rw [← hcode]; exact controlStep_eq c l w s⟩
  · next h =>
    rw [hkind 4 (by decide) h]
    exact ⟨_, fun s => rfl⟩
  · next h =>
    rw [hkind 8 (by decide) h]
    exact ⟨_, fun s => rfl⟩
  · exact ⟨_, fun s => rfl⟩

theorem portOf_countReceive (l m : Link) (k : ReceiveCounter) (s : State) : portOf (countReceive l k s) m =
    { portOf s m with
      counters := (portOf (countReceive l k s) m).counters, notice := (portOf (countReceive l k s) m).notice } := by
  have h : portOf (modPort l (fun p => { p with counters := bumpReceive p.counters k }) s) m =
      { portOf s m with counters :=
          (portOf (modPort l (fun p => { p with counters := bumpReceive p.counters k }) s) m).counters } := by
    rw [portOf_modPort]
    split <;> rfl
  unfold countReceive
  dsimp only
  split
  · rw [portOf_latchKind, h]
  · rw [h]

/-- A parcel that is disposed of before it is routed, with nothing held back on either link. -/
theorem exec_disposed {i : Instr} {l : Link} {kind code : Byte} {w : Wire} {s t : State}
    (h : parcelParts i = some (l, kind, code, w)) (hn : NoneHeldBack s) (hnt : NoneHeldBack t)
    (ht : ∀ body, dispose l kind code w body s = t) : exec i s = .next t := by
  obtain ⟨body, hb⟩ := parcelStep_arrives l kind code w
  have hp : parcelStep l kind code w s = t := by
    rw [hb]
    unfold arrive holdsBack
    rw [hn l, if_neg (by simp), ht]
  rcases exec_parcel h s with he | he
  · rw [he, hp]
  · rw [he, hp, releaseAll_of_noneHeldBack hnt]

/-- Settles O25: the tests in their order, each with its disposal. -/
theorem receiveTestsDispose : Obligations.ReceiveTestsDispose := by
  intro s i l kind code w h hn bad
  have hbad : bad ↔ failsCheck kind code w = true := (failsCheck_iff kind code w).symm
  have hcount : ∀ k, disposal (portOf s l) s.straps kind code w = .counted k →
      exec i s = .next (countReceive l k s) := fun k hk => by
    refine exec_disposed h hn (fun m => ?_) fun body => ?_
    · rw [portOf_countReceive]
      exact hn m
    · unfold dispose
      rw [hk]
  refine ⟨fun hu => exec_disposed h hn hn fun body => ?_, fun hr => ⟨fun ho => hcount _ (disposal_oversize hr ho),
    fun hf => ⟨fun hb => hcount _ (disposal_bad hr (by omega) (hbad.1 hb)), fun hb => ?_⟩⟩⟩
  · unfold dispose
    rcases disposal_unread hu with hd | hd <;> rw [hd]
  · have hc : failsCheck kind code w = false := Bool.eq_false_iff.2 fun hc => hb (hbad.2 hc)
    have hf' : ¬(portOf s l).threshold < w.payload.length := by omega
    refine ⟨fun hk => hcount _ ?_, fun hk hs => ?_, fun hk hs h1 h2 => hcount _ ?_⟩
    · rcases hk with hk | ⟨hk, hs⟩
      · exact disposal_unknown hr hf' hc hk
      · exact disposal_page hr hf' hc hk hs
    · have hre := reroute_changed l { portOf s l with state := .fault, exchange := none, sending := [] } s
      refine ⟨_, exec_disposed h hn (fun m => ?_) fun body => ?_, hre⟩
      · rw [portOf_rerouteWaiting, portOf_latchKind, portOf_setPort]
        split
        · exact hn l
        · exact hn m
      · unfold dispose
        rw [disposal_forward hr hf' hc hk, if_pos hs]
        rfl
    · rw [disposal_forward hr hf' hc hk, if_neg (by rw [hs]; nofun)]
      exact if_pos ⟨h1, h2⟩

end Sys2Proof.Machine
end

section
/-!
What a reclaim frees, and the low-water test (section 3.3).
-/

namespace Sys2Proof.Machine

/-- The blocks of the held version of an index. -/
def blocksHeld (s : State) (i : RosterIndex) : List Nat := heldBlocks (entryOf s i).held

theorem blocksHeld_some {s : State} {i : RosterIndex} {h : Held} (hh : (entryOf s i).held = some h) :
    blocksHeld s i = h.version.blocks := by
  unfold blocksHeld
  rw [hh]
  rfl

/-- The free count once the held versions of some indices have been freed. -/
def countAfter (s : State) (is : List RosterIndex) : Nat :=
  s.store.freeCount + (is.map fun i => (blocksHeld s i).length).sum

/-- The state `t` is `s` with the held versions of these indices freed. -/
structure HeldFreed (is : List RosterIndex) (s t : State) : Prop where
  count : t.store.freeCount = countAfter s is
  blocks : ∀ b, t.store.freeList.count b = s.store.freeList.count b + (is.map fun i => (blocksHeld s i).count b).sum
  arrival : t.store.arrival = s.store.arrival.filter fun i => decide (i ∉ is)
  entries : ∀ i, entryOf t i = if i ∈ is then { entryOf s i with held := none } else entryOf s i

theorem HeldFreed.refl (s : State) : HeldFreed [] s s where
  count := rfl
  blocks _ := rfl
  arrival := (List.filter_eq_self.2 fun _ _ => by simp).symm
  entries _ := rfl

theorem blocksHeld_freeHeld_of_ne {i j : RosterIndex} (h : j ≠ i) (s : State) :
    blocksHeld (freeHeld i s) j = blocksHeld s j := by
  unfold blocksHeld
  rw [(freeHeld_frame i j s).2, if_neg h]

theorem map_blocksHeld_freeHeld {i : RosterIndex} {is : List RosterIndex} (hi : i ∉ is) (s : State) (f : List Nat → Nat) :
    (is.map fun j => f (blocksHeld (freeHeld i s) j)) = is.map fun j => f (blocksHeld s j) :=
  List.map_congr_left fun j hj => by rw [blocksHeld_freeHeld_of_ne fun e : j = i => hi (e ▸ hj)]

theorem countAfter_freeHeld {i : RosterIndex} {is : List RosterIndex} {s : State} {h : Held}
    (hh : (entryOf s i).held = some h) (hi : i ∉ is) : countAfter (freeHeld i s) is = countAfter s (i :: is) := by
  unfold countAfter
  rw [map_blocksHeld_freeHeld hi s List.length, (freeHeld_some hh).1, List.map_cons, List.sum_cons, blocksHeld_some hh]
  omega

/-- One more held version freed first. -/
theorem HeldFreed.cons {i : RosterIndex} {is : List RosterIndex} {s t : State} {h : Held}
    (hh : (entryOf s i).held = some h) (hi : i ∉ is) (hf : HeldFreed is (freeHeld i s) t) : HeldFreed (i :: is) s t where
  count := by rw [hf.count, countAfter_freeHeld hh hi]
  blocks b := by
    rw [hf.blocks, map_blocksHeld_freeHeld hi s (List.count b), (freeHeld_some hh).2.1, List.map_cons, List.sum_cons,
      blocksHeld_some hh]
    omega
  arrival := by
    rw [hf.arrival, (freeHeld_some hh).2.2, List.filter_filter]
    refine List.filter_congr fun j _ => ?_
    rw [← Bool.decide_and]
    exact decide_eq_decide.2 (by rw [List.mem_cons, not_or, and_comm])
  entries j := by
    rw [hf.entries, (freeHeld_frame i j s).2]
    by_cases hj : j = i
    · subst hj
      rw [if_neg hi, if_pos rfl, if_pos List.mem_cons_self]
    · rw [if_neg hj]
      exact if_congr (by rw [List.mem_cons, or_iff_right hj]) rfl rfl

/-- The candidates among some indices. -/
def candidatesOf (s : State) (is : List RosterIndex) : List RosterIndex := is.filter fun i => isCandidate i s

theorem held_of_isCandidate {i : RosterIndex} {s : State} (h : isCandidate i s = true) :
    ∃ x, (entryOf s i).held = some x := by
  unfold isCandidate at h
  split at h
  · next x hx => exact ⟨x, hx⟩
  · cases h

theorem isCandidate_freeHeld_of_ne {i j : RosterIndex} (h : j ≠ i) (s : State) :
    isCandidate j (freeHeld i s) = isCandidate j s := by
  unfold isCandidate
  rw [(freeHeld_frame i j s).2, (freeHeld_frame i j s).1, if_neg h]

theorem candidatesOf_freeHeld {i : RosterIndex} {is : List RosterIndex} (hi : i ∉ is) (s : State) :
    candidatesOf (freeHeld i s) is = candidatesOf s is :=
  List.filter_congr fun j hj => isCandidate_freeHeld_of_ne (fun e : j = i => hi (e ▸ hj)) s

theorem candidatesOf_cons_pos {i : RosterIndex} {s : State} (h : isCandidate i s = true) (is : List RosterIndex) :
    candidatesOf s (i :: is) = i :: candidatesOf s is := List.filter_cons_of_pos h

theorem candidatesOf_cons_neg {i : RosterIndex} {s : State} (h : ¬isCandidate i s = true) (is : List RosterIndex) :
    candidatesOf s (i :: is) = candidatesOf s is := List.filter_cons_of_neg h

theorem not_mem_candidatesOf {i : RosterIndex} {is : List RosterIndex} (hi : i ∉ is) (s : State) :
    i ∉ candidatesOf s is := fun h => hi (List.mem_of_mem_filter h)

/-- The walk frees the candidates of the least stretch that reaches the target, or of the whole list (R58). -/
theorem reclaimWalk_spec (n : Nat) : ∀ (is : List RosterIndex) (s : State), is.Nodup →
    ∃ k ≤ is.length, (n ≤ countAfter s (candidatesOf s (is.take k)) ∨ k = is.length)
      ∧ (∀ j < k, countAfter s (candidatesOf s (is.take j)) < n)
      ∧ HeldFreed (candidatesOf s (is.take k)) s (reclaimWalk n is s)
  | [], s, _ => ⟨0, Nat.le_refl 0, .inr rfl, fun j hj => absurd hj (Nat.not_lt_zero j), .refl s⟩
  | i :: is, s, hn => by
    obtain ⟨hi, hn⟩ := List.nodup_cons.1 hn
    unfold reclaimWalk
    by_cases hc : n ≤ s.store.freeCount
    · rw [if_pos hc]
      exact ⟨0, Nat.zero_le _, .inl hc, fun j hj => absurd hj (Nat.not_lt_zero j), .refl s⟩
    · rw [if_neg hc]
      have hstart : ∀ j k, (∀ j < k, countAfter s (candidatesOf s (i :: is.take j)) < n) → j < k + 1 →
          countAfter s (candidatesOf s ((i :: is).take j)) < n := fun j k h hj => by
        cases j with
        | zero => exact Nat.lt_of_not_le hc
        | succ j => exact h j (by omega)
      by_cases hi' : isCandidate i s = true
      · rw [if_pos hi']
        obtain ⟨h, hh⟩ := held_of_isCandidate hi'
        have hstep : ∀ k, countAfter (freeHeld i s) (candidatesOf (freeHeld i s) (is.take k)) =
            countAfter s (candidatesOf s (i :: is.take k)) := fun k => by
          have hik : i ∉ is.take k := fun hm => hi (List.mem_of_mem_take hm)
          rw [candidatesOf_freeHeld hik, countAfter_freeHeld hh (not_mem_candidatesOf hik s), candidatesOf_cons_pos hi']
        obtain ⟨k, hk, hend, hbefore, hfreed⟩ := reclaimWalk_spec n is (freeHeld i s) hn
        have hik : i ∉ is.take k := fun hm => hi (List.mem_of_mem_take hm)
        rw [candidatesOf_freeHeld hik] at hfreed
        refine ⟨k + 1, Nat.succ_le_succ hk, ?_, fun j hj => hstart j k (fun j hj => ?_) hj, ?_⟩
        · rw [List.take_succ_cons, ← hstep]
          exact hend.imp_right fun h => by rw [h, List.length_cons]
        · rw [← hstep]
          exact hbefore j hj
        · rw [List.take_succ_cons, candidatesOf_cons_pos hi']
          exact hfreed.cons hh (not_mem_candidatesOf hik s)
      · rw [if_neg hi']
        obtain ⟨k, hk, hend, hbefore, hfreed⟩ := reclaimWalk_spec n is s hn
        refine ⟨k + 1, Nat.succ_le_succ hk, ?_, fun j hj => hstart j k (fun j hj => ?_) hj, ?_⟩
        · rw [List.take_succ_cons, candidatesOf_cons_neg hi']
          exact hend.imp_right fun h => by rw [h, List.length_cons]
        · rw [candidatesOf_cons_neg hi']
          exact hbefore j hj
        · rw [List.take_succ_cons, candidatesOf_cons_neg hi']
          exact hfreed

/-- Settles O26: the walk along the Arrival List, and the low-water test around it. -/
theorem reclaimFreesCandidatesInArrivalOrder : Obligations.ReclaimFreesCandidatesInArrivalOrder := by
  refine ⟨?_, ?_⟩
  · intro n s hn candidate blocksOf met count
    have hcand : candidate = fun i => isCandidate i s := funext fun i => by
      show (match (entryOf s i).held with
        | some h => decide (h.lock = 0 ∧ (recordOf s i).uses = 0)
        | none => false) = isCandidate i s
      unfold isCandidate
      cases (entryOf s i).held with
      | none => rfl
      | some h => exact Bool.decide_and _ _
    have hmet : ∀ k, met k = candidatesOf s (s.store.arrival.take k) := fun k => by
      show List.filter candidate _ = _
      rw [hcand]
      rfl
    have hcount : ∀ k, count k = countAfter s (candidatesOf s (s.store.arrival.take k)) := fun k => by
      rw [← hmet]
      rfl
    obtain ⟨k, hk, hend, hbefore, hfreed⟩ := reclaimWalk_spec n s.store.arrival s hn
    simp only [hmet, hcount]
    exact ⟨k, hk, reclaim n s, rfl, hend, hbefore, hfreed.count, hfreed.blocks, hfreed.arrival, hfreed.entries,
      reclaim_only n s⟩
  · intro s low
    have hs : (reclaim low s).tables = s.tables := by rw [reclaim_only]
    refine ⟨fun h => if_neg (Nat.not_lt.2 h), fun h => ⟨fun h' => ?_, fun h' => ?_⟩⟩
    · unfold lowWaterTest latchStoreLow
      rw [if_pos h, hs]
      exact if_neg (Nat.not_lt.2 h')
    · unfold lowWaterTest latchStoreLow
      rw [if_pos h, hs]
      exact if_pos h'

end Sys2Proof.Machine
end

section
/-!
Tile heads: the checks, the reservation, and the opening of a train (section 2.1).
-/

namespace Sys2Proof.Machine

/-! ## A head that arrives -/

theorem exec_tileHead {s : State} {l : Link} {code : Byte} {w : Wire} (h : Passes s l 1 code w) :
    exec (.tileHead l code w) s = .next (takeTileHead l w s) :=
  congrArg Host.Outcome.next (arrive_of_passes h (by decide) nofun _)

/-- The receive tests read nothing of a port's notice. -/
theorem Passes.of_notice {s t : State} {l : Link} {kind code : Byte} {w : Wire} (h : Passes s l kind code w)
    (hp : portOf t l = { portOf s l with notice := (portOf t l).notice }) (hs : t.straps = s.straps) :
    Passes t l kind code w where
  up := by rw [hp]; exact h.up
  notHeld := by rw [hp]; exact h.notHeld
  fits := by rw [hp]; exact h.fits
  length := h.length
  check := h.check
  address := by rw [hs]; exact h.address

theorem passes_voidTrain {s : State} {l : Link} {kind code : Byte} {w : Wire} (h : Passes s l kind code w)
    (m : Link) (o : Option Delivery) : Passes (voidTrain m o s) l kind code w :=
  h.of_notice (portOf_voidTrain m l o s) (by rw [voidTrain_only])

section
variable {s : State} {l : Link} {w : Wire} (ht : trainOf s l = none)
include ht

theorem takeTileHead_passed {i : RosterIndex} {n : Fin 16} (hc : checkHead w.payload s = .passed i n) :
    takeTileHead l w s = reserveAndOpen l (readTileHead w.payload) i n s := by
  unfold takeTileHead
  dsimp only
  rw [voidTrain_of_idle ht, hc]

theorem takeTileHead_refused {o : Delivery} {id : BitVec 32} {i : Option RosterIndex}
    (hc : checkHead w.payload s = .refused o id i) : takeTileHead l w s = refuseHead l o id i s := by
  unfold takeTileHead
  dsimp only
  rw [voidTrain_of_idle ht, hc]

end

/-! ## The checks -/

section
variable {s : State} {p : List Byte}

theorem checkHead_short (h : p.length ≠ 16) : checkHead p s = .refused .badHead 0 none := if_pos h

theorem readTileHead_studentId : (readTileHead p).studentId = BitVec.ofNat 32 (be32 p 0) := rfl

theorem readTileHead_session : (readTileHead p).session = byteAt p 4 := rfl

variable (hl : p.length = 16)
include hl

theorem not_length_ne_tileHeadLength : ¬p.length ≠ tileHeadLength := not_not.2 hl

theorem checkHead_unlisted (h : indexOfStudent s (BitVec.ofNat 32 (be32 p 0)) = none) :
    checkHead p s = .refused .notListed (BitVec.ofNat 32 (be32 p 0)) none := by
  unfold checkHead
  rw [if_neg (not_length_ne_tileHeadLength hl)]
  dsimp only
  rw [readTileHead_studentId, h]

variable {i : RosterIndex} (hi : indexOfStudent s (BitVec.ofNat 32 (be32 p 0)) = some i)
include hi

theorem checkHead_withheld (h : (recordOf s i).withheld = true) :
    checkHead p s = .refused .withheld (BitVec.ofNat 32 (be32 p 0)) (some i) := by
  unfold checkHead
  rw [if_neg (not_length_ne_tileHeadLength hl)]
  dsimp only
  rw [readTileHead_studentId, hi]
  exact if_pos h

variable (hw : (recordOf s i).withheld = false)
include hw

theorem checkHead_sessionless (h : sessionNumber (byteAt p 4) = none) :
    checkHead p s = .refused .noSession (BitVec.ofNat 32 (be32 p 0)) (some i) := by
  unfold checkHead
  rw [if_neg (not_length_ne_tileHeadLength hl)]
  dsimp only
  rw [readTileHead_studentId, hi]
  dsimp only
  rw [hw, if_neg nofun, readTileHead_session, h]

variable {n : Fin 16} (hn : sessionNumber (byteAt p 4) = some n)
include hn

theorem checkHead_toneless (h : s.tables.tones[n] = none) :
    checkHead p s = .refused .noSession (BitVec.ofNat 32 (be32 p 0)) (some i) := by
  unfold checkHead
  rw [if_neg (not_length_ne_tileHeadLength hl)]
  dsimp only
  rw [readTileHead_studentId, hi]
  dsimp only
  rw [hw, if_neg nofun, readTileHead_session, hn]
  dsimp only
  rw [h]
  rfl

variable (ho : s.tables.tones[n] ≠ none)
include ho

theorem checkHead_shape : checkHead p s =
    if geometryFits (readTileHead p) then .passed i n
    else .refused .badHead (BitVec.ofNat 32 (be32 p 0)) (some i) := by
  unfold checkHead
  rw [if_neg (not_length_ne_tileHeadLength hl)]
  dsimp only
  rw [readTileHead_studentId, hi]
  dsimp only
  rw [hw, if_neg nofun, readTileHead_session, hn]
  dsimp only
  rw [if_neg (by simpa using ho)]

end

theorem geometryFits_iff (p : List Byte) : geometryFits (readTileHead p) = true ↔
    64 ≤ be16 p 6 ∧ be16 p 6 ≤ 1024 ∧ 64 ≤ be16 p 8 ∧ be16 p 8 ≤ 1280 ∧ be16 p 10 < be16 p 8
      ∧ be16 p 12 < be16 p 6 ∧ 16 ≤ be16 p 14 ∧ be16 p 14 ≤ be16 p 8 := by
  unfold geometryFits
  rw [decide_eq_true_iff]
  rfl

theorem sessionNumber_of_eq {k : Nat} {n : Fin 16} (h : k = n.val) : sessionNumber k = some n := by
  subst h
  exact dif_pos n.isLt

theorem sessionNumber_of_le {k : Nat} (h : 16 ≤ k) : sessionNumber k = none := dif_neg (by omega)

/-! ## Opening -/

/-- The version that a head opens, at this time mark. -/
def headVersion (l : Link) (h : TileHead) (n : Fin 16) (blocks : List Nat) (m : Mark) : Version :=
  { width := h.width, height := h.height, eyeRow := h.eyeRow, centreColumn := h.centreColumn,
    headHeight := h.headHeight, session := n, blocks := blocks, rows := 0, origin := l, openMark := m,
    closeMark := none, retake := false, late := false, poisonedSeen := false }

/-- A new train stands from this time mark on, with the record of this sequence number: its version is FILLING, its
record is open (R27, R49). -/
def openedState (l : Link) (h : TileHead) (i : RosterIndex) (n : Fin 16) (blocks : List Nat) (m : Mark) (q : BitVec 32)
    (u : State) : State :=
  { u with
    intake.directory :=
      u.intake.directory.set i
        { entryOf u i with incoming := some { version := headVersion l h n blocks m, state := .filling } }
    intake.trains :=
      u.intake.trains.set l
        (some { index := i, studentId := h.studentId, record := q, lastRow := none, gapTimer := 0 })
    intake.log :=
      u.intake.log.set (logSlot q)
        (some
          { sequence := q, index := some i, studentId := h.studentId, link := l, opened := true, closed := false
            openMark := m, closeMark := none, rows := 0, outcome := none, late := false, called := false })
    intake.nextSequence := q + 1 }

theorem voidTrainIf_only (i : RosterIndex) (o : Delivery) (l : Link) (s : State) : voidTrainIf i o l s =
    { s with
      intake := (voidTrainIf i o l s).intake
      store := { (voidTrainIf i o l s).store with bytes := s.store.bytes, arrival := s.store.arrival }
      ports := (voidTrainIf i o l s).ports
      notices := (voidTrainIf i o l s).notices } := by
  unfold voidTrainIf
  split
  · split
    · exact voidTrain_only l _ s
    · rfl
  · rfl

theorem dropIncoming_only (i : RosterIndex) (o : Delivery) (s : State) : dropIncoming i o s =
    { s with
      intake := (dropIncoming i o s).intake
      store := { (dropIncoming i o s).store with bytes := s.store.bytes, arrival := s.store.arrival }
      ports := (dropIncoming i o s).ports
      notices := (dropIncoming i o s).notices } := by
  unfold dropIncoming voidTrainOf
  rw [freeIncoming_only, voidTrainIf_only i o .b, voidTrainIf_only i o .a]

theorem nextSequence_voidTrain (l : Link) (o : Option Delivery) (s : State) :
    (voidTrain l o s).intake.nextSequence = s.intake.nextSequence := by
  cases hx : trainOf s l with
  | none => rw [voidTrain_of_idle hx]
  | some x => rw [voidTrain_some hx, latchKind_only, changeRecord_only, setTrain_intake_nextSequence, freeIncoming_only]

theorem nextSequence_dropIncoming (i : RosterIndex) (o : Delivery) (s : State) :
    (dropIncoming i o s).intake.nextSequence = s.intake.nextSequence := by
  have h : ∀ l s, (voidTrainIf i o l s).intake.nextSequence = s.intake.nextSequence := fun l s => by
    unfold voidTrainIf
    split
    · split
      · exact nextSequence_voidTrain l _ s
      · rfl
    · rfl
  unfold dropIncoming voidTrainOf
  rw [freeIncoming_only, h, h]

theorem openTrain_opened (l : Link) (h : TileHead) (i : RosterIndex) (n : Fin 16) (blocks : List Nat) (s : State) :
    openTrain l h i n blocks s =
      openedState l h i n blocks s.timeMark s.intake.nextSequence (dropIncoming i .superseded s) := by
  have hm : (dropIncoming i .superseded s).timeMark = s.timeMark := by rw [dropIncoming_only]
  have h : openTrain l h i n blocks s =
      { openedState l h i n blocks s.timeMark (dropIncoming i .superseded s).intake.nextSequence
          (dropIncoming i .superseded s) with
        intake.log :=
          (dropIncoming i .superseded s).intake.log.set (logSlot (dropIncoming i .superseded s).intake.nextSequence)
            (some
              { sequence := (dropIncoming i .superseded s).intake.nextSequence, index := some i, studentId := h.studentId
                link := l, opened := true, closed := false, openMark := (dropIncoming i .superseded s).timeMark
                closeMark := none, rows := 0, outcome := none, late := false, called := false }) } := rfl
  rw [h, hm, ← nextSequence_dropIncoming i .superseded s]
  rfl

/-! ## What the new version supersedes -/

section
variable {i : RosterIndex} {o : Delivery} {s : State}

theorem voidTrainIf_of_apart {l : Link} (h : ∀ x, trainOf s l = some x → x.index ≠ i) : voidTrainIf i o l s = s := by
  unfold voidTrainIf
  split
  · next x hx => exact if_neg (h x hx)
  · rfl

theorem voidTrainIf_of_index {l : Link} {x : Train} (hx : trainOf s l = some x) (h : x.index = i) :
    voidTrainIf i o l s = voidTrain l (some o) s := by
  unfold voidTrainIf
  rw [hx]
  exact if_pos h

theorem freeIncoming_of_none (h : (entryOf s i).incoming = none) : freeIncoming i s = s := by
  unfold freeIncoming
  rw [h]

/-- An incoming version that is freed leaves its slot and returns its blocks. -/
theorem freeIncoming_returns {v : Incoming} (h : (entryOf s i).incoming = some v) :
    (freeIncoming i s).store.freeCount = s.store.freeCount + v.version.blocks.length
      ∧ (∀ b : Nat, (freeIncoming i s).store.freeList.count b = s.store.freeList.count b + v.version.blocks.count b)
      ∧ freeIncoming i s =
        { s with
          intake.directory := s.intake.directory.set i { entryOf s i with incoming := none }
          store := { (freeIncoming i s).store with arrival := s.store.arrival, bytes := s.store.bytes } } := by
  unfold freeIncoming
  rw [h]
  exact ⟨rfl, fun b => count_insertBlocks b _ _, rfl⟩

/-- With no train open for the index, its incoming version is freed directly. -/
theorem dropIncoming_of_apart (h : ∀ l x, trainOf s l = some x → x.index ≠ i) : dropIncoming i o s = freeIncoming i s := by
  unfold dropIncoming voidTrainOf
  rw [voidTrainIf_of_apart (h .a), voidTrainIf_of_apart (h .b)]

/-- With a train of one link open for the index, the version goes with it. -/
theorem dropIncoming_of_train {l : Link} {x : Train} (hx : trainOf s l = some x) (hi : x.index = i)
    (hother : trainOf s l.other = none) : dropIncoming i o s = voidTrain l (some o) s := by
  have hno : ∀ m, ∀ y, trainOf (voidTrain l (some o) s) m = some y → y.index ≠ i := fun m y hy => by
    rw [trainOf_voidTrain] at hy
    split at hy
    · cases hy
    · next hm =>
      have : m = l.other := by cases m <;> cases l <;> first | rfl | exact absurd rfl hm
      rw [this, hother] at hy
      cases hy
  have hfree : freeIncoming i (voidTrain l (some o) s) = voidTrain l (some o) s :=
    freeIncoming_of_none (by rw [entryOf_voidTrain hx, hi, if_pos rfl])
  unfold dropIncoming voidTrainOf
  cases l with
  | a => rw [voidTrainIf_of_index hx hi, voidTrainIf_of_apart (hno .b), hfree]
  | b =>
    have ha : ∀ y, trainOf s .a = some y → y.index ≠ i := fun y hy => by
      rw [show trainOf s .a = none from hother] at hy
      cases hy
    rw [voidTrainIf_of_apart ha, voidTrainIf_of_index hx hi, hfree]

end

/-! ## The reservation -/

section
variable {l : Link} {h : TileHead} {i : RosterIndex} {n : Fin 16} {s : State}

theorem reclaimAtOpen_only (k : Nat) (s : State) : reclaimAtOpen k s =
    { s with
      intake.directory := (reclaimAtOpen k s).intake.directory
      store := { (reclaimAtOpen k s).store with bytes := s.store.bytes } } := by
  unfold reclaimAtOpen
  split
  · exact reclaim_only k s
  · rfl

theorem incoming_reclaimAtOpen (k : Nat) (s : State) (j : RosterIndex) :
    (entryOf (reclaimAtOpen k s) j).incoming = (entryOf s j).incoming := by
  unfold reclaimAtOpen
  split
  · exact incoming_reclaimWalk k j _ s
  · rfl

theorem reserveAndOpen_refuses (hr : (reclaimAtOpen (blocksNeeded h.width h.height) s).store.freeCount < blocksNeeded h.width h.height) :
    reserveAndOpen l h i n s =
      latchStoreLow (refuseHead l .noRoom h.studentId (some i) (reclaimAtOpen (blocksNeeded h.width h.height) s)) :=
  if_pos hr

end

/-- The blocks reserved, and the low-water test after it (R53, R60). -/
def reservedState (need : Nat) (s : State) : State := lowWaterTest (takeBlocks need (reclaimAtOpen need s))

theorem reservedState_of_room {need : Nat} {s room : State} (h : room = reclaimAtOpen need s) :
    lowWaterTest
      { room with
        store.freeList := room.store.freeList.drop need
        store.freeCount := room.store.freeCount - need } = reservedState need s := by
  subst h
  rfl

theorem reservedState_only (need : Nat) (s : State) : reservedState need s =
    { s with
      intake.directory := (reservedState need s).intake.directory
      store := { (reservedState need s).store with bytes := s.store.bytes }
      notices := (reservedState need s).notices
      ports := (reservedState need s).ports } := by
  unfold reservedState takeBlocks
  rw [lowWaterTest_only, reclaimAtOpen_only]

/-- A reservation that succeeds opens the train on the reserved blocks. -/
theorem reserveAndOpen_opened {l : Link} {h : TileHead} {i : RosterIndex} {n : Fin 16} {s : State} {k : Nat}
    (hk : blocksNeeded h.width h.height = k) (hroom : k ≤ (reclaimAtOpen k s).store.freeCount) :
    reserveAndOpen l h i n s =
      openedState l h i n ((reclaimAtOpen k s).store.freeList.take k) s.timeMark s.intake.nextSequence
        (dropIncoming i .superseded (reservedState k s)) := by
  have hm : (reservedState k s).timeMark = s.timeMark := by rw [reservedState_only]
  have hq : (reservedState k s).intake.nextSequence = s.intake.nextSequence := by rw [reservedState_only]
  have hopen : reserveAndOpen l h i n s =
      openTrain l h i n ((reclaimAtOpen k s).store.freeList.take k) (reservedState k s) := by
    subst hk
    exact if_neg (Nat.not_lt.2 hroom)
  rw [hopen, openTrain_opened, hm, hq]

theorem incoming_reservedState (need : Nat) (s : State) (j : RosterIndex) :
    (entryOf (reservedState need s) j).incoming = (entryOf s j).incoming := by
  unfold reservedState
  rw [incoming_lowWaterTest]
  exact incoming_reclaimAtOpen need s j

theorem trainOf_reservedState (need : Nat) (s : State) (l : Link) : trainOf (reservedState need s) l = trainOf s l := by
  unfold trainOf
  rw [reservedState_only]

/-- Settles O27: the checks passed and the blocks reserved, the head opens its train, by what it supersedes. -/
theorem tileHeadOpensATrain : Obligations.TileHeadOpensATrain := by
  refine ⟨fun s l code w x v h hx hv => ?_, ?_⟩
  · have hp := passes_voidTrain h l (some .superseded)
    refine ⟨voidTrain l (some .superseded) s, voidTrain_voided hx hv, hp, ?_⟩
    rw [exec_tileHead h, exec_tileHead hp]
    unfold takeTileHead
    dsimp only
    rw [voidTrain_of_idle (trainOf_voidTrain_same l _ s)]
  · intro s l code w i n h hlen ht h0 hli hid huniq hw hn ho width height need g1 g2 g3 g4 g5 g6 g7 g8 room hroom
      reserved opened apart
    have hi : indexOfStudent s (BitVec.ofNat 32 (be32 w.payload 0)) = some i := by
      refine indexOfStudent_eq_some (fun h => h0 ?_) hli hid fun j hj hij => huniq j hj (hij.trans hid.symm)
      have hlt : be32 w.payload 0 < 2 ^ 32 := by
        have hb : ∀ k, byteAt w.payload k < 256 := fun k => (w.payload.getD k 0).isLt
        have := hb 0
        have := hb (0 + 1)
        have := hb (0 + 2)
        have := hb (0 + 2 + 1)
        unfold be32 be16
        omega
      have := congrArg BitVec.toNat h
      rw [BitVec.toNat_ofNat, Nat.mod_eq_of_lt hlt] at this
      exact this
    have hcheck : checkHead w.payload s = .passed i n := by
      rw [checkHead_shape hlen hi hw (sessionNumber_of_eq hn) ho, if_pos]
      exact (geometryFits_iff _).2 ⟨g1, g2, g3, g4, g5, g6, g7, g8⟩
    have hfree : room = reclaimAtOpen need s := rfl
    have hres : reserved = reservedState need s := reservedState_of_room hfree
    have hexec : exec (.tileHead l code w) s = .next (opened (dropIncoming i .superseded reserved)) := by
      have hneed : blocksNeeded (readTileHead w.payload).width (readTileHead w.payload).height = need := rfl
      have hroom' : need ≤ (reclaimAtOpen need s).store.freeCount := hfree ▸ hroom
      rw [exec_tileHead h, takeTileHead_passed ht hcheck, reserveAndOpen_opened hneed hroom', ← hres, ← hfree]
      rfl
    have htrain : ∀ m, trainOf reserved m = trainOf s m := fun m => by rw [hres, trainOf_reservedState]
    have hinc : (entryOf reserved i).incoming = (entryOf s i).incoming := by rw [hres, incoming_reservedState]
    have hapart : apart → ∀ m x, trainOf reserved m = some x → x.index ≠ i := fun ha m x hx => by
      rw [htrain] at hx
      by_cases hm : m = l
      · rw [hm, ht] at hx
        cases hx
      · exact ha x (by rwa [← show m = l.other by cases m <;> cases l <;> first | rfl | exact absurd rfl hm])
    refine ⟨fun ha hnone => ?_, fun v ha hv => ?_, fun x v hx hxi hv => ?_⟩
    · rw [hexec, dropIncoming_of_apart (hapart ha), freeIncoming_of_none (hinc.trans hnone)]
    · refine ⟨_, hexec, ?_⟩
      rw [dropIncoming_of_apart (hapart ha)]
      exact freeIncoming_returns (hinc.trans hv)
    · refine ⟨_, hexec, ?_⟩
      rw [dropIncoming_of_train (l := l.other) (by rw [htrain]; exact hx) hxi (by rw [Link.other_other, htrain]; exact ht)]
      have hx' : trainOf reserved l.other = some x := by rw [htrain]; exact hx
      exact voidTrain_voided hx' (by rw [hxi]; exact hinc.trans hv)

/-! ## Refusals -/

/-- What a refusal leaves of the state it is made on (R24, R49). -/
theorem refuseHead_only (l : Link) (o : Delivery) (id : BitVec 32) (i : Option RosterIndex) (s : State) :
    refuseHead l o id i s =
      { s with
        intake.log :=
          s.intake.log.set (logSlot s.intake.nextSequence)
            (some
              { sequence := s.intake.nextSequence, index := i, studentId := id, link := l, opened := true
                closed := true, openMark := s.timeMark, closeMark := some s.timeMark, rows := 0, outcome := some o
                late := false, called := false })
        intake.nextSequence := s.intake.nextSequence + 1
        ports := (refuseHead l o id i s).ports
        notices := (refuseHead l o id i s).notices } := by
  unfold refuseHead
  rw [latchKind_only]
  rfl

theorem latchStoreLow_only (s : State) :
    latchStoreLow s = { s with ports := (latchStoreLow s).ports, notices := (latchStoreLow s).notices } := by
  unfold latchStoreLow
  split
  · rw [latchKind_only]
  · rfl

/-- Settles O28: the first check of a head that fails names its refusal; NO_ROOM follows a reclaim. -/
theorem tileHeadIsRefused : Obligations.TileHeadIsRefused := by
  intro s l code w h ht id width height unlisted named noSession badShape refused refuses
  have hrefuse : ∀ {o : Delivery} {id : BitVec 32} {i : Option RosterIndex},
      checkHead w.payload s = .refused o id i → refuses o id i := fun {o id i} hc => by
    refine ⟨refuseHead l o id i s, by rw [exec_tileHead h, takeTileHead_refused ht hc], ?_, ?_, ?_, ?_,
      latchKind_holds _ _, ?_⟩
    · rw [refuseHead_only]
      rfl
    · rw [refuseHead_only]
    · rw [refuseHead_only]
    · rw [refuseHead_only]
    · rw [refuseHead_only]
  refine ⟨fun hl => hrefuse (checkHead_short hl), fun hl => ⟨fun hu => hrefuse (checkHead_unlisted hl (indexOfStudent_eq_none hu)),
    fun i hi => ?_⟩⟩
  obtain ⟨h0, hli, hid, huniq⟩ := hi
  have hindex : indexOfStudent s id = some i := indexOfStudent_eq_some h0 hli hid huniq
  refine ⟨fun hw => hrefuse (checkHead_withheld hl hindex hw), fun hw => ⟨fun hn => ?_, fun hn => ?_⟩⟩
  · rcases hn with hn | ⟨n, hn, htone⟩
    · exact hrefuse (checkHead_sessionless hl hindex hw (sessionNumber_of_le hn))
    · exact hrefuse (checkHead_toneless hl hindex hw (sessionNumber_of_eq hn) htone)
  · have hlt : byteAt w.payload 4 < 16 := Nat.lt_of_not_le fun hle => hn (.inl hle)
    have hsession : sessionNumber (byteAt w.payload 4) = some ⟨byteAt w.payload 4, hlt⟩ := sessionNumber_of_eq rfl
    have htone : s.tables.tones[(⟨byteAt w.payload 4, hlt⟩ : Fin 16)] ≠ none := fun he => hn (.inr ⟨_, rfl, he⟩)
    have hshape := checkHead_shape hl hindex hw hsession htone
    refine ⟨fun hb => hrefuse ?_, ?_⟩
    · rw [hshape, if_neg fun hg => hb ((geometryFits_iff _).1 hg)]
    · intro hb need room hless hroom
      rw [if_pos ((geometryFits_iff _).2 (not_not.1 hb))] at hshape
      have hopen : reclaimAtOpen need s = room := if_pos hless
      have hexec : exec (.tileHead l code w) s = .next (latchStoreLow (refuseHead l .noRoom id (some i) room)) := by
        rw [exec_tileHead h, takeTileHead_passed ht hshape,
          reserveAndOpen_refuses (h := readTileHead w.payload) (by rw [← hopen] at hroom; exact hroom)]
        rw [← hopen]
        rfl
      have hr : room = { s with
          intake.directory := room.intake.directory, store := { room.store with bytes := s.store.bytes } } :=
        reclaim_only need s
      refine ⟨_, hexec, ⟨?_, ?_, ?_, ?_, ?_, ?_⟩, ?_⟩
      · rw [latchStoreLow_only, refuseHead_only, hr]
        rfl
      · rw [latchStoreLow_only, refuseHead_only, hr]
      · rw [latchStoreLow_only, refuseHead_only]
      · rw [latchStoreLow_only, refuseHead_only, hr]
      · unfold latchStoreLow
        split
        · exact latchKind_keeps _ (latchKind_holds _ _)
        · exact latchKind_holds _ _
      · rw [latchStoreLow_only, refuseHead_only]
      · have hcount : (refuseHead l .noRoom id (some i) room).store = room.store := by rw [refuseHead_only]
        have hset : (refuseHead l .noRoom id (some i) room).tables = s.tables := by rw [refuseHead_only, hr]
        have hlow : holdsKind (refuseHead l .noRoom id (some i) room).notices.latched .storeLow =
            holdsKind s.notices.latched .storeLow := by
          unfold refuseHead
          rw [latchKind_other (j := .storeLow) (k := .trainFault) nofun]
          show holdsKind room.notices.latched .storeLow = _
          rw [hr]
        unfold latchStoreLow
        rw [hcount, hset]
        split
        · next hc => exact iff_of_true (latchKind_holds _ _) (.inr hc)
        · next hc =>
          rw [hlow]
          exact ⟨.inl, fun hor => hor.resolve_right hc⟩

end Sys2Proof.Machine
end

section
/-!
Tile bodies: the row that is stored, and the train that closes (sections 2.2 and 2.3).
-/

namespace Sys2Proof.Machine

theorem exec_tileBody {s : State} {l : Link} {code : Byte} {w : Wire} (h : Passes s l 2 code w) :
    exec (.tileBody l code w) s = .next (takeTileBody l w s) :=
  congrArg Host.Outcome.next (arrive_of_passes h (by decide) nofun _)

/-! ## Bytes of a version -/

/-- Two bytes within the blocks of a version have different addresses (R52). -/
theorem tileAddress_injective {blocks : List Nat} (hn : blocks.Nodup) {m n a : Nat} (hm : tileAddress blocks m = some a)
    (ha : tileAddress blocks n = some a) : m = n := by
  unfold tileAddress Config.blockBytes at hm ha
  obtain ⟨b, hb, hba⟩ := Option.map_eq_some_iff.1 hm
  obtain ⟨c, hc, hca⟩ := Option.map_eq_some_iff.1 ha
  have hbc : b = c := by omega
  subst hbc
  obtain ⟨hi, hbi⟩ := List.getElem?_eq_some_iff.1 hb
  obtain ⟨hj, hcj⟩ := List.getElem?_eq_some_iff.1 hc
  have hij := (List.Nodup.getElem_inj_iff hn).1 (hbi.trans hcj.symm)
  omega

theorem tileAddress_isSome {blocks : List Nat} {n : Nat} (h : n < blocks.length * 65536) :
    ∃ a, tileAddress blocks n = some a := by
  have hi : n / Config.blockBytes < blocks.length := Nat.div_lt_of_lt_mul (by unfold Config.blockBytes; omega)
  unfold tileAddress
  rw [List.getElem?_eq_getElem hi]
  exact ⟨_, rfl⟩

/-- Bytes written to a version read back (R52). -/
theorem readVersion_writeVersion {blocks : List Nat} (hn : blocks.Nodup) (bs : List Byte) :
    ∀ {m : List Host.Cell} (n k : Nat), Memory.wf m = true → n + bs.length ≤ blocks.length * 65536 →
    (hk : k < bs.length) → readVersion blocks (writeVersion blocks m n bs) (n + k) = bs[k] := by
  induction bs with
  | nil =>
    intro m n k _ _ hk
    exact absurd hk (Nat.not_lt_zero k)
  | cons b bs ih =>
    intro m n k hm hlen hk
    rw [List.length_cons] at hlen hk
    obtain ⟨a, ha⟩ := tileAddress_isSome (blocks := blocks) (n := n) (by omega)
    have hw : writeVersion blocks m n (b :: bs) = writeVersion blocks (writeByte m a b) (n + 1) bs := by
      conv_lhs => unfold writeVersion
      rw [ha]
    have hwf := wf_writeByte hm a b
    rw [hw]
    cases k with
    | zero =>
      unfold readVersion
      rw [Nat.add_zero, ha]
      show readByte _ a = b
      rw [readByte_writeVersion_ne blocks bs (n + 1) a hwf fun j _ hj => by
        have := tileAddress_injective hn hj ha
        omega]
      exact readByte_writeByte_same m 0 a b (rising_of_wf hm)
    | succ k =>
      rw [show n + (k + 1) = n + 1 + k by omega]
      exact ih (n + 1) k hwf (by omega) (by omega)

/-! ## Toning -/

/-- The table of the channel of byte `k` of a row (R18). -/
def channelTable (t : ToneSet) (k : Nat) : Vector Byte 256 :=
  match k % 3 with
  | 0 => t.red
  | 1 => t.green
  | _ => t.blue

theorem length_toneRow (t : ToneSet) (bs : List Byte) : (toneRow t bs).length = bs.length := by
  induction bs using toneRow.induct with
  | case1 r g b rest ih =>
    unfold toneRow
    simp only [List.length_cons, ih]
  | case2 bs h =>
    unfold toneRow
    split
    · next r g b rest => exact absurd rfl (h r g b rest)
    · rfl

/-- A whole row is toned byte for byte, each by its channel's table (R18, R28). -/
theorem getElem?_toneRow (t : ToneSet) (bs : List Byte) : bs.length % 3 = 0 → ∀ k,
    (toneRow t bs)[k]? = bs[k]?.map (tone (channelTable t k)) := by
  induction bs using toneRow.induct with
  | case1 r g b rest ih =>
    intro h k
    have hrest : rest.length % 3 = 0 := by
      simp only [List.length_cons] at h
      omega
    unfold toneRow
    match k with
    | 0 => rfl
    | 1 => rfl
    | 2 => rfl
    | k + 3 =>
      have hc : channelTable t (k + 3) = channelTable t k := by
        unfold channelTable
        rw [Nat.add_mod_right]
      show (toneRow t rest)[k]? = rest[k]?.map _
      rw [ih hrest, hc]
  | case2 bs h =>
    intro hl k
    have hnil : bs = [] := by
      match bs with
      | [] => rfl
      | [a] => simp at hl
      | [a, b] => simp at hl
      | a :: b :: c :: r => exact absurd rfl (h a b c r)
    subst hnil
    rfl

/-! ## The train that a body meets -/

/-- The state `u` is `s` but for bytes and what a row received changes of the open train of link `l`, which is `x` and
fills `v` in it. -/
structure Meets (l : Link) (x : Train) (v : Version) (s u : State) : Prop where
  train : ∃ y, trainOf u l = some y ∧ y.index = x.index ∧ y.record = x.record
  other : trainOf u l.other = trainOf s l.other
  entry : entryOf u x.index = { entryOf s x.index with incoming := some { version := v, state := .filling } }
  entries : ∀ j, j ≠ x.index → entryOf u j = entryOf s j
  log : u.intake.log = s.intake.log
  only : u = { s with intake := u.intake, store.bytes := u.store.bytes }

theorem Meets.refl {l : Link} {x : Train} {v : Version} {s : State} (hx : trainOf s l = some x)
    (hv : (entryOf s x.index).incoming = some { version := v, state := .filling }) : Meets l x v s s where
  train := ⟨x, hx, rfl, rfl⟩
  other := rfl
  entry := by rw [← hv]
  entries _ _ := rfl
  log := rfl
  only := rfl

/-- The state once the expected row has been stored (R28, R31). -/
def storedState (l : Link) (x : Train) (v : Version) (w : Wire) (s : State) : State :=
  setTrain l (some { x with lastRow := some (bodyRow w.payload), gapTimer := 0 }) (storeRow x.index v w s)

theorem storedState_meets (l : Link) (x : Train) (v : Version) (w : Wire) (s : State) :
    Meets l x (rowReceived w.poisoned v) s (storedState l x v w s) where
  train := ⟨_, trainOf_setTrain_same l _ _, rfl, rfl⟩
  other := by
    unfold storedState
    rw [trainOf_setTrain_other]
    rfl
  entry := by
    unfold storedState
    rw [entryOf_setTrain, entryOf_storeRow, if_pos rfl]
  entries j hj := by
    unfold storedState
    rw [entryOf_setTrain, entryOf_storeRow, if_neg hj]
  log := rfl
  only := rfl

section
variable {s : State} {l : Link} {x : Train} {v : Version} (hx : trainOf s l = some x)
  (hv : (entryOf s x.index).incoming = some { version := v, state := .filling }) (w : Wire)
include hx hv

theorem takeTileBody_expected (hk : bodyKind v x.lastRow w.payload = .expected) : takeTileBody l w s =
    if w.last then closeTrain l true (storedState l x v w s) else storedState l x v w s := by
  unfold takeTileBody
  rw [hx]
  dsimp only
  rw [hv]
  dsimp only
  rw [hk]
  rfl

theorem takeTileBody_duplicate (hk : bodyKind v x.lastRow w.payload = .duplicate) : takeTileBody l w s =
    if w.last then closeTrain l true s else setTrain l (some { x with gapTimer := 0 }) s := by
  unfold takeTileBody
  rw [hx]
  dsimp only
  rw [hv]
  dsimp only
  rw [hk]

theorem takeTileBody_outOfSequence (hk : bodyKind v x.lastRow w.payload = .outOfSequence) :
    takeTileBody l w s = closeTrain l false s := by
  unfold takeTileBody
  rw [hx]
  dsimp only
  rw [hv]
  dsimp only
  rw [hk]

end

section
variable {v : Version} {last : Option Nat} {p : List Byte}

theorem bodyKind_expected (hl : p.length = 2 + v.width * 3) (hr : be16 p 0 = v.rows) (hh : v.rows < v.height) :
    bodyKind v last p = .expected := by
  unfold bodyKind
  rw [if_neg (not_not.2 hl)]
  exact if_pos ⟨hh, hr⟩

theorem bodyKind_duplicate (hl : p.length = 2 + v.width * 3) (he : ¬(be16 p 0 = v.rows ∧ v.rows < v.height))
    (hd : last = some (be16 p 0)) : bodyKind v last p = .duplicate := by
  unfold bodyKind
  rw [if_neg (not_not.2 hl), if_neg fun h => he ⟨h.2, h.1⟩]
  exact if_pos hd

theorem bodyKind_outOfSequence (he : ¬(p.length = 2 + v.width * 3 ∧ be16 p 0 = v.rows ∧ v.rows < v.height))
    (hd : ¬(p.length = 2 + v.width * 3 ∧ last = some (be16 p 0))) : bodyKind v last p = .outOfSequence := by
  unfold bodyKind
  by_cases hl : p.length = 2 + v.width * 3
  · rw [if_neg (not_not.2 hl), if_neg fun h => he ⟨hl, h.2, h.1⟩]
    exact if_neg fun h => hd ⟨hl, h⟩
  · exact if_pos hl

end

/-! ## Closing -/

/-- A version at its close (R33, R37). -/
def closedVersion (v : Version) (m : Mark) (late : Bool) : Version := { v with closeMark := some m, late := v.late || late }

theorem lateSeat_congr {s u : State} (hs : u.scheduler = s.scheduler) (ht : u.tables = s.tables) (i : RosterIndex) :
    lateSeat u i = lateSeat s i := by
  unfold lateSeat printingOrder decisionFor planOf
  rw [hs, ht]

theorem completeRecord_only (q : BitVec 32) (rows : Nat) (o : Delivery) (late called : Bool) (s : State) :
    completeRecord q rows o late called s =
      { s with intake.log := (completeRecord q rows o late called s).intake.log } := changeRecord_only _ _ _

theorem completeRecord_some {q : BitVec 32} {rows : Nat} {o : Delivery} {late called : Bool} {s : State}
    {r : DeliveryRecord} (hr : s.intake.log[logSlot q] = some r) (hq : r.sequence = q) :
    (completeRecord q rows o late called s).intake.log[logSlot q] = some { r with
      closed := true, closeMark := some s.timeMark, rows := rows, outcome := some o, late := late, called := called } :=
  changeRecord_some _ hr hq

theorem entryOf_completeRecord (q : BitVec 32) (rows : Nat) (o : Delivery) (late called : Bool) (s : State)
    (i : RosterIndex) : entryOf (completeRecord q rows o late called s) i = entryOf s i :=
  (changeRecord_leaves _ _ _ _).2

theorem noteLate_only (seat : Option Nat) (s : State) : noteLate seat s =
    { s with
      scheduler.impression := (noteLate seat s).scheduler.impression
      notices := (noteLate seat s).notices
      ports := (noteLate seat s).ports } := by
  cases seat with
  | none => rfl
  | some n =>
    unfold noteLate modImpression
    rw [latchKind_only]

theorem entryOf_noteLate (seat : Option Nat) (s : State) (i : RosterIndex) : entryOf (noteLate seat s) i = entryOf s i := by
  unfold entryOf
  rw [noteLate_only]

theorem scheduler_noteLate (n : Nat) (s : State) : (noteLate (some n) s).scheduler =
    { s.scheduler with
      impression := s.scheduler.impression.map fun c =>
        { c with lateSeats := if n ∈ c.lateSeats then c.lateSeats else c.lateSeats ++ [n] } } := by
  unfold noteLate modImpression
  rw [latchKind_only]
  rfl

theorem latched_noteLate (n : Nat) (s : State) : holdsKind (noteLate (some n) s).notices.latched .tileLate = true :=
  latchKind_holds _ _

theorem latched_noteLate_keeps (seat : Option Nat) {s : State} {k : NoticeKind}
    (h : holdsKind s.notices.latched k = true) : holdsKind (noteLate seat s).notices.latched k = true := by
  cases seat with
  | none => exact h
  | some n => exact latchKind_keeps .tileLate h

section
variable {s u : State} {l : Link} {x : Train} {v : Version} (hm : Meets l x v s u)
include hm

/-- A train that closes DAMAGED (R33, R35). -/
theorem closeTrain_damaged {b : Bool} (hb : b = false ∨ v.rows ≠ v.height ∨ v.poisonedSeen = true) :
    closeTrain l b u =
      let late := lateSeat s x.index
      completeRecord x.record v.rows .damaged late.isSome false
        (noteLate late
          (fileDamaged x.index (closedVersion v s.timeMark late.isSome) (setTrain l none u)).1) := by
  obtain ⟨y, hy, hyi, hyr⟩ := hm.train
  have hready : (b && decide (v.rows = v.height) && !v.poisonedSeen) = false := by
    rcases hb with hb | hb | hb
    · rw [hb]
      rfl
    · rw [decide_eq_false hb, Bool.and_false]
      rfl
    · rw [hb, Bool.not_true, Bool.and_false]
  have hmark : (setTrain l none u).timeMark = s.timeMark := by
    rw [hm.only]
    rfl
  have hlate : lateSeat (setTrain l none u) x.index = lateSeat s x.index :=
    lateSeat_congr (by rw [hm.only]; rfl) (by rw [hm.only]; rfl) _
  unfold closeTrain
  rw [hy]
  dsimp only
  rw [hyi, hyr, entryOf_setTrain, hm.entry]
  dsimp only
  rw [hready, hmark, hlate]
  rfl

/-- A train that closes READY (R33, R34, R36). -/
theorem closeTrain_ready (hr : v.rows = v.height) (hp : v.poisonedSeen = false) :
    closeTrain l true u =
      let late := lateSeat s x.index
      let filed := fileReady x.index (closedVersion v s.timeMark late.isSome) (setTrain l none u)
      completeRecord x.record v.rows filed.2 late.isSome (answerCalls x.index filed.1).2
        (noteLate late (answerCalls x.index filed.1).1) := by
  obtain ⟨y, hy, hyi, hyr⟩ := hm.train
  have hready : (true && decide (v.rows = v.height) && !v.poisonedSeen) = true := by
    rw [decide_eq_true hr, hp]
    rfl
  have hmark : (setTrain l none u).timeMark = s.timeMark := by
    rw [hm.only]
    rfl
  have hlate : lateSeat (setTrain l none u) x.index = lateSeat s x.index :=
    lateSeat_congr (by rw [hm.only]; rfl) (by rw [hm.only]; rfl) _
  unfold closeTrain
  rw [hy]
  dsimp only
  rw [hyi, hyr, entryOf_setTrain, hm.entry]
  dsimp only
  rw [hready, hmark, hlate]
  rfl

end

/-! ## Filing: the frame -/

section
variable (i : RosterIndex) (v : Version) (s : State)

theorem fileReady_only : (fileReady i v s).1 =
    { s with
      intake.directory := (fileReady i v s).1.intake.directory
      store := { (fileReady i v s).1.store with bytes := s.store.bytes } } := by
  unfold fileReady
  split
  · rfl
  · dsimp only
    split
    · unfold becomeHeld setEntry
      rw [freeHeld_only]
      rfl
    · rfl

theorem fileDamaged_only : (fileDamaged i v s).1 =
    { s with
      intake.directory := (fileDamaged i v s).1.intake.directory
      store := { (fileDamaged i v s).1.store with bytes := s.store.bytes }
      notices := (fileDamaged i v s).1.notices
      ports := (fileDamaged i v s).1.ports } := by
  unfold fileDamaged
  dsimp only
  rw [latchKind_only]
  split
  · rfl
  · split
    · unfold becomeHeld setEntry
      rw [freeHeld_only]
      rfl
    · rfl

theorem fault_fileDamaged : holdsKind (fileDamaged i v s).1.notices.latched .trainFault = true := latchKind_holds _ _

end

section
variable {i : RosterIndex} {v : Version} {s : State}

theorem latched_fileDamaged {k : NoticeKind} (hk : k ≠ .trainFault) :
    holdsKind (fileDamaged i v s).1.notices.latched k = holdsKind s.notices.latched k := by
  unfold fileDamaged
  rw [latchKind_other hk]
  split
  · rfl
  · split
    · unfold becomeHeld setEntry
      rw [freeHeld_only]
      rfl
    · rfl

theorem store_fileDamaged_none (h : (entryOf s i).held = none) :
    (fileDamaged i v s).1.store = { s.store with arrival := s.store.arrival ++ [i] } := by
  unfold fileDamaged
  dsimp only
  rw [h, latchKind_only]
  rfl

theorem freeHeld_emptyIncoming {h : Held} (hh : (entryOf s i).held = some h) :
    (freeHeld i (emptyIncoming i s)).store.freeCount = s.store.freeCount + h.version.blocks.length
      ∧ (∀ b, (freeHeld i (emptyIncoming i s)).store.freeList.count b =
          s.store.freeList.count b + h.version.blocks.count b)
      ∧ (freeHeld i (emptyIncoming i s)).store.arrival = s.store.arrival.filter fun j => decide (j ≠ i) := by
  have hh' : (entryOf (emptyIncoming i s) i).held = some h := by
    unfold emptyIncoming
    rw [entryOf_setEntry_same]
    exact hh
  exact freeHeld_some hh'

/-- A DAMAGED result takes the place of a DAMAGED one (R35). -/
theorem store_fileDamaged_damaged {h : Held} (hh : (entryOf s i).held = some h) (hs : h.state = .damaged) :
    (fileDamaged i v s).1.store.freeCount = s.store.freeCount + h.version.blocks.length
      ∧ (∀ b, (fileDamaged i v s).1.store.freeList.count b = s.store.freeList.count b + h.version.blocks.count b)
      ∧ (fileDamaged i v s).1.store.arrival = (s.store.arrival.filter fun j => decide (j ≠ i)) ++ [i] := by
  obtain ⟨h1, h2, h3⟩ := freeHeld_emptyIncoming hh
  unfold fileDamaged
  rw [hh]
  dsimp only
  rw [hs, latchKind_only]
  exact ⟨h1, h2, congrArg (· ++ [i]) h3⟩

/-- A DAMAGED result is freed beside a READY one (R35). -/
theorem store_fileDamaged_ready {h : Held} (hh : (entryOf s i).held = some h) (hs : h.state = .ready) :
    (fileDamaged i v s).1.store.freeCount = s.store.freeCount + v.blocks.length
      ∧ (∀ b, (fileDamaged i v s).1.store.freeList.count b = s.store.freeList.count b + v.blocks.count b)
      ∧ (fileDamaged i v s).1.store.arrival = s.store.arrival := by
  unfold fileDamaged
  rw [hh]
  dsimp only
  rw [hs, latchKind_only]
  exact ⟨rfl, fun b => count_insertBlocks b _ _, rfl⟩

theorem fileReady_none (h : (entryOf s i).held = none) :
    (fileReady i v s).1.store = { s.store with arrival := s.store.arrival ++ [i] }
      ∧ (fileReady i v s).2 = .accepted := by
  unfold fileReady
  rw [h]
  exact ⟨rfl, rfl⟩

/-- A READY result replaces an unlocked one (R34). -/
theorem fileReady_unlocked {h : Held} (hh : (entryOf s i).held = some h) (hs : h.lock = 0) :
    (fileReady i v s).1.store.freeCount = s.store.freeCount + h.version.blocks.length
      ∧ (∀ b, (fileReady i v s).1.store.freeList.count b = s.store.freeList.count b + h.version.blocks.count b)
      ∧ (fileReady i v s).1.store.arrival = (s.store.arrival.filter fun j => decide (j ≠ i)) ++ [i] := by
  obtain ⟨h1, h2, h3⟩ := freeHeld_emptyIncoming hh
  unfold fileReady
  rw [hh]
  dsimp only
  rw [if_pos hs]
  exact ⟨h1, h2, congrArg (· ++ [i]) h3⟩

theorem fileReady_locked {h : Held} (hh : (entryOf s i).held = some h) (hs : 0 < h.lock) :
    (fileReady i v s).1.store = s.store := by
  unfold fileReady
  rw [hh]
  dsimp only
  rw [if_neg (by omega)]
  rfl

theorem fileReady_outcome : (fileReady i v s).2 = if (entryOf s i).held = none then .accepted else .retake := by
  unfold fileReady
  cases (entryOf s i).held with
  | none => rfl
  | some h =>
    dsimp only
    rw [if_neg (c := some h = none) nofun]
    split <;> rfl

end

/-- The close of a train leaves the bytes of tile memory. -/
theorem bytes_closeTrain (l : Link) (b : Bool) (s : State) : (closeTrain l b s).store.bytes = s.store.bytes := by
  unfold closeTrain
  split
  · rfl
  · next x hx =>
    dsimp only
    split
    · rfl
    · rw [completeRecord_only]
      show (noteLate _ _).store.bytes = _
      rw [noteLate_only]
      dsimp only
      split
      · show (fileReady _ _ _).1.store.bytes = _
        rw [fileReady_only]
        rfl
      · show (fileDamaged _ _ _).1.store.bytes = _
        rw [fileDamaged_only]
        rfl

end Sys2Proof.Machine
end

section
/-!
The statements about tile bodies and train expiries (sections 2.2 to 2.4).
-/

namespace Sys2Proof.Machine

/-- A close is late exactly when the printing order has a seat that it is late for (R37). -/
theorem isSome_lateSeat {s : State} {i : RosterIndex} {late : Bool} (h : late = true ↔ ∃ n, LateFor s i n) :
    (lateSeat s i).isSome = late := by
  rw [Bool.eq_iff_iff, h, Option.isSome_iff_exists]
  exact exists_congr fun n => lateSeat_iff s i n

/-- The row of a body that passes, byte by byte (R18, R28). -/
theorem tonedBytes_row {s : State} {n : Fin 16} {tones : ToneSet} {p : List Byte} {k width : Nat}
    (ht : s.tables.tones[n] = some tones) (hl : p.length = 2 + width * 3) (hk : k < width * 3) :
    (tonedBytes s n (bodyBytes p))[k]? = some (tone (channelTable tones k) (p.getD (2 + k) 0)) := by
  have hd : (bodyBytes p).length = width * 3 := by
    unfold bodyBytes
    rw [List.length_drop, hl]
    omega
  unfold tonedBytes
  rw [ht]
  show (toneRow tones (bodyBytes p))[k]? = _
  rw [getElem?_toneRow tones _ (by rw [hd]; exact Nat.mul_mod_left _ _)]
  unfold bodyBytes
  rw [List.getElem?_drop, List.getD_eq_getElem?_getD, List.getElem?_eq_getElem (by omega)]
  rfl

theorem length_tonedBytes {s : State} {n : Fin 16} {tones : ToneSet} {p : List Byte} {width : Nat}
    (ht : s.tables.tones[n] = some tones) (hl : p.length = 2 + width * 3) :
    (tonedBytes s n (bodyBytes p)).length = width * 3 := by
  unfold tonedBytes
  rw [ht]
  show (toneRow tones (bodyBytes p)).length = _
  rw [length_toneRow]
  unfold bodyBytes
  rw [List.length_drop, hl]
  omega

/-- Settles O29: the expected row is written at its place and reads back toned; a close leaves the bytes. -/
theorem expectedRowIsStored : Obligations.ExpectedRowIsStored := by
  intro s l code w x v tones h hx hv hl hr hh ht hwf hn hfits first
  have hexec : exec (.tileBody l code w) s =
      .next (if w.last then closeTrain l true (storedState l x v w s) else storedState l x v w s) := by
    rw [exec_tileBody h, takeTileBody_expected hx hv w (bodyKind_expected hl hr hh)]
  have hrow := length_tonedBytes (s := s) ht hl
  have hbytes : (if w.last then closeTrain l true (storedState l x v w s) else storedState l x v w s).store.bytes =
      writeVersion v.blocks s.store.bytes first (tonedBytes s v.session (bodyBytes w.payload)) := by
    split
    · rw [bytes_closeTrain]
      rfl
    · rfl
  have hend : first + v.width * 3 ≤ v.blocks.length * 65536 := by
    have : (v.rows + 1) * (v.width * 3) ≤ v.height * (v.width * 3) := Nat.mul_le_mul_right _ hh
    calc first + v.width * 3 = (v.rows + 1) * (v.width * 3) := by
          show v.rows * v.width * 3 + v.width * 3 = _
          ring
      _ ≤ v.height * (v.width * 3) := this
      _ = v.width * v.height * 3 := by ring
      _ ≤ v.blocks.length * 65536 := hfits
  refine ⟨_, hexec, fun k hk => ?_, fun a ha => ?_, fun hlast => ?_⟩
  · have hk' : k < (tonedBytes s v.session (bodyBytes w.payload)).length := by rw [hrow]; exact hk
    rw [hbytes, readVersion_writeVersion hn _ first k hwf (by rw [hrow]; exact hend) hk']
    have hget := tonedBytes_row (s := s) ht hl hk
    rw [List.getElem?_eq_getElem hk'] at hget
    exact Option.some.inj hget
  · rw [hbytes]
    exact readByte_writeVersion_ne _ _ first a hwf fun k hk => ha k (by rwa [hrow] at hk)
  · rw [hlast, if_neg nofun]
    unfold storedState bodyRow
    rw [hr]
    rfl

/-! ## A train that has closed -/

/-- The state once a filed train has met the LATE test and its record is complete (R37, R50). -/
def closedState (s : State) (x : Train) (rows : Nat) (o : Delivery) (called : Bool) (f : State) : State :=
  completeRecord x.record rows o (lateSeat s x.index).isSome called (noteLate (lateSeat s x.index) f)

section
variable (s : State) (x : Train) (rows : Nat) (o : Delivery) (called : Bool) (f : State)

theorem closedState_only : closedState s x rows o called f =
    { f with
      intake.log := (closedState s x rows o called f).intake.log
      scheduler.impression := (closedState s x rows o called f).scheduler.impression
      notices := (closedState s x rows o called f).notices
      ports := (closedState s x rows o called f).ports } := by
  unfold closedState
  rw [completeRecord_only, noteLate_only]

theorem entryOf_closedState (j : RosterIndex) : entryOf (closedState s x rows o called f) j = entryOf f j := by
  unfold entryOf
  rw [closedState_only]

theorem trainOf_closedState (m : Link) : trainOf (closedState s x rows o called f) m = trainOf f m := by
  unfold trainOf
  rw [closedState_only]

theorem store_closedState : (closedState s x rows o called f).store = f.store := by rw [closedState_only]

variable {s x rows o called f}

theorem latched_closedState {k : NoticeKind} (h : holdsKind f.notices.latched k = true) :
    holdsKind (closedState s x rows o called f).notices.latched k = true := by
  unfold closedState
  rw [completeRecord_only]
  exact latched_noteLate_keeps _ h

/-- A late close (R37, R74). -/
theorem closedState_late {n : Nat} (hn : LateFor s x.index n) :
    holdsKind (closedState s x rows o called f).notices.latched .tileLate = true
      ∧ (closedState s x rows o called f).scheduler =
          { f.scheduler with
            impression := f.scheduler.impression.map fun c =>
              { c with lateSeats := if n ∈ c.lateSeats then c.lateSeats else c.lateSeats ++ [n] } } := by
  unfold closedState
  rw [completeRecord_only, (lateSeat_iff s x.index n).2 hn]
  exact ⟨latched_noteLate n f, scheduler_noteLate n f⟩

theorem closedState_punctual (h : (lateSeat s x.index).isSome = false) :
    (closedState s x rows o called f).scheduler = f.scheduler
      ∧ (closedState s x rows o called f).notices = f.notices := by
  unfold closedState
  rw [completeRecord_only, Option.isSome_eq_false_iff.1 h |> Option.isNone_iff_eq_none.1]
  exact ⟨rfl, rfl⟩

theorem log_closedState {r : DeliveryRecord} (hr : f.intake.log[logSlot x.record] = some r) (hq : r.sequence = x.record) :
    (closedState s x rows o called f).intake.log[logSlot x.record] = some { r with
      closed := true, closeMark := some f.timeMark, rows := rows, outcome := some o
      late := (lateSeat s x.index).isSome, called := called } := by
  have hr' : (noteLate (lateSeat s x.index) f).intake.log[logSlot x.record] = some r := by
    rw [noteLate_only]
    exact hr
  have ht : (noteLate (lateSeat s x.index) f).timeMark = f.timeMark := by rw [noteLate_only]
  rw [← ht]
  exact completeRecord_some hr' hq

end

/-! ## A train that closes DAMAGED -/

/-- The state once the version of a train that closes DAMAGED has been filed (R35). -/
def damagedState (l : Link) (x : Train) (u : Version) (late : Bool) (s s' : State) : State :=
  (fileDamaged x.index (closedVersion u s.timeMark late) (setTrain l none s')).1

section
variable {l : Link} {x : Train} {u : Version} {s s' : State} (hm : Meets l x u s s') (late : Bool)
include hm

theorem held_metTrain : (entryOf (setTrain l none s') x.index).held = (entryOf s x.index).held := by
  rw [entryOf_setTrain, hm.entry]

theorem store_metTrain : (setTrain l none s').store = { s.store with bytes := s'.store.bytes } := by
  rw [hm.only]
  rfl

theorem damagedState_only : damagedState l x u late s s' =
    { s with
      intake := (damagedState l x u late s s').intake
      store := { (damagedState l x u late s s').store with bytes := s'.store.bytes }
      notices := (damagedState l x u late s s').notices
      ports := (damagedState l x u late s s').ports } := by
  have h := fileDamaged_only x.index (closedVersion u s.timeMark late) (setTrain l none s')
  unfold damagedState
  generalize (fileDamaged x.index (closedVersion u s.timeMark late) (setTrain l none s')).1 = f at h ⊢
  rw [h]
  conv_lhs => rw [hm.only]
  rfl

theorem entryOf_damagedState (j : RosterIndex) : entryOf (damagedState l x u late s s') j =
    if j = x.index then filedDamaged (closedVersion u s.timeMark late) (entryOf (setTrain l none s') x.index)
    else entryOf s j := by
  unfold damagedState
  rw [entryOf_fileDamaged]
  split
  · rfl
  · next hj => rw [entryOf_setTrain, hm.entries j hj]

theorem log_damagedState : (damagedState l x u late s s').intake.log = s.intake.log := by
  unfold damagedState
  rw [fileDamaged_only]
  exact hm.log

theorem tileLate_damagedState : holdsKind (damagedState l x u late s s').notices.latched .tileLate =
    holdsKind s.notices.latched .tileLate := by
  unfold damagedState
  rw [latched_fileDamaged (k := .tileLate) nofun, hm.only]
  rfl

theorem trainOf_damagedState : trainOf (damagedState l x u late s s') l = none
    ∧ trainOf (damagedState l x u late s s') l.other = trainOf s l.other := by
  unfold damagedState
  rw [trainOf_fileDamaged, trainOf_fileDamaged, trainOf_setTrain_same, trainOf_setTrain_other]
  exact ⟨rfl, hm.other⟩

/-- Beside a READY version the damaged one is freed. -/
theorem damagedState_ready {h : Held} (hh : (entryOf s x.index).held = some h) (hs : h.state = .ready) :
    entryOf (damagedState l x u late s s') x.index = { held := some h, incoming := none }
      ∧ (damagedState l x u late s s').store.arrival = s.store.arrival
      ∧ (damagedState l x u late s s').store.freeCount = s.store.freeCount + u.blocks.length
      ∧ ∀ b, (damagedState l x u late s s').store.freeList.count b = s.store.freeList.count b + u.blocks.count b := by
  obtain ⟨h1, h2, h3⟩ := store_fileDamaged_ready (v := closedVersion u s.timeMark late) ((held_metTrain hm).trans hh) hs
  rw [store_metTrain hm] at h1 h2 h3
  refine ⟨?_, h3, h1, h2⟩
  rw [entryOf_damagedState hm, if_pos rfl]
  unfold filedDamaged
  rw [held_metTrain hm, hh]
  dsimp only
  rw [hs]

/-- A DAMAGED version gives way to the damaged one. -/
theorem damagedState_damaged {h : Held} (hh : (entryOf s x.index).held = some h) (hs : h.state = .damaged) :
    entryOf (damagedState l x u late s s') x.index =
        { held := some { version := closedVersion u s.timeMark late, state := .damaged, lock := 0 }, incoming := none }
      ∧ (damagedState l x u late s s').store.arrival = (s.store.arrival.filter fun j => decide (j ≠ x.index)) ++ [x.index]
      ∧ (damagedState l x u late s s').store.freeCount = s.store.freeCount + h.version.blocks.length
      ∧ ∀ b, (damagedState l x u late s s').store.freeList.count b =
          s.store.freeList.count b + h.version.blocks.count b := by
  obtain ⟨h1, h2, h3⟩ := store_fileDamaged_damaged (v := closedVersion u s.timeMark late) ((held_metTrain hm).trans hh) hs
  rw [store_metTrain hm] at h1 h2 h3
  refine ⟨?_, h3, h1, h2⟩
  rw [entryOf_damagedState hm, if_pos rfl]
  unfold filedDamaged
  rw [held_metTrain hm, hh]
  dsimp only
  rw [hs]

/-- Where there is none, the damaged version becomes the held one. -/
theorem damagedState_none (hh : (entryOf s x.index).held = none) :
    entryOf (damagedState l x u late s s') x.index =
        { held := some { version := closedVersion u s.timeMark late, state := .damaged, lock := 0 }, incoming := none }
      ∧ (damagedState l x u late s s').store.arrival = s.store.arrival ++ [x.index]
      ∧ (damagedState l x u late s s').store.freeCount = s.store.freeCount
      ∧ (damagedState l x u late s s').store.freeList = s.store.freeList := by
  have h := store_fileDamaged_none (v := closedVersion u s.timeMark late) ((held_metTrain hm).trans hh)
  rw [store_metTrain hm] at h
  have h' : (damagedState l x u late s s').store = _ := h
  rw [h', entryOf_damagedState hm, if_pos rfl]
  unfold filedDamaged
  rw [held_metTrain hm, hh]
  exact ⟨rfl, rfl, rfl, rfl⟩

end

/-- Settles O30: a body by its kind; a train that closes DAMAGED is filed, then closed. -/
theorem otherBodiesCloseOrStay : Obligations.OtherBodiesCloseOrStay := by
  intro s l code w h
  refine ⟨fun hx => ?_, ?_⟩
  · rw [exec_tileBody h]
    unfold takeTileBody
    rw [hx]
  intro x v hx hv hrows whole expected duplicate damages
  have hdamages : ∀ (u : Version) (s' : State) (b : Bool), Meets l x u s s' →
      exec (.tileBody l code w) s = .next (closeTrain l b s') →
      (b = false ∨ u.rows ≠ u.height ∨ u.poisonedSeen = true) →
      (¬expected → s'.store.bytes = s.store.bytes) → damages u := by
    intro u s' b hm hexec hb hbytes late hlate filed
    have hl := isSome_lateSeat hlate
    rw [closeTrain_damaged hm hb] at hexec
    have hexec' : exec (.tileBody l code w) s =
        .next (closedState s x u.rows .damaged false (damagedState l x u late s s')) := by
      rw [hexec, ← hl]
      rfl
    refine ⟨_, hexec', ?_, ?_, fun j hj => ?_, fun y hy hys => ?_, fun y hy hys => ?_, fun hy => ?_, ?_, fun n hn => ?_,
      fun hno => ?_, fun r hr hq => ?_, fun he => ?_, ?_⟩
    · rw [trainOf_closedState]
      exact (trainOf_damagedState hm late).1
    · rw [trainOf_closedState]
      exact (trainOf_damagedState hm late).2
    · rw [entryOf_closedState, entryOf_damagedState hm, if_neg hj]
    · rw [entryOf_closedState, store_closedState]
      exact damagedState_ready hm late hy hys
    · rw [entryOf_closedState, store_closedState]
      exact damagedState_damaged hm late hy hys
    · rw [entryOf_closedState, store_closedState]
      exact damagedState_none hm late hy
    · exact latched_closedState (fault_fileDamaged _ _ _)
    · have hs : (damagedState l x u late s s').scheduler = s.scheduler := by rw [damagedState_only hm]
      rw [← hs]
      exact closedState_late hn
    · obtain ⟨h1, h2⟩ := closedState_punctual (rows := u.rows) (o := .damaged) (called := false)
        (f := damagedState l x u late s s') (hl.trans hno)
      rw [h1, h2, tileLate_damagedState hm, damagedState_only hm]
      exact ⟨rfl, rfl⟩
    · have ht : (damagedState l x u late s s').timeMark = s.timeMark := by rw [damagedState_only hm]
      rw [log_closedState (by rw [log_damagedState hm]; exact hr) hq, ht, hl]
    · rw [store_closedState, damagedState_only hm]
      exact hbytes he
    · have ho := damagedState_only hm late
      have hc := closedState_only s x u.rows .damaged false (damagedState l x u late s s')
      generalize closedState s x u.rows .damaged false (damagedState l x u late s s') = t at hc ⊢
      rw [ho] at hc
      rw [hc]
  have hstored := storedState_meets l x v w s
  refine ⟨fun hd hlast => ?_, fun he hd => ?_, fun hd hlast hshort => ?_, fun he hlast hshort => ?_⟩
  · rw [exec_tileBody h, takeTileBody_duplicate hx hv w
      (bodyKind_duplicate hd.1 (fun hc => hd.2.1 ⟨hd.1, hc⟩) hd.2.2), hlast, if_neg nofun]
    rfl
  · refine hdamages v s false (.refl hx hv) ?_ (.inl rfl) fun _ => rfl
    rw [exec_tileBody h, takeTileBody_outOfSequence hx hv w
      (bodyKind_outOfSequence he fun hc => hd ⟨hc.1, he, hc.2⟩)]
  · refine hdamages v s true (.refl hx hv) ?_ (.inr hshort) fun _ => rfl
    rw [exec_tileBody h, takeTileBody_duplicate hx hv w
      (bodyKind_duplicate hd.1 (fun hc => hd.2.1 ⟨hd.1, hc⟩) hd.2.2), hlast, if_pos rfl]
  · refine hdamages _ _ true hstored ?_ (.inr ?_) fun hno => absurd he hno
    · rw [exec_tileBody h, takeTileBody_expected hx hv w (bodyKind_expected he.1 he.2.1 he.2.2), hlast, if_pos rfl]
    · rcases hshort with hr | hp | hp
      · exact .inl hr
      · exact .inr (by show (v.poisonedSeen || w.poisoned) = true; rw [hp]; rfl)
      · exact .inr (by show (v.poisonedSeen || w.poisoned) = true; rw [hp, Bool.or_true])

/-! ## A train that closes READY -/

/-- The state once the version of a train that closes READY has been filed and its calls answered (R34, R36). -/
def readyState (l : Link) (x : Train) (u : Version) (late : Bool) (s s' : State) : State :=
  (answerCalls x.index (fileReady x.index (closedVersion u s.timeMark late) (setTrain l none s')).1).1

section
variable {l : Link} {x : Train} {u : Version} {s s' : State} (hm : Meets l x u s s') (late : Bool)
include hm

theorem readyState_only : readyState l x u late s s' =
    { s with
      intake := (readyState l x u late s s').intake
      store := { (readyState l x u late s s').store with bytes := s'.store.bytes }
      seats.calls := s.seats.calls.filter fun c => decide (c.index ≠ x.index) } := by
  have h := fileReady_only x.index (closedVersion u s.timeMark late) (setTrain l none s')
  unfold readyState answerCalls
  dsimp only
  generalize (fileReady x.index (closedVersion u s.timeMark late) (setTrain l none s')).1 = f at h ⊢
  rw [h]
  conv_lhs => rw [hm.only]
  rfl

theorem entryOf_readyState (j : RosterIndex) : entryOf (readyState l x u late s s') j =
    if j = x.index then filedReady (closedVersion u s.timeMark late) (entryOf (setTrain l none s') x.index)
    else entryOf s j := by
  show entryOf (fileReady x.index (closedVersion u s.timeMark late) (setTrain l none s')).1 j = _
  rw [entryOf_fileReady]
  split
  · rfl
  · next hj => rw [entryOf_setTrain, hm.entries j hj]

theorem log_readyState : (readyState l x u late s s').intake.log = s.intake.log := by
  show (fileReady x.index (closedVersion u s.timeMark late) (setTrain l none s')).1.intake.log = _
  rw [fileReady_only]
  exact hm.log

theorem trainOf_readyState : trainOf (readyState l x u late s s') l = none
    ∧ trainOf (readyState l x u late s s') l.other = trainOf s l.other := by
  have h : ∀ m, trainOf (readyState l x u late s s') m = trainOf (setTrain l none s') m := fun m =>
    trainOf_fileReady x.index (closedVersion u s.timeMark late) (setTrain l none s') m
  rw [h, h, trainOf_setTrain_same, trainOf_setTrain_other]
  exact ⟨rfl, hm.other⟩

/-- Where there is none, the version becomes the held one. -/
theorem readyState_none (hh : (entryOf s x.index).held = none) :
    entryOf (readyState l x u late s s') x.index =
        { held := some { version := closedVersion u s.timeMark late, state := .ready, lock := 0 }, incoming := none }
      ∧ (readyState l x u late s s').store.arrival = s.store.arrival ++ [x.index]
      ∧ (readyState l x u late s s').store.freeCount = s.store.freeCount := by
  have h := (fileReady_none (v := closedVersion u s.timeMark late) ((held_metTrain hm).trans hh)).1
  rw [store_metTrain hm] at h
  have h' : (readyState l x u late s s').store = _ := h
  rw [h', entryOf_readyState hm, if_pos rfl]
  unfold filedReady
  rw [held_metTrain hm, hh]
  exact ⟨rfl, rfl, rfl⟩

/-- An unlocked version gives way to it, as a RETAKE. -/
theorem readyState_unlocked {h : Held} (hh : (entryOf s x.index).held = some h) (h0 : h.lock = 0) :
    entryOf (readyState l x u late s s') x.index =
        { held := some
            { version := { closedVersion u s.timeMark late with retake := true }, state := .ready, lock := 0 }
          incoming := none }
      ∧ (readyState l x u late s s').store.arrival = (s.store.arrival.filter fun j => decide (j ≠ x.index)) ++ [x.index]
      ∧ (readyState l x u late s s').store.freeCount = s.store.freeCount + h.version.blocks.length
      ∧ ∀ b, (readyState l x u late s s').store.freeList.count b =
          s.store.freeList.count b + h.version.blocks.count b := by
  obtain ⟨h1, h2, h3⟩ := fileReady_unlocked (v := closedVersion u s.timeMark late) ((held_metTrain hm).trans hh) h0
  rw [store_metTrain hm] at h1 h2 h3
  refine ⟨?_, h3, h1, h2⟩
  rw [entryOf_readyState hm, if_pos rfl]
  unfold filedReady
  rw [held_metTrain hm, hh]
  dsimp only
  rw [if_pos h0]

/-- Behind a locked version it waits, as a RETAKE. -/
theorem readyState_locked {h : Held} (hh : (entryOf s x.index).held = some h) (h0 : 0 < h.lock) :
    entryOf (readyState l x u late s s') x.index =
        { held := some h
          incoming := some { version := { closedVersion u s.timeMark late with retake := true }, state := .waiting } }
      ∧ (readyState l x u late s s').store.arrival = s.store.arrival
      ∧ (readyState l x u late s s').store.freeCount = s.store.freeCount := by
  have h1 := fileReady_locked (v := closedVersion u s.timeMark late) ((held_metTrain hm).trans hh) h0
  rw [store_metTrain hm] at h1
  have h' : (readyState l x u late s s').store = _ := h1
  rw [h', entryOf_readyState hm, if_pos rfl]
  unfold filedReady
  rw [held_metTrain hm, hh]
  dsimp only
  rw [if_neg (by omega)]
  exact ⟨rfl, rfl, rfl⟩

/-- What a READY close comes to, with the mark that calls were answered. -/
theorem closeTrain_readyState (hr : u.rows = u.height) (hp : u.poisonedSeen = false)
    (hl : (lateSeat s x.index).isSome = late) : closeTrain l true s' = closedState s x u.height
      (if (entryOf s x.index).held = none then .accepted else .retake)
      (s.seats.calls.any fun c => decide (c.index = x.index)) (readyState l x u late s s') := by
  subst hl
  have hcalled : (answerCalls x.index (fileReady x.index
      (closedVersion u s.timeMark (lateSeat s x.index).isSome) (setTrain l none s')).1).2 =
        s.seats.calls.any fun c => decide (c.index = x.index) := by
    unfold answerCalls
    rw [fileReady_only, hm.only]
    rfl
  rw [closeTrain_ready hm hr hp]
  dsimp only
  rw [hcalled, fileReady_outcome, held_metTrain hm, hr]
  rfl

end

/-- Settles O31: the close with the last row, or with a duplicate of it, files the version and answers its calls. -/
theorem lastRowClosesATrainReady : Obligations.LastRowClosesATrainReady := by
  intro s l code w x v late h hx hv hl hlast hp hcase hlate closed called
  have hls := isSome_lateSeat hlate
  obtain ⟨s', hm, hexec, hbytes⟩ : ∃ s', Meets l x { v with rows := v.height } s s'
      ∧ exec (.tileBody l code w) s = .next (closeTrain l true s')
      ∧ (v.rows = v.height → s'.store.bytes = s.store.bytes) := by
    rcases hcase with ⟨hr, hh, hw⟩ | ⟨hr, hd⟩
    · refine ⟨storedState l x v w s, ?_, ?_, fun hc => absurd hc (by omega)⟩
      · have hm := storedState_meets l x v w s
        unfold rowReceived at hm
        rw [hh, hp, hw] at hm
        rw [hp]
        exact hm
      · rw [exec_tileBody h, takeTileBody_expected hx hv w (bodyKind_expected hl hr (by omega)), hlast, if_pos rfl]
    · refine ⟨s, ?_, ?_, fun _ => rfl⟩
      · have hv' : { v with rows := v.height } = v := congrArg (fun r => { v with rows := r }) hr.symm
        rw [hv']
        exact .refl hx hv
      · rw [exec_tileBody h, takeTileBody_duplicate hx hv w (bodyKind_duplicate hl (fun hc => by omega) hd), hlast,
          if_pos rfl]
  rw [closeTrain_readyState hm late rfl hp hls] at hexec
  refine ⟨_, hexec, ?_, ?_, fun hy => ?_, fun y hy h0 => ?_, fun y hy h0 => ?_, fun j hj => ?_, ?_, fun n hn => ?_,
    fun hno => ?_, fun r hr hq => ?_, fun hc => ?_, ?_⟩
  · rw [trainOf_closedState]
    exact (trainOf_readyState hm late).1
  · rw [trainOf_closedState]
    exact (trainOf_readyState hm late).2
  · rw [entryOf_closedState, store_closedState]
    exact readyState_none hm late hy
  · rw [entryOf_closedState, store_closedState]
    exact readyState_unlocked hm late hy h0
  · rw [entryOf_closedState, store_closedState]
    exact readyState_locked hm late hy h0
  · rw [entryOf_closedState, entryOf_readyState hm, if_neg hj]
  · rw [closedState_only, readyState_only hm]
  · have hs : (readyState l x { v with rows := v.height } late s s').scheduler = s.scheduler := by
      rw [readyState_only hm]
    rw [← hs]
    exact closedState_late hn
  · obtain ⟨h1, h2⟩ := closedState_punctual (rows := v.height)
      (o := if (entryOf s x.index).held = none then .accepted else .retake) (called := called)
      (f := readyState l x { v with rows := v.height } late s s') (hls.trans hno)
    rw [h1, h2, readyState_only hm]
    exact ⟨rfl, rfl⟩
  · have ht : (readyState l x { v with rows := v.height } late s s').timeMark = s.timeMark := by
      rw [readyState_only hm]
    rw [log_closedState (by rw [log_readyState hm]; exact hr) hq, ht, hls]
  · rw [store_closedState, readyState_only hm]
    exact hbytes hc
  · refine ⟨?_, ?_, ?_, ?_, ?_⟩ <;> rw [closedState_only, readyState_only hm]

/-- Settles O32: a train gap that has been reached voids the tile train or discards the table train. -/
theorem trainsExpireAtTheGap : Obligations.TrainsExpireAtTheGap := by
  intro s l
  refine ⟨fun x v hx hv hg => ?_, fun x hx hg => ?_, fun hx => ?_, fun g hg => ⟨fun hd => ?_, fun hd => ?_⟩, fun hg => ?_⟩
  · have hvoid := voidTrain_voided (o := .abandoned) hx hv
    refine ⟨voidTrain l (some .abandoned) s, congrArg Host.Outcome.next (expireTrain_due hx hg), ?_, ?_, hvoid.directory,
      hvoid.count, hvoid.blocks, hvoid.stored.1, hvoid.stored.2, hvoid.fault, fun r hr hq => ?_, hvoid.rest⟩
    · exact trainOf_voidTrain_same l _ s
    · rw [trainOf_voidTrain, if_neg (Link.other_ne l)]
    · have hlog := hvoid.record r hr hq
      simp only [hlog]
      exact Vector.getElem_set_self _
  · refine congrArg Host.Outcome.next (expireTrain_running fun y hy => ?_)
    rw [hx] at hy
    cases hy
    exact hg
  · refine congrArg Host.Outcome.next (expireTrain_running fun y hy => ?_)
    rw [hx] at hy
    cases hy
  · refine congrArg Host.Outcome.next (if_pos ?_)
    unfold tableTrainDue
    rw [hg]
    exact decide_eq_true hd
  · refine congrArg Host.Outcome.next (if_neg ?_)
    unfold tableTrainDue
    rw [hg]
    simpa using hd
  · refine congrArg Host.Outcome.next (if_neg ?_)
    unfold tableTrainDue
    rw [hg]
    nofun

end Sys2Proof.Machine
end

section
/-!
Renders: the start with its records, the completion with its pixels and marks, and the expiry of a hold (chapters 6 to 8).
-/

namespace Sys2Proof.Machine

/-! ## The start of a render -/

theorem mem_zipIdx {α : Type} {xs : List α} {x : α} {n : Nat} : (x, n) ∈ xs.zipIdx ↔ xs[n]? = some x :=
  List.mem_zipIdx_iff_getElem?

/-- The placement records of a band (R101). -/
theorem mem_placementsOf {s : State} {p : Plan} {lo hi : Nat} {q : Placement} : q ∈ placementsOf s p lo hi ↔
    ∃ (x : Seat) (r : Row) (h : Held), p.seats[q.seat]? = some x ∧ p.rows[x.row]? = some r
      ∧ (entryOf s x.index).held = some h ∧ renderedDecision s q.seat = .placed
      ∧ r.top < hi ∧ lo < r.top + r.cellHeight ∧ 0 < r.cellHeight ∧ q = placementOf q.seat x r h.version := by
  unfold placementsOf
  rw [List.mem_filterMap]
  constructor
  · rintro ⟨⟨x, n⟩, hx, hq⟩
    dsimp only at hq
    split at hq
    · next r h hr hh =>
      split at hq
      · next hc =>
        obtain ⟨hd, hm⟩ := hc
        cases hq
        obtain ⟨h1, h2, h3⟩ := of_decide_eq_true hm
        exact ⟨x, r, h, mem_zipIdx.1 hx, hr, hh, hd, h1, h2, h3, rfl⟩
      · cases hq
    · cases hq
    · cases hq
  · rintro ⟨x, r, h, hx, hr, hh, hd, h1, h2, h3, hq⟩
    refine ⟨(x, q.seat), mem_zipIdx.2 hx, ?_⟩
    dsimp only
    rw [hr, hh]
    dsimp only
    rw [if_pos ⟨hd, decide_eq_true ⟨h1, h2, h3⟩⟩, ← hq]

/-- The caption records of a band (R120). -/
theorem mem_captionsOf {s : State} {p : Plan} {lo hi : Nat} {q : CaptionRecord} : q ∈ captionsOf s p lo hi ↔
    ∃ (x : Seat) (r : Row), p.seats[q.seat]? = some x ∧ p.rows[x.row]? = some r
      ∧ (renderedDecision s q.seat = .placed ∨ renderedDecision s q.seat = .absent)
      ∧ r.top + r.cellHeight < hi ∧ lo < r.top + r.cellHeight + r.captionHeight ∧ 0 < r.captionHeight
      ∧ q = captionOf s.tables.glyphs q.seat x r (recordOf s x.index).caption := by
  have hseat : ∀ g n x r text, (captionOf g n x r text).seat = n := fun g n x r text => by
    unfold captionOf
    dsimp only
    split <;> rfl
  unfold captionsOf
  rw [List.mem_filterMap]
  constructor
  · rintro ⟨⟨x, n⟩, hx, hq⟩
    dsimp only at hq
    split at hq
    · next r hr =>
      split at hq
      · next hc =>
        obtain ⟨hd, hm⟩ := hc
        obtain ⟨h1, h2, h3⟩ := of_decide_eq_true hm
        have hn : q.seat = n := by
          rw [← Option.some.inj hq]
          exact hseat _ _ _ _ _
        subst hn
        exact ⟨x, r, mem_zipIdx.1 hx, hr, hd, h1, h2, h3, (Option.some.inj hq).symm⟩
      · cases hq
    · cases hq
  · rintro ⟨x, r, hx, hr, hd, h1, h2, h3, hq⟩
    refine ⟨(x, q.seat), mem_zipIdx.2 hx, ?_⟩
    dsimp only
    rw [hr]
    dsimp only
    rw [if_pos ⟨hd, decide_eq_true ⟨h1, h2, h3⟩⟩, ← hq]

/-- The render that starts where all three conditions of R129 hold. -/
theorem dueRender_eq {s : State} {c : Impression} {p : Plan} {b : Fin 4} (hc : s.scheduler.impression = some c)
    (hp : planOf s c.plan = some p) (hi : s.renderer.current = none) (hk : s.renderer.nextBand < c.nextFreeze)
    (hb : 0 < c.snapshot.bandHeight) (hin : s.renderer.nextBand * c.snapshot.bandHeight < p.height)
    (hfree : s.renderer.buffers[b] = .free) (hfirst : ∀ j : Fin 4, j < b → s.renderer.buffers[j] ≠ .free) :
    dueRender s = some
      { work := s.renderer.works, band := s.renderer.nextBand, buffer := b, glyphs := s.tables.glyphs
        placements := placementsOf s p (bandFirst c.snapshot.bandHeight s.renderer.nextBand)
          (bandEnd p.height c.snapshot.bandHeight s.renderer.nextBand)
        captions := captionsOf s p (bandFirst c.snapshot.bandHeight s.renderer.nextBand)
          (bandEnd p.height c.snapshot.bandHeight s.renderer.nextBand) } := by
  have hbuf : freeBuffer s = some b :=
    findFinIdx?_eq_some_iff.2 ⟨decide_eq_true hfree, fun j hj => decide_eq_false (hfirst j hj)⟩
  have hcount : s.renderer.nextBand < bandCount p.height c.snapshot.bandHeight := by
    unfold bandCount
    rw [← Nat.succ_le_iff, Nat.le_div_iff_mul_le hb, Nat.succ_mul]
    omega
  unfold dueRender
  rw [hc, hi, hbuf]
  dsimp only
  rw [hp]
  exact if_pos ⟨hk, hcount⟩

theorem dueRender_unfrozen {s : State} {c : Impression} (hc : s.scheduler.impression = some c)
    (h : c.nextFreeze ≤ s.renderer.nextBand) : dueRender s = none := by
  unfold dueRender
  rw [hc]
  split
  · next c' _ he _ _ =>
    cases he
    split
    · exact if_neg fun hk => absurd hk.1 (by omega)
    · rfl
  · rfl

theorem startRender_none {s : State} (h : dueRender s = none) : startRender s = s := by
  unfold startRender
  rw [h]

theorem startRender_some {s : State} {g : Render} (h : dueRender s = some g) : startRender s =
    { s with
      renderer :=
        { buffers := s.renderer.buffers.set g.buffer (.rendering g.band), nextBand := g.band + 1, current := some g
          works := s.renderer.works + 1 } } := by
  unfold startRender
  rw [h]

/-- Settles O35: the due render in its buffer, and the three cases in which none is due. -/
theorem renderStartsInTheLowestFreeBuffer : Obligations.RenderStartsInTheLowestFreeBuffer := by
  refine ⟨?_, fun s c hc h => congrArg Host.Outcome.next (startRender_none (dueRender_unfrozen hc h)),
    fun s g hg => congrArg Host.Outcome.next (startRender_of_current hg),
    fun s h => congrArg Host.Outcome.next (startRender_none ?_)⟩
  · intro s c p b hc hp hi hk hb hin hfree hfirst k lo hi'
    have hd := dueRender_eq hc hp hi hk hb hin hfree hfirst
    exact ⟨_, congrArg Host.Outcome.next (startRender_some hd), rfl, rfl, rfl, rfl, fun q => mem_placementsOf,
      fun q => mem_captionsOf⟩
  · have hbuf : freeBuffer s = none := findFinIdx?_eq_none_iff.2 fun j => decide_eq_false (h j)
    unfold dueRender
    rw [hbuf]
    split
    · next he => cases he
    · rfl

/-! ## The expiry of a hold -/

theorem expireHold_due {s : State} {k n : Nat} (h : s.press.hold = .holding k n)
    (hn : s.tables.settings.holdLimit ≤ n) :
    expireHold s = fillBand k { startRender s with press.hold := .awaiting k .fill } := by
  have hd : holdDue s = some k := by
    unfold holdDue
    rw [h]
    exact if_pos hn
  unfold expireHold
  rw [hd]

theorem expireHold_notDue {s : State} (h : ∀ k n, s.press.hold = .holding k n → n < s.tables.settings.holdLimit) :
    expireHold s = s := by
  have hd : holdDue s = none := by
    unfold holdDue
    split
    · next k n hh => exact if_neg (by have := h k n hh; omega)
    · rfl
    · rfl
  unfold expireHold
  rw [hd]

/-- Settles O37: a hold at its limit fills its band, after a render that was due has started. -/
theorem holdExpires : Obligations.HoldExpires := by
  intro s
  refine ⟨fun k n c hh hl hc => ?_, fun k n hh hl => congrArg Host.Outcome.next ?_, fun hh => congrArg Host.Outcome.next ?_⟩
  · have he := expireHold_due hh hl
    have hfill := fillBand_only k { startRender s with press.hold := .awaiting k .fill }
    have hren : (expireHold s).renderer =
        (abandonRender k { startRender s with press.hold := .awaiting k .fill }).renderer := by
      rw [he, hfill]
    have hpress : (expireHold s).press = { s.press with hold := .awaiting k .fill } := by
      rw [he, hfill]
      show { (startRender s).press with hold := HoldState.awaiting k .fill } = _
      rw [pressHold_startRender]
    refine ⟨expireHold s, rfl, hpress, ?_, fun g hg hk => ?_, ?_, ?_, ?_, ?_⟩
    · unfold holding
      rw [hpress]
    · rw [hren]
      refine abandonRender_current (g := g) ?_ hk
      rw [startRender_of_current hg]
      exact hg
    · rw [hren]
      exact nextBand_abandonRender k _
    · rw [he, hfill]
      dsimp only
      rw [startRender_only]
      dsimp only
      rw [hc]
      rfl
    · rw [he]
      exact latchKind_holds _ _
    · rw [he, hfill, startRender_only]
  · refine expireHold_notDue fun k' n' h' => ?_
    rw [hh] at h'
    cases h'
    exact hl
  · exact expireHold_notDue fun k n h => absurd h (hh k n)

end Sys2Proof.Machine
end

section
/-!
The completion of a render: its pixels, the marks handed over, and the hold it ends (sections 6.6, 7.3, 8.2 and 8.4).
-/

namespace Sys2Proof.Machine

/-! ## Pixels -/

/-- A page column and line lie in the box of a seat (R5). -/
def InBox (x : Seat) (r : Row) (col y : Nat) : Prop :=
  x.left ≤ col ∧ col < x.left + x.width ∧ r.top ≤ y ∧ y < r.top + r.cellHeight + r.captionHeight

theorem seatAtPixel_some {p : Plan} {col y n : Nat} {x : Seat} {r : Row} (h : seatAtPixel p col y = some (x, n, r)) :
    p.seats[n]? = some x ∧ p.rows[x.row]? = some r ∧ InBox x r col y := by
  unfold seatAtPixel at h
  obtain ⟨⟨x', n'⟩, hm, hf⟩ := List.exists_of_findSome?_eq_some h
  dsimp only at hf
  split at hf
  · next r' hr =>
    split at hf
    · next hb =>
      cases hf
      exact ⟨mem_zipIdx.1 hm, hr, hb⟩
    · cases hf
  · cases hf

theorem seatAtPixel_none {p : Plan} {col y : Nat}
    (h : ∀ (m : Nat) (x : Seat) (r : Row), p.seats[m]? = some x → p.rows[x.row]? = some r → ¬InBox x r col y) :
    seatAtPixel p col y = none := by
  cases hs : seatAtPixel p col y with
  | none => rfl
  | some z =>
    obtain ⟨x, n, r⟩ := z
    obtain ⟨hx, hr, hb⟩ := seatAtPixel_some hs
    exact absurd hb (h n x r hx hr)

/-- A pixel in the box of one seat alone is that seat's (R5). -/
theorem seatAtPixel_alone {p : Plan} {col y n : Nat} {x : Seat} {r : Row} (hx : p.seats[n]? = some x)
    (hr : p.rows[x.row]? = some r) (hb : InBox x r col y)
    (ha : ∀ (m : Nat) (x : Seat) (r : Row), m ≠ n → p.seats[m]? = some x → p.rows[x.row]? = some r → ¬InBox x r col y) :
    seatAtPixel p col y = some (x, n, r) := by
  cases hs : seatAtPixel p col y with
  | none =>
    unfold seatAtPixel at hs
    have := List.findSome?_eq_none_iff.1 hs (x, n) (mem_zipIdx.2 hx)
    dsimp only at this
    rw [hr] at this
    dsimp only at this
    unfold InBox at hb
    rw [if_pos hb] at this
    cases this
  | some z =>
    obtain ⟨x', n', r'⟩ := z
    obtain ⟨hx', hr', hb'⟩ := seatAtPixel_some hs
    by_cases hn : n' = n
    · subst hn
      rw [hx] at hx'
      cases hx'
      rw [hr] at hr'
      cases hr'
      rfl
    · exact absurd hb' (ha n' x' r' hn hx' hr')

/-- The one record of a seat is the one that a search finds. -/
theorem find?_unique {α : Type} {p : α → Bool} {xs : List α} {q : α} (hq : q ∈ xs) (hp : p q = true)
    (hu : ∀ z ∈ xs, p z = true → z = q) : xs.find? p = some q := by
  cases hf : xs.find? p with
  | none => exact absurd hp (List.find?_eq_none.1 hf q hq)
  | some z => rw [hu z (List.mem_of_find?_eq_some hf) (List.find?_some hf)]

section
variable {s : State} {g : Render} {p : Plan} {col y n : Nat} {x : Seat} {r : Row}

theorem pagePixel_background (h : seatAtPixel p col y = none) : pagePixel s g p col y = p.background := by
  unfold pagePixel
  rw [h]

variable (h : seatAtPixel p col y = some (x, n, r))
include h

theorem pagePixel_cell (hy : y < r.top + r.cellHeight) : pagePixel s g p col y = cellPixel s g x n r col y := by
  unfold pagePixel
  rw [h]
  exact if_pos hy

theorem pagePixel_strip (hy : r.top + r.cellHeight ≤ y) : pagePixel s g p col y = stripPixel g n r col y := by
  unfold pagePixel
  rw [h]
  exact if_neg (by omega)

end

theorem cellPixel_absent {s : State} {g : Render} {x : Seat} {n : Nat} {r : Row} {col y : Nat}
    (h : ∀ q ∈ g.placements, q.seat ≠ n) : cellPixel s g x n r col y = r.absentFill := by
  have hf : (g.placements.find? fun q => decide (q.seat = n)) = none :=
    List.find?_eq_none.2 fun q hq => by simpa using h q hq
  unfold cellPixel
  rw [hf]

theorem cellPixel_placed {s : State} {g : Render} {x : Seat} {n : Nat} {r : Row} {col y : Nat} {q : Placement} {h : Held}
    (hq : q ∈ g.placements) (hn : q.seat = n) (hu : ∀ z ∈ g.placements, z.seat = n → z = q)
    (hh : (entryOf s x.index).held = some h) :
    cellPixel s g x n r col y = placedPixel s.store.bytes h.version r q (col - x.left) (y - r.top) := by
  have hf : (g.placements.find? fun q => decide (q.seat = n)) = some q :=
    find?_unique hq (decide_eq_true hn) fun z hz hzn => hu z hz (of_decide_eq_true hzn)
  unfold cellPixel
  rw [hf, hh]

theorem stripPixel_paper {g : Render} {n : Nat} {r : Row} {col y : Nat} (h : ∀ q ∈ g.captions, q.seat ≠ n) :
    stripPixel g n r col y = r.paper := by
  have hf : (g.captions.find? fun q => decide (q.seat = n)) = none :=
    List.find?_eq_none.2 fun q hq => by simpa using h q hq
  unfold stripPixel
  rw [hf]

theorem stripPixel_caption {g : Render} {n : Nat} {r : Row} {col y : Nat} {q : CaptionRecord} (hq : q ∈ g.captions)
    (hn : q.seat = n) (hu : ∀ z ∈ g.captions, z.seat = n → z = q) :
    stripPixel g n r col y = captionPixel g.glyphs r q col (y - (r.top + r.cellHeight)) := by
  have hf : (g.captions.find? fun q => decide (q.seat = n)) = some q :=
    find?_unique hq (decide_eq_true hn) fun z hz hzn => hu z hz (of_decide_eq_true hzn)
  unfold stripPixel
  rw [hf]

theorem bandLines_getElem? {s : State} {g : Render} {p : Plan} {lo hi j : Nat} (hj : j < hi - lo) :
    (bandLines s g p lo hi)[j]? = some ((List.range p.width).map fun col => pagePixel s g p col (lo + j)) := by
  unfold bandLines
  rw [List.getElem?_map, List.getElem?_range hj]
  rfl

/-! ## Marks -/

/-- A sample point outside the stored tile (R107). -/
theorem isMargin_iff (v : Version) (q : Placement) (i j : Nat) : isMargin v (samplePoint q i j) = true ↔
    (q.x0 + i * q.step < 0 ∨ (v.width : Int) * 4096 ≤ q.x0 + i * q.step ∨ q.y0 + j * q.step < 0
      ∨ (v.height : Int) * 4096 ≤ q.y0 + j * q.step) := by
  unfold isMargin samplePoint
  rw [decide_eq_true_iff]
  dsimp only
  generalize q.x0 + (i : Int) * (q.step : Int) = a
  generalize q.y0 + (j : Int) * (q.step : Int) = b
  omega

theorem hasMargin_iff (v : Version) (x : Seat) (r : Row) (q : Placement) (lo hi : Nat) : hasMargin v x r q lo hi = true ↔
    ∃ i y, lo ≤ y ∧ y < hi ∧ r.top ≤ y ∧ y < r.top + r.cellHeight ∧ i < x.width
      ∧ isMargin v (samplePoint q i (y - r.top)) = true := by
  unfold hasMargin
  rw [List.any_eq_true]
  constructor
  · rintro ⟨t, ht, hm⟩
    rw [Bool.and_eq_true, List.any_eq_true] at hm
    obtain ⟨hr, i, hi', hm⟩ := hm
    obtain ⟨h1, h2⟩ := of_decide_eq_true hr
    have ht := List.mem_range.1 ht
    exact ⟨i, lo + t, Nat.le_add_right _ _, by omega, h1, h2, List.mem_range.1 hi', hm⟩
  · rintro ⟨i, y, h1, h2, h3, h4, h5, hm⟩
    refine ⟨y - lo, List.mem_range.2 (by omega), ?_⟩
    rw [Bool.and_eq_true, List.any_eq_true, Nat.add_sub_cancel' h1]
    exact ⟨decide_eq_true ⟨h3, h4⟩, i, List.mem_range.2 h5, hm⟩

/-- A render's pixels mark nothing of a placement record but its margin. -/
theorem markMargin_eq (s : State) (p : Plan) (lo hi : Nat) (q : Placement) :
    markMargin s p lo hi q = { q with margin := (markMargin s p lo hi q).margin } := by
  unfold markMargin
  split
  · split <;> rfl
  · rfl

theorem margin_markMargin {s : State} {p : Plan} {lo hi : Nat} {q : Placement} (hq : q.margin = false) :
    (markMargin s p lo hi q).margin = true ↔
      ∃ (x : Seat) (r : Row) (h : Held), p.seats[q.seat]? = some x ∧ p.rows[x.row]? = some r
        ∧ (entryOf s x.index).held = some h ∧ hasMargin h.version x r q lo hi = true := by
  unfold markMargin
  split
  · next x hx =>
    split
    · next r h hr hh =>
      constructor
      · exact fun hm => ⟨x, r, h, hx, hr, hh, hm⟩
      · rintro ⟨x', r', h', hx', hr', hh', hm⟩
        rw [hx] at hx'
        cases hx'
        rw [hr] at hr'
        cases hr'
        rw [hh] at hh'
        cases hh'
        exact hm
    · next hh =>
      rw [hq]
      refine iff_of_false nofun ?_
      rintro ⟨x', r', h', hx', hr', hh', hm⟩
      rw [hx] at hx'
      cases hx'
      rw [hh] at hh'
      cases hh'
    · next hr =>
      rw [hq]
      refine iff_of_false nofun ?_
      rintro ⟨x', r', h', hx', hr', hh', hm⟩
      rw [hx] at hx'
      cases hx'
      rw [hr] at hr'
      cases hr'
  · next hx =>
    rw [hq]
    refine iff_of_false nofun ?_
    rintro ⟨x', r', h', hx', hr', hh', hm⟩
    rw [hx] at hx'
    cases hx'

/-- Seat numbers that join a set, each counted when it first joins (R113). -/
theorem countNew_spec (ns : List Nat) : ∀ (set : List Nat) (count : Nat),
    (∀ n, n ∈ (countNew set count ns).1 ↔ n ∈ set ∨ n ∈ ns)
      ∧ (set.Nodup → (countNew set count ns).1.Nodup)
      ∧ (countNew set count ns).2 + set.length = count + (countNew set count ns).1.length := by
  induction ns with
  | nil => exact fun set count => ⟨fun n => by simp [countNew], id, rfl⟩
  | cons m ns ih =>
    intro set count
    by_cases hm : m ∈ set
    · have he : countNew set count (m :: ns) = countNew set count ns := by
        unfold countNew
        rw [List.foldl_cons, if_pos hm]
      obtain ⟨h1, h2, h3⟩ := ih set count
      rw [he]
      refine ⟨fun n => ?_, h2, h3⟩
      rw [h1, List.mem_cons]
      constructor
      · exact fun h => h.imp_right .inr
      · rintro (h | rfl | h)
        · exact .inl h
        · exact .inl hm
        · exact .inr h
    · have he : countNew set count (m :: ns) = countNew (set ++ [m]) (count + 1) ns := by
        unfold countNew
        rw [List.foldl_cons, if_neg hm]
      obtain ⟨h1, h2, h3⟩ := ih (set ++ [m]) (count + 1)
      rw [he]
      refine ⟨fun n => ?_, fun hn => h2 ?_, ?_⟩
      · rw [h1, List.mem_append, List.mem_singleton, List.mem_cons, or_assoc]
      · rw [List.nodup_append]
        refine ⟨hn, List.nodup_singleton m, fun a ha b hb => ?_⟩
        rw [List.mem_singleton.1 hb]
        exact fun hab => hm (hab ▸ ha)
      · rw [List.length_append, List.length_singleton] at h3
        omega

theorem countCaptions_only (cs : List CaptionRecord) : ∀ c : Impression, cs.foldl countCaption c =
    { c with
      captionSet := (cs.foldl countCaption c).captionSet
      truncated := (cs.foldl countCaption c).truncated
      missing := (cs.foldl countCaption c).missing } := by
  induction cs with
  | nil => exact fun c => rfl
  | cons q cs ih =>
    intro c
    rw [List.foldl_cons]
    refine (ih _).trans ?_
    unfold countCaption
    split <;> rfl

theorem countCaption_in {c : Impression} {q : CaptionRecord} (h : q.seat ∈ c.captionSet) : countCaption c q = c := if_pos h

theorem countCaption_out {c : Impression} {q : CaptionRecord} (h : q.seat ∉ c.captionSet) : countCaption c q =
    { c with
      captionSet := c.captionSet ++ [q.seat]
      truncated := c.truncated + q.truncated.toNat
      missing := c.missing + q.missing } := if_neg h

theorem mem_captionSet (cs : List CaptionRecord) : ∀ (c : Impression) (n : Nat),
    n ∈ (cs.foldl countCaption c).captionSet ↔ n ∈ c.captionSet ∨ ∃ q ∈ cs, q.seat = n := by
  induction cs with
  | nil => exact fun c n => by simp
  | cons q cs ih =>
    intro c n
    rw [List.foldl_cons, ih]
    by_cases hq : q.seat ∈ c.captionSet
    · rw [countCaption_in hq]
      constructor
      · exact fun h => h.imp_right fun ⟨z, hz, hn⟩ => ⟨z, List.mem_cons_of_mem _ hz, hn⟩
      · rintro (h | ⟨z, hz, rfl⟩)
        · exact .inl h
        · rcases List.mem_cons.1 hz with rfl | hz
          · exact .inl hq
          · exact .inr ⟨z, hz, rfl⟩
    · rw [countCaption_out hq]
      rw [List.mem_append, List.mem_singleton, or_assoc]
      refine or_congr_right ⟨?_, ?_⟩
      · rintro (rfl | ⟨z, hz, hn⟩)
        · exact ⟨q, List.mem_cons_self, rfl⟩
        · exact ⟨z, List.mem_cons_of_mem _ hz, hn⟩
      · rintro ⟨z, hz, rfl⟩
        rcases List.mem_cons.1 hz with rfl | hz
        · exact .inl rfl
        · exact .inr ⟨z, hz, rfl⟩

/-- The captions whose seats were not yet counted add their marks (R126). -/
theorem totals_countCaptions (cs : List CaptionRecord) : ∀ c : Impression, (cs.map CaptionRecord.seat).Nodup →
    (cs.foldl countCaption c).truncated =
        c.truncated + (cs.filter fun q => decide (q.seat ∉ c.captionSet)).countP (fun q => q.truncated)
      ∧ (cs.foldl countCaption c).missing =
          c.missing + ((cs.filter fun q => decide (q.seat ∉ c.captionSet)).map CaptionRecord.missing).sum := by
  induction cs with
  | nil => exact fun c _ => ⟨rfl, rfl⟩
  | cons q cs ih =>
    intro c hn
    obtain ⟨hq, hn⟩ := List.nodup_cons.1 hn
    rw [List.foldl_cons]
    obtain ⟨h1, h2⟩ := ih (countCaption c q) hn
    rw [h1, h2]
    by_cases hin : q.seat ∈ c.captionSet
    · rw [countCaption_in hin, List.filter_cons_of_neg (by simpa using hin)]
      exact ⟨rfl, rfl⟩
    · have hrest : (cs.filter fun z => decide (z.seat ∉ (countCaption c q).captionSet)) =
          cs.filter fun z => decide (z.seat ∉ c.captionSet) :=
        List.filter_congr fun z hz => by
          have hz' : z.seat ≠ q.seat := fun he => hq (he ▸ List.mem_map_of_mem hz)
          rw [countCaption_out hin]
          simp [hz']
      rw [hrest, countCaption_out hin, List.filter_cons_of_pos (by simpa using hin), List.countP_cons, List.map_cons,
        List.sum_cons]
      dsimp only
      constructor
      · cases q.truncated <;> simp only [Bool.toNat_true, Bool.toNat_false, if_true, Bool.false_eq_true, if_false] <;> omega
      · omega

/-! ## The completion -/

/-- The context that a completed render leaves, but for a hold it ends. -/
def handedOver (s : State) (g : Render) (c : Impression) (p : Plan) : Impression :=
  handOver (g.placements.map (markMargin s p (bandFirst c.snapshot.bandHeight g.band)
    (bandEnd p.height c.snapshot.bandHeight g.band))) g.captions c

theorem handOver_only (qs : List Placement) (cs : List CaptionRecord) (c : Impression) : handOver qs cs c =
    { c with
      clampedSet := (countNew c.clampedSet c.clamped ((qs.filter (·.clamped)).map (·.seat))).1
      clamped := (countNew c.clampedSet c.clamped ((qs.filter (·.clamped)).map (·.seat))).2
      marginSet := (countNew c.marginSet c.margins ((qs.filter (·.margin)).map (·.seat))).1
      margins := (countNew c.marginSet c.margins ((qs.filter (·.margin)).map (·.seat))).2
      captionSet := (handOver qs cs c).captionSet
      truncated := (handOver qs cs c).truncated
      missing := (handOver qs cs c).missing } := countCaptions_only cs _

/-- The lines of the band that a render has written. -/
def completedLines (s : State) (g : Render) (c : Impression) (p : Plan) : List (List Pixel) :=
  bandLines s g p (bandFirst c.snapshot.bandHeight g.band) (bandEnd p.height c.snapshot.bandHeight g.band)

section
variable {s : State} {g : Render} {c : Impression} {p : Plan} (hc : s.scheduler.impression = some c)
  (hp : planOf s c.plan = some p)
include hc hp

/-- The state once the buffer is COMPLETE and the marks have been handed over (R132). -/
theorem completeRender_eq : completeRender g s = endHold g.band
    { s with
      renderer := { s.renderer with
        buffers := s.renderer.buffers.set g.buffer (.complete g.band (completedLines s g c p)), current := none }
      scheduler.impression := some (handedOver s g c p) } := by
  have hf : finishedBand s g = (completedLines s g c p, g.placements.map (markMargin s p
      (bandFirst c.snapshot.bandHeight g.band) (bandEnd p.height c.snapshot.bandHeight g.band))) := by
    unfold finishedBand
    rw [hc]
    dsimp only
    rw [hp]
    rfl
  unfold completeRender modImpression
  rw [hf]
  dsimp only
  rw [hc]
  rfl

theorem completeRender_holding {n : Nat} (hh : s.press.hold = .holding g.band n) : completeRender g s =
    { s with
      renderer := { s.renderer with
        buffers := s.renderer.buffers.set g.buffer (.complete g.band (completedLines s g c p)), current := none }
      scheduler.impression :=
        some { handedOver s g c p with heldBands := (handedOver s g c p).heldBands + 1 }
      press.hold := .awaiting g.band .buffer } := by
  rw [completeRender_eq hc hp]
  unfold endHold
  dsimp only
  rw [hh]
  dsimp only
  rw [if_pos rfl]
  rfl

theorem completeRender_free (hh : ∀ n, s.press.hold ≠ .holding g.band n) : completeRender g s =
    { s with
      renderer := { s.renderer with
        buffers := s.renderer.buffers.set g.buffer (.complete g.band (completedLines s g c p)), current := none }
      scheduler.impression := some (handedOver s g c p) } := by
  rw [completeRender_eq hc hp]
  unfold endHold
  dsimp only
  split
  · next k n hk =>
    exact if_neg fun he => hh n (by rw [hk, he])
  · rfl
  · rfl

end

/-- Settles O36: the pixels of the band, the marks, and the hold that the completion ends. -/
theorem renderCompletes : Obligations.RenderCompletes := by
  refine ⟨?_, fun s n hw hn => ?_⟩
  · intro s g c p hg hc hp lo hi inBox alone marked joins uncounted
    have hexec : exec (.renderComplete g.work) s = .next (completeRender g s) := by
      show Host.Outcome.next (takeCompletion g.work (startRender s)) = _
      rw [startRender_of_current hg]
      unfold takeCompletion
      rw [hg]
      dsimp only
      rw [if_pos rfl]
    have hlines : ∀ j < hi - lo, ∃ pixels, (completedLines s g c p)[j]? = some pixels ∧ pixels.length = p.width
        ∧ ∀ col < p.width, pixels[col]? = some (pagePixel s g p col (lo + j)) := fun j hj =>
      ⟨_, bandLines_getElem? hj, by rw [List.length_map, List.length_range], fun col hcol => by
        rw [List.getElem?_map, List.getElem?_range hcol]
        rfl⟩
    obtain ⟨d, hd, hheld, hnot, ht⟩ : ∃ d : Impression,
        d = { handedOver s g c p with heldBands := d.heldBands }
        ∧ (∀ n, s.press.hold = .holding g.band n →
            (completeRender g s).press = { s.press with hold := .awaiting g.band .buffer }
            ∧ d.heldBands = c.heldBands + 1)
        ∧ ((∀ n, s.press.hold ≠ .holding g.band n) → (completeRender g s).press = s.press ∧ d.heldBands = c.heldBands)
        ∧ completeRender g s = { s with
            renderer := { s.renderer with
              buffers := s.renderer.buffers.set g.buffer (.complete g.band (completedLines s g c p)), current := none }
            scheduler.impression := some d
            press := (completeRender g s).press } := by
      have hkept : (handedOver s g c p).heldBands = c.heldBands := by
        unfold handedOver
        rw [handOver_only]
      by_cases hh : ∃ n, s.press.hold = .holding g.band n
      · obtain ⟨n, hh⟩ := hh
        rw [completeRender_holding hc hp hh]
        exact ⟨_, rfl, fun _ _ => ⟨rfl, congrArg (· + 1) hkept⟩, fun hno => absurd hh (hno n), rfl⟩
      · have hh' : ∀ n, s.press.hold ≠ .holding g.band n := fun n he => hh ⟨n, he⟩
        rw [completeRender_free hc hp hh']
        exact ⟨_, rfl, fun n he => absurd he (hh' n), fun _ => ⟨rfl, hkept⟩, rfl⟩
    have hmarks : handedOver s g c p = handOver (g.placements.map (markMargin s p lo hi)) g.captions c := rfl
    rw [hmarks] at hd
    have honly := handOver_only (g.placements.map (markMargin s p lo hi)) g.captions c
    have hseat : ∀ q : Placement, (markMargin s p lo hi q).seat = q.seat := fun q => by rw [markMargin_eq]
    refine ⟨completeRender g s, completedLines s g c p, d, hexec, ?_, ?_, fun j hj => ?_, ?_, ?_, ?_, fun hm => ?_,
      fun n => ?_, fun hn => ?_, hheld, hnot, ?_⟩
    · rw [ht]
    · unfold completedLines bandLines
      rw [List.length_map, List.length_range]
      rfl
    · obtain ⟨pixels, hpix, hlen, hcol⟩ := hlines j hj
      refine ⟨pixels, hpix, hlen, fun col hw => ⟨fun hno => ?_, fun n x r hx hr hb ha => ?_⟩⟩
      · rw [hcol col hw, pagePixel_background (seatAtPixel_none hno)]
      · have hat := seatAtPixel_alone hx hr hb ha
        rw [hcol col hw]
        refine ⟨fun hy hq => ?_, fun hy hq => ?_, fun q h hy hq hqn hu hh => ?_, fun q hy hq hqn hu => ?_⟩
        · rw [pagePixel_cell hat hy, cellPixel_absent hq]
        · rw [pagePixel_strip hat hy, stripPixel_paper hq]
        · rw [pagePixel_cell hat hy, cellPixel_placed hq hqn hu hh]
        · rw [pagePixel_strip hat hy, stripPixel_caption hq hqn hu]
    · rw [ht]
    · rw [hd, honly]
    · obtain ⟨h1, h2, h3⟩ := countNew_spec
        (((g.placements.map (markMargin s p lo hi)).filter (·.clamped)).map (·.seat)) c.clampedSet c.clamped
      rw [hd, honly]
      refine ⟨fun n => ?_, h2, h3⟩
      rw [h1]
      refine or_congr_right ?_
      rw [List.mem_map]
      constructor
      · rintro ⟨q, hq, rfl⟩
        obtain ⟨hq, hcl⟩ := List.mem_filter.1 hq
        obtain ⟨z, hz, rfl⟩ := List.mem_map.1 hq
        rw [markMargin_eq] at hcl
        exact ⟨z, hz, (hseat z).symm, hcl⟩
      · rintro ⟨z, hz, rfl, hcl⟩
        refine ⟨markMargin s p lo hi z, List.mem_filter.2 ⟨List.mem_map_of_mem hz, ?_⟩, hseat z⟩
        rw [markMargin_eq]
        exact hcl
    · obtain ⟨h1, h2, h3⟩ := countNew_spec
        (((g.placements.map (markMargin s p lo hi)).filter (·.margin)).map (·.seat)) c.marginSet c.margins
      have hmarked : ∀ q ∈ g.placements, (markMargin s p lo hi q).margin = true ↔ marked q := fun q hq => by
        rw [margin_markMargin (hm q hq)]
        constructor
        · rintro ⟨x, r, h, hx, hr, hh, hma⟩
          obtain ⟨i, y, ha, hb, hc, hd, he, hma⟩ := (hasMargin_iff _ _ _ _ _ _).1 hma
          exact ⟨x, r, h, i, y, hx, hr, hh, ha, hb, hc, hd, he, (isMargin_iff _ _ _ _).1 hma⟩
        · rintro ⟨x, r, h, i, y, hx, hr, hh, ha, hb, hc, hd, he, hma⟩
          exact ⟨x, r, h, hx, hr, hh,
            (hasMargin_iff _ _ _ _ _ _).2 ⟨i, y, ha, hb, hc, hd, he, (isMargin_iff _ _ _ _).2 hma⟩⟩
      rw [hd, honly]
      refine ⟨fun n => ?_, h2, h3⟩
      rw [h1]
      refine or_congr_right ?_
      rw [List.mem_map]
      constructor
      · rintro ⟨q, hq, rfl⟩
        obtain ⟨hq, hma⟩ := List.mem_filter.1 hq
        obtain ⟨z, hz, rfl⟩ := List.mem_map.1 hq
        exact ⟨z, hz, (hseat z).symm, (hmarked z hz).1 hma⟩
      · rintro ⟨z, hz, rfl, hma⟩
        exact ⟨markMargin s p lo hi z,
          List.mem_filter.2 ⟨List.mem_map_of_mem hz, (hmarked z hz).2 hma⟩, hseat z⟩
    · rw [hd]
      exact mem_captionSet g.captions _ n
    · rw [hd]
      exact totals_countCaptions g.captions _ hn
    · rw [ht]
  · show Host.Outcome.next (takeCompletion n (startRender s)) = .next (startRender s)
    congr 1
    unfold takeCompletion
    split
    · next g hg =>
      refine if_neg fun he => ?_
      cases hcur : s.renderer.current with
      | some g' =>
        rw [startRender_of_current hcur, hcur] at hg
        cases hg
        exact hw g hcur he
      | none =>
        cases hd : dueRender s with
        | none =>
          rw [startRender_none hd, hcur] at hg
          cases hg
        | some g' =>
          rw [startRender_some hd] at hg
          cases hg
          have : g.work = s.renderer.works := by
            unfold dueRender at hd
            split at hd
            · split at hd
              · dsimp only at hd
                split at hd
                · cases hd
                  rfl
                · cases hd
              · cases hd
            · cases hd
          exact hn (he.symm.trans this)
    · rfl

end Sys2Proof.Machine
end

section
/-!
The return direction: what its arbiter begins to send, the parcels held back behind a waiting reply, and the receive
counters and the latch, which are the sources of notices (chapters 9.3, 9.4 and 11.1).
-/

namespace Sys2Proof.Machine

/-! ## The arbiter -/

theorem exec_returnDirectionFree (l : Link) (s : State) :
    exec (.returnDirectionFree l) s = .next (releaseAll (freeReturn l s)) := rfl

theorem freeReturn_of_up {s : State} {l : Link} (hu : (portOf s l).state = .up) (hq : (portOf s l).quiet = false) :
    freeReturn l s = startWaiting l s := by
  unfold freeReturn
  simp only [hq, hu, Bool.false_eq_true, if_false]

theorem freeReturn_of_exchange {s : State} {l : Link} {x : Exchange} (hs : (portOf s l).state = .exchange)
    (hq : (portOf s l).quiet = false) (hx : (portOf s l).exchange = some x) :
    freeReturn l s = setPort l { portOf s l with sending := exchangeParcel s.straps x.page } s := by
  unfold freeReturn
  simp only [hq, hs, hx, Bool.false_eq_true, if_false]

/-- A quiet link, or one that is neither UP nor in EXCHANGE, sends nothing (R159). -/
theorem freeReturn_of_silent {s : State} {l : Link}
    (h : (portOf s l).quiet = true ∨ (portOf s l).state = .down ∨ (portOf s l).state = .sensing
      ∨ (portOf s l).state = .fault) :
    freeReturn l s = setPort l { portOf s l with sending := [] } s := by
  unfold freeReturn
  dsimp only
  split
  · rfl
  · next hq =>
    rcases h with h | h | h | h
    · exact absurd h hq
    all_goals simp only [h]

theorem startWaiting_of_reply {s : State} {l : Link} {r : Reply} (h : (portOf s l).reply = some r) :
    startWaiting l s = setPort l { portOf s l with reply := none, sending := replyParcel s.straps r } s := by
  unfold startWaiting
  simp only [h]

theorem startWaiting_of_call {s : State} {l : Link} {x : CallParcel} {xs : List CallParcel}
    (hr : (portOf s l).reply = none) (hc : (portOf s l).calls = x :: xs) :
    startWaiting l s =
      refillCalls l (setPort l { portOf s l with calls := xs, sending := callParcel s.straps x } s) := by
  unfold startWaiting
  simp only [hr, hc]

theorem startWaiting_of_notice {s : State} {l : Link} {n : Notice} (hr : (portOf s l).reply = none)
    (hc : (portOf s l).calls = []) (hn : (portOf s l).notice = some n) :
    startWaiting l s = setPort l { portOf s l with notice := none, sending := noticeParcel s.straps n } s := by
  unfold startWaiting
  simp only [hr, hc, hn]

theorem startWaiting_of_none {s : State} {l : Link} (hr : (portOf s l).reply = none)
    (hc : (portOf s l).calls = []) (hn : (portOf s l).notice = none) :
    startWaiting l s = setPort l { portOf s l with sending := [] } s := by
  unfold startWaiting
  simp only [hr, hc, hn]

/-- No call moves to a link whose other link is open or has no call waiting. -/
theorem refillCalls_of_nothing {s : State} {l : Link}
    (h : OpenLink s l.other ∨ (portOf s l.other).calls = []) : refillCalls l s = s := by
  unfold refillCalls
  rcases h with h | h
  · rw [(isOpen_iff s l.other).2 h]
  · rw [h]
    cases isOpen (portOf s l.other) <;> rfl

/-- The front call of a link that is not open moves to the back of the queue that has room (R160). -/
theorem refillCalls_of_call {s : State} {l : Link} {y : CallParcel} {ys : List CallParcel} (ho : ¬OpenLink s l.other)
    (hc : (portOf s l.other).calls = y :: ys) (hroom : (portOf s l).calls.length < 64) :
    refillCalls l s =
      modPort l (fun p => { p with calls := p.calls ++ [y] })
        (modPort l.other (fun p => { p with calls := ys }) s) := by
  have hb : isOpen (portOf s l.other) = false := by
    rw [← Bool.not_eq_true, isOpen_iff]
    exact ho
  unfold refillCalls
  rw [hb, hc]
  dsimp only
  exact if_pos hroom

/-! ## Releasing what is held back -/

/-- Where no release is due, nothing is let through. -/
theorem releaseAll_of_notDue {s : State} (h : ∀ m, releaseDue m s = false) : releaseAll s = s := by
  unfold releaseAll
  cases (portOf s .a).heldBack.length + (portOf s .b).heldBack.length with
  | zero => rfl
  | succ n =>
    unfold releaseSome
    rw [h .a, h .b]
    rfl

/-- One parcel held back with no reply before it, and none on the other link: it arrives again, and that is all. -/
theorem releaseAll_of_one {s : State} {l : Link} {i : Instr} (hr : (portOf s l).reply = none)
    (hh : (portOf s l).heldBack = [i]) (ho : (portOf s l.other).heldBack = []) :
    releaseAll s = receiveParcel (setPort l { portOf s l with heldBack := [] } s) i := by
  have hdue : releaseDue l s = true := by simp [releaseDue, hh, hr]
  have hnot : releaseDue l.other s = false := by simp [releaseDue, ho]
  have hfree : releaseHeld l s = receiveParcel (setPort l { portOf s l with heldBack := [] } s) i := by
    unfold releaseHeld
    rw [hh]
    rfl
  have hlen : (portOf s .a).heldBack.length + (portOf s .b).heldBack.length = 1 := by
    cases l
    · rw [hh, show (portOf s .b).heldBack = [] from ho]; rfl
    · rw [hh, show (portOf s .a).heldBack = [] from ho]; rfl
  unfold releaseAll
  rw [hlen, ← hfree]
  cases l
  · rw [releaseSome, if_pos hdue, releaseSome]
  · have hnot : releaseDue .a s = false := hnot
    rw [releaseSome, hnot, if_neg Bool.false_ne_true, if_pos hdue, releaseSome]

/-- A port of the state after `setPort` holds nothing back where neither the new port nor the other one does. -/
theorem noneHeldBack_setPort {s : State} {l : Link} {p : Port} (hp : p.heldBack = [])
    (ho : (portOf s l.other).heldBack = []) : NoneHeldBack (setPort l p s) := by
  intro m
  rw [portOf_setPort]
  split
  · exact hp
  · next hm =>
    rw [show m = l.other by cases m <;> cases l <;> first | rfl | exact absurd rfl hm]
    exact ho

theorem noneHeldBack_refillCalls {s : State} (l : Link) (h : NoneHeldBack s) : NoneHeldBack (refillCalls l s) := by
  intro m
  have hm := h m
  unfold refillCalls
  split
  · split
    · cases l <;> cases m <;> exact hm
    · exact hm
  · exact hm
  · exact hm

theorem noneHeldBack_startWaiting {s : State} (l : Link) (h : NoneHeldBack s) : NoneHeldBack (startWaiting l s) := by
  unfold startWaiting
  dsimp only
  split
  · exact noneHeldBack_setPort (h l) (h l.other)
  · exact noneHeldBack_refillCalls l (noneHeldBack_setPort (h l) (h l.other))
  · exact noneHeldBack_setPort (h l) (h l.other)
  · exact noneHeldBack_setPort (h l) (h l.other)

/-- Settles O38, one lemma about `freeReturn` or `startWaiting` for each thing that may wait. -/
theorem arbiterStartsReplyThenCallThenNotice : Obligations.ArbiterStartsReplyThenCallThenNotice := by
  intro s l hheld
  have hset : ∀ p : Port, p.heldBack = [] → releaseAll (setPort l p s) = setPort l p s := fun p hp =>
    releaseAll_of_noneHeldBack (noneHeldBack_setPort hp (hheld l.other))
  have hother : l.other ≠ l := by cases l <;> nofun
  have hport : ∀ p : Port, portOf (setPort l p s) l.other = portOf s l.other := fun p => by
    rw [portOf_setPort, if_neg hother]
  refine ⟨fun hu hq => ?_, fun x hx hq he => ?_, fun h => ?_⟩
  · have hstart : exec (.returnDirectionFree l) s = .next (startWaiting l s) := by
      rw [exec_returnDirectionFree, freeReturn_of_up hu hq,
        releaseAll_of_noneHeldBack (noneHeldBack_startWaiting l hheld)]
    rw [hstart]
    refine ⟨fun r hr => ?_, fun x xs hr hc => ⟨fun h => ?_, fun y ys ho hy hroom => ?_⟩, fun n hr hc hn => ?_,
      fun hr hc hn => ?_⟩
    · rw [startWaiting_of_reply hr]
    · rw [startWaiting_of_call hr hc, refillCalls_of_nothing]
      unfold OpenLink
      rw [hport]
      exact h
    · rw [startWaiting_of_call hr hc, refillCalls_of_call (y := y) (ys := ys)]
      · cases l <;> rfl
      · unfold OpenLink
        rw [hport]
        exact ho
      · rw [hport]
        exact hy
      · rw [portOf_setPort, if_pos rfl]
        exact hroom
    · rw [startWaiting_of_notice hr hc hn]
    · rw [startWaiting_of_none hr hc hn]
  · rw [exec_returnDirectionFree, freeReturn_of_exchange hx hq he, hset _ (by exact hheld l)]
  · rw [exec_returnDirectionFree, freeReturn_of_silent h, hset _ (by exact hheld l)]

/-! ## Parcels held back -/

/-- A command that is a parcel has the parts it was made from. -/
theorem parcelParts_parcelCommand (l : Link) (kind code : Byte) (w : Wire) :
    parcelParts (parcelCommand l kind code w) = some (l, kind, code, w) := by
  have hkind : ∀ n : Nat, kind.toNat = n → kind = BitVec.ofNat 8 n := fun n h => by
    rw [← h, BitVec.ofNat_toNat, BitVec.setWidth_eq]
  unfold parcelCommand
  split
  · next h => rw [hkind 1 h]; rfl
  · next h => rw [hkind 2 h]; rfl
  · next h =>
    rw [hkind 3 h]
    split
    · next c hc =>
      rw [← controlCode_of_controlOfCode hc]
      cases c <;> rfl
    · rfl
  · next h => rw [hkind 4 h]; rfl
  · next h => rw [hkind 8 h]; rfl
  · rfl

/-- An UP link counts a parcel or routes it. -/
theorem disposal_of_up {p : Port} (h : p.state = .up) (straps : BitVec 4) (kind code : Byte) (w : Wire) :
    disposal p straps kind code w = .routed ∨ ∃ k, disposal p straps kind code w = .counted k := by
  unfold disposal
  simp only [h, true_or, if_true]
  split_ifs <;> simp_all

theorem heldBack_conclude (l : Link) (code : Byte) (tag : BitVec 16) (hall : Bool) (o : ControlOutcome)
    (data : List Byte) (pois : Bool) (s : State) (m : Link) :
    (portOf (conclude l code tag hall o data pois s) m).heldBack = (portOf s m).heldBack := by
  have hr : (recordConclusion l code tag hall o s).ports = s.ports := by
    unfold recordConclusion
    split <;> rfl
  have hp : ∀ n, portOf (recordConclusion l code tag hall o s) n = portOf s n := fun n => by rw [portOf, hr]; rfl
  unfold conclude
  dsimp only
  rw [makeReply_eq, portOf_setPort]
  split
  · next h => rw [h, hp]
  · rw [hp]

theorem heldBack_quietOther (l : Link) (w : Wire) (s : State) (m : Link) :
    (portOf (takeControl .quietOther l w (quietOtherRule l) nothingAfter s) m).heldBack = (portOf s m).heldBack := by
  unfold takeControl quietOtherRule nothingAfter
  dsimp only
  split_ifs
  · rw [heldBack_conclude, portOf_supersede]
  · rw [heldBack_conclude, portOf_supersede]
  · rw [heldBack_conclude, portOf_supersede]
  · rw [heldBack_conclude, makeQuiet, portOf_rerouteWaiting, portOf_modPort]
    dsimp only
    split
    · rw [portOf_supersede]
    · rw [portOf_supersede]

/-- A parcel that arrives on an UP link with no reply waiting is not held back. -/
theorem noneHeldBack_arrive {s : State} {l : Link} (hup : (portOf s l).state = .up) (hr : (portOf s l).reply = none)
    (hs : NoneHeldBack s) (kind code : Byte) (w : Wire) {body : State → State}
    (hbody : ∀ m, (portOf (body s) m).heldBack = (portOf s m).heldBack) :
    NoneHeldBack (arrive l kind code w body s) := by
  have hn : holdsBack (portOf s l) = false := by simp [holdsBack, hs l]
  intro m
  unfold arrive dispose
  rw [hn]
  rcases disposal_of_up hup s.straps kind code w with hd | ⟨k, hd⟩
  · rw [hd, hr]
    simp only [Option.isSome_none, Bool.false_eq_true, and_false, if_false]
    rw [hbody, hs m]
  · rw [hd]
    simp only [Bool.false_eq_true, if_false]
    rw [portOf_countReceive, hs m]

theorem parcelStep_of_kinds {kind : Byte}
    (h : kind.toNat ≠ 1 ∧ kind.toNat ≠ 2 ∧ kind.toNat ≠ 3 ∧ kind.toNat ≠ 4 ∧ kind.toNat ≠ 8) (l : Link) (code : Byte)
    (w : Wire) (s : State) : parcelCommand l kind code w = .unknownKindParcel l kind code w
      ∧ parcelStep l kind code w s = arrive l kind code w id s := by
  obtain ⟨h1, h2, h3, h4, h8⟩ := h
  unfold parcelCommand parcelStep
  constructor
  · split <;> first | rfl | contradiction
  · split <;> first | rfl | contradiction

/-- A parcel that arrives on an UP link with no reply waiting, where nothing is held back, is its command. -/
theorem exec_parcelCommand {s : State} {l : Link} (hup : (portOf s l).state = .up)
    (hr : (portOf s l).reply = none) (hs : NoneHeldBack s) (kind code : Byte) (w : Wire) :
    exec (parcelCommand l kind code w) s = .next (parcelStep l kind code w s) := by
  have hrel : ∀ {t : State}, NoneHeldBack t → (Host.Outcome.next (releaseAll t) : Result) = .next t := fun ht => by
    rw [releaseAll_of_noneHeldBack ht]
  by_cases hk : kind.toNat ≠ 1 ∧ kind.toNat ≠ 2 ∧ kind.toNat ≠ 3 ∧ kind.toNat ≠ 4 ∧ kind.toNat ≠ 8
  · obtain ⟨hc, hp⟩ := parcelStep_of_kinds hk l code w s
    rw [hc]
    refine hrel ?_
    rw [hp]
    exact noneHeldBack_arrive hup hr hs _ _ _ (fun _ => rfl)
  have hown : ∀ n : Nat, kind.toNat = n → kind = BitVec.ofNat 8 n := fun n h => by
    rw [← h, BitVec.ofNat_toNat, BitVec.setWidth_eq]
  have hkinds : kind = 1 ∨ kind = 2 ∨ kind = 3 ∨ kind = 4 ∨ kind = 8 := by
    by_contra hne
    push Not at hne
    exact hk ⟨fun h => hne.1 (hown 1 h), fun h => hne.2.1 (hown 2 h), fun h => hne.2.2.1 (hown 3 h),
      fun h => hne.2.2.2.1 (hown 4 h), fun h => hne.2.2.2.2 (hown 8 h)⟩
  rcases hkinds with rfl | rfl | rfl | rfl | rfl
  · rfl
  · rfl
  · cases hc : controlOfCode code with
    | some c =>
      have hcmd : parcelCommand l 3 code w = controlCommand c l w := by
        simp [parcelCommand, hc]
      have hstep : parcelStep l 3 code w s = controlStep c l w s := by
        simp [parcelStep, controlParcelStep, hc]
      rw [hcmd, hstep, exec_controlCommand]
      split
      · next hq =>
        rw [hq]
        exact hrel (noneHeldBack_arrive hup hr hs _ _ _ (heldBack_quietOther l w s))
      · rfl
    | none =>
      have hcmd : parcelCommand l 3 code w = .unknownControl l code w := by
        simp [parcelCommand, hc]
      have hstep : parcelStep l 3 code w s = controlParcelStep l code w s := rfl
      have harr : controlParcelStep l code w s = arrive l 3 code w (takeUnknownControl l code w) s := by
        simp [controlParcelStep, hc]
      rw [hcmd, hstep]
      refine hrel ?_
      rw [harr]
      refine noneHeldBack_arrive hup hr hs _ _ _ fun m => ?_
      unfold takeUnknownControl
      rw [heldBack_conclude, portOf_supersede]
  · rfl
  · rfl

theorem receiveParcel_parcelCommand (l : Link) (kind code : Byte) (w : Wire) (s : State) :
    receiveParcel s (parcelCommand l kind code w) = parcelStep l kind code w s := by
  unfold receiveParcel
  rw [parcelParts_parcelCommand]

/-- A parcel that joins those held back behind a waiting reply is all that its command does. -/
theorem exec_of_holdBack {s : State} {l : Link} {kind code : Byte} {w : Wire} {r : Reply}
    (hr : (portOf s l).reply = some r) (ho : (portOf s l.other).heldBack = [])
    (h : parcelStep l kind code w s = holdBack l (parcelCommand l kind code w) s) :
    exec (parcelCommand l kind code w) s = .next (holdBack l (parcelCommand l kind code w) s) := by
  have hdue : ∀ m, releaseDue m (holdBack l (parcelCommand l kind code w) s) = false := fun m => by
    unfold releaseDue holdBack
    rw [portOf_modPort]
    split
    · next hm =>
      rw [hm, hr]
      simp
    · next hm =>
      rw [show m = l.other by cases m <;> cases l <;> first | rfl | exact absurd rfl hm, ho]
      rfl
  rcases exec_parcel (parcelParts_parcelCommand l kind code w) s with he | he
  · rw [he, h]
  · rw [he, h, releaseAll_of_notDue hdue]

/-- Settles O39: a CONTROL behind a waiting reply joins `heldBack`, whatever follows it joins it untested, and once the
reply has begun the one parcel held back arrives as on a link with nothing waiting. -/
theorem controlWaitsBehindAReply : Obligations.ControlWaitsBehindAReply := by
  refine ⟨fun s l code w r hheld hp hr => ?_, fun s l kind code w r hup hr hne ho => ?_,
    fun s l kind code w r hup hq hr hh ho => ?_⟩
  · have hstep : parcelStep l 3 code w s = holdBack l (parcelCommand l 3 code w) s := by
      obtain ⟨body, hbody⟩ := parcelStep_arrives l 3 code w
      have hn : holdsBack (portOf s l) = false := by simp [holdsBack, hp.notHeld]
      rw [hbody, arrive, hn, if_neg Bool.false_ne_true, dispose, disposal_of_passes hp (by decide), hr]
      rfl
    rw [exec_of_holdBack hr (hheld l.other) hstep, holdBack, modPort, hp.notHeld]
    rfl
  · have hstep : parcelStep l kind code w s = holdBack l (parcelCommand l kind code w) s := by
      obtain ⟨body, hbody⟩ := parcelStep_arrives l kind code w
      have hn : holdsBack (portOf s l) = true := by simp [holdsBack, hup, hne]
      rw [hbody, arrive, if_pos hn]
    rw [exec_of_holdBack hr ho hstep, holdBack, modPort]
  · have hother : l.other ≠ l := by cases l <;> nofun
    have hfree : freeReturn l s = setPort l { portOf s l with reply := none, sending := replyParcel s.straps r } s := by
      rw [freeReturn_of_up hup hq, startWaiting_of_reply hr]
    have hset : ∀ p q : Port, setPort l p (setPort l q s) = setPort l p s := by cases l <;> exact fun _ _ => rfl
    rw [exec_returnDirectionFree, hfree,
      releaseAll_of_one (i := parcelCommand l kind code w) (l := l) (by rw [portOf_setPort, if_pos rfl])
        (by rw [portOf_setPort, if_pos rfl, ← hh]) (by rw [portOf_setPort, if_neg hother, ho]),
      receiveParcel_parcelCommand, hset, portOf_setPort, if_pos rfl]
    refine (exec_parcelCommand ?_ ?_ ?_ kind code w).symm
    · rw [portOf_setPort, if_pos rfl]
      exact hup
    · rw [portOf_setPort, if_pos rfl]
    · exact noneHeldBack_setPort rfl ho

/-! ## Counters and latched kinds -/

theorem receiveCount_bumpReceive (c : Counters) (k : ReceiveCounter) :
    receiveCount (bumpReceive c k) k = bump (receiveCount c k) := by cases k <;> rfl

theorem receiveCount_bumpReceive_other (c : Counters) {j k : ReceiveCounter} (h : j ≠ k) :
    receiveCount (bumpReceive c k) j = receiveCount c j := by
  cases k <;> cases j <;> first | rfl | exact absurd rfl h

theorem restarts_bumpReceive (c : Counters) (k : ReceiveCounter) : (bumpReceive c k).restarts = c.restarts := by
  cases k <;> rfl

theorem counters_countReceive (l m : Link) (k : ReceiveCounter) (s : State) :
    (portOf (countReceive l k s) m).counters =
      if m = l then bumpReceive (portOf s m).counters k else (portOf s m).counters := by
  unfold countReceive
  dsimp only
  split
  · rw [portOf_latchKind, portOf_modPort]
    dsimp only
    split <;> rfl
  · rw [portOf_modPort]
    split <;> rfl

/-- A clear kind joins the latch, and an enabled one sends a notice (R181, R183). -/
theorem latchKind_of_clear {s : State} {k : NoticeKind} (h : holdsKind s.notices.latched k = false) :
    latchKind k s =
      if holdsKind s.notices.enabled k then
        sendNotice { s with notices.latched := s.notices.latched ||| kindBit k }
      else { s with notices.latched := s.notices.latched ||| kindBit k } := by
  unfold latchKind
  rw [h]
  rfl

theorem routeLink_cases (report : Link) (s : State) :
    (routeLink report s = report ∨ (routeLink report s = report.other ∧ ¬OpenLink s report ∧ OpenLink s report.other))
      ∧ (OpenLink s report → routeLink report s = report)
      ∧ (¬OpenLink s report → OpenLink s report.other → routeLink report s = report.other) := by
  unfold routeLink
  by_cases h1 : OpenLink s report
  · simp [(isOpen_iff s report).2 h1, h1]
  · by_cases h2 : OpenLink s report.other <;> simp [isOpen_iff, h1, h2]

/-- Settles O40: a counter by `bumpReceive`, a kind by the cases of `latchKind`. -/
theorem countersAndKindsLatch : Obligations.CountersAndKindsLatch := by
  constructor
  · intro s l k
    have hother : l.other ≠ l := by cases l <;> nofun
    dsimp only
    refine ⟨?_, fun j hj => ?_, ?_, ?_, fun h0 => ?_, fun h0 => ?_, countReceive_only l k s⟩
    · rw [counters_countReceive, if_pos rfl, receiveCount_bumpReceive, bump_eq]
    · rw [counters_countReceive, if_pos rfl, receiveCount_bumpReceive_other _ hj]
    · rw [counters_countReceive, if_pos rfl, restarts_bumpReceive]
    · rw [counters_countReceive, if_neg hother]
    · have ht : countReceive l k s =
          latchKind .linkErrors (modPort l (fun p => { p with counters := bumpReceive p.counters k }) s) := by
        unfold countReceive
        exact if_pos h0
      refine ⟨by rw [ht, latchKind_holds], _, rfl, ?_⟩
      rw [counters_countReceive, if_pos rfl, ht]
      rfl
    · have ht : countReceive l k s = modPort l (fun p => { p with counters := bumpReceive p.counters k }) s := by
        unfold countReceive
        exact if_neg h0
      rw [ht, portOf_modPort, portOf_modPort, if_neg hother, if_pos rfl]
      exact ⟨rfl, rfl, rfl⟩
  · intro s k
    refine ⟨fun h => by unfold latchKind; exact if_pos h, fun h => ?_, latchKind_only k s⟩
    refine ⟨?_, latchKind_holds k s, fun j hj => latchKind_other hj s, fun he => ?_, fun he => ?_⟩
    · rw [latchKind_of_clear h]
      split <;> rfl
    · rw [latchKind_of_clear h, he]
      rfl
    · obtain ⟨h1, h2, h3⟩ := routeLink_cases s.tables.settings.reportLink s
      refine ⟨_, h1, h2, h3, ?_⟩
      rw [latchKind_of_clear h, if_pos he]
      rfl

end Sys2Proof.Machine
end

section
/-!
Tile calls in the Call List, and band freezes: what the freeze of the next band decides, and what it leaves
(chapters 5.2 and 5.3).
-/

namespace Sys2Proof.Machine

/-! ## Calls -/

/-- A call stands behind the calls that are as near, and these are the front of the list. -/
theorem take_callRank (l due : LineValue) (cs : List Call) :
    cs.take (callRank l due cs) = cs.takeWhile fun c => decide (linesAhead c.due l ≤ linesAhead due l) :=
  (List.prefix_iff_eq_take.1 (List.takeWhile_prefix _)).symm

theorem drop_callRank (l due : LineValue) (cs : List Call) :
    cs.drop (callRank l due cs) = cs.dropWhile fun c => decide (linesAhead c.due l ≤ linesAhead due l) := by
  refine List.append_cancel_left (as := cs.take (callRank l due cs)) ?_
  rw [List.take_append_drop, take_callRank, List.takeWhile_append_dropWhile]

theorem callRank_le (l due : LineValue) (cs : List Call) : callRank l due cs ≤ cs.length :=
  (List.takeWhile_prefix _).length_le

/-- In a list in the order of due lines every call behind the place is farther away. -/
theorem ahead_of_mem_drop {l due : LineValue} {cs : List Call}
    (h : cs.Pairwise fun c d => linesAhead c.due l ≤ linesAhead d.due l) {c : Call}
    (hc : c ∈ cs.drop (callRank l due cs)) : linesAhead due l < linesAhead c.due l := by
  rw [drop_callRank] at hc
  have hd := h.sublist (List.dropWhile_sublist (fun c : Call => decide (linesAhead c.due l ≤ linesAhead due l)))
  cases hs : cs.dropWhile fun c => decide (linesAhead c.due l ≤ linesAhead due l) with
  | nil =>
    rw [hs] at hc
    cases hc
  | cons x xs =>
    have hx : linesAhead due l < linesAhead x.due l := by
      have := List.head_dropWhile_not (fun c : Call => decide (linesAhead c.due l ≤ linesAhead due l))
        (l := cs) (by rw [hs]; nofun)
      simpa [hs] using this
    rw [hs] at hc hd
    rcases List.mem_cons.1 hc with rfl | hm
    · exact hx
    · exact hx.trans_le ((List.pairwise_cons.1 hd).1 c hm)

theorem insertIdx_eq_take_cons_drop {α : Type} (a : α) {xs : List α} {k : Nat} (h : k ≤ xs.length) :
    xs.insertIdx k a = xs.take k ++ a :: xs.drop k := by
  induction xs generalizing k with
  | nil =>
    obtain rfl : k = 0 := by simpa using h
    rfl
  | cons x xs ih =>
    cases k with
    | zero => rfl
    | succ k =>
      rw [List.insertIdx_succ_cons, ih (by simpa using h)]
      rfl

/-- A call that can be carried joins the Call List at its rank and the routed link's call queue (R87, R88). -/
theorem issueCall_of_room {s : State} (tag : BitVec 16) (i : RosterIndex) (due : LineValue)
    (h : s.seats.calls.length < 64 ∧ (portOf s (routeLink s.tables.settings.callLink s)).calls.length < 64) :
    issueCall tag i due s =
      modPort (routeLink s.tables.settings.callLink s)
        (fun p =>
          { p with
            calls := p.calls
              ++ [{ studentId := (recordOf s i).studentId, index := i, tag := tag, due := due
                    remaining := due - s.press.lineCount, mark := s.timeMark
                    rank := callRank s.press.lineCount due s.seats.calls }] })
        { s with
          seats.calls := s.seats.calls.insertIdx (callRank s.press.lineCount due s.seats.calls)
            { tag := tag, index := i, studentId := (recordOf s i).studentId, due := due, mark := s.timeMark } } := by
  unfold issueCall
  exact if_pos h

/-- Settles O43, with the rank of `callRank` as the place. -/
theorem callJoinsTheListByItsDueLine : Obligations.CallJoinsTheListByItsDueLine := by
  intro s tag i due
  refine ⟨fun h => ?_, fun h => ?_⟩
  · have ht : ∀ c : Call, c ∈ s.seats.calls.take (callRank s.press.lineCount due s.seats.calls) →
        linesAhead c.due s.press.lineCount ≤ linesAhead due s.press.lineCount := fun c hc => by
      rw [take_callRank] at hc
      simpa using List.mem_takeWhile_imp hc
    have hcall := issueCall_of_room tag i due h
    have hseats : (issueCall tag i due s).seats.calls =
        s.seats.calls.take (callRank s.press.lineCount due s.seats.calls)
          ++ { tag := tag, index := i, studentId := (recordOf s i).studentId, due := due, mark := s.timeMark }
          :: s.seats.calls.drop (callRank s.press.lineCount due s.seats.calls) := by
      rw [hcall]
      exact insertIdx_eq_take_cons_drop _ (callRank_le _ _ _)
    refine ⟨callRank s.press.lineCount due s.seats.calls, callRank_le _ _ _, ?_, ht, fun hp => ?_, ?_⟩
    · rw [← hseats, hcall]
      rfl
    · refine ⟨fun c hc => ahead_of_mem_drop hp hc, ?_⟩
      dsimp only
      rw [hseats, List.pairwise_append, List.pairwise_cons]
      refine ⟨hp.sublist (List.take_sublist _ _), ⟨fun d hd => (ahead_of_mem_drop hp hd).le,
        hp.sublist (List.drop_sublist _ _)⟩, fun c hc d hd => ?_⟩
      rcases List.mem_cons.1 hd with rfl | hd
      · exact ht c hc
      · exact (ht c hc).trans (ahead_of_mem_drop hp hd).le
    · dsimp only
      rw [hcall]
      rfl
  · have hcall : issueCall tag i due s = dropCall s := by
      unfold issueCall
      exact if_neg h
    dsimp only
    rw [hcall, dropCall]
    refine ⟨?_, latchKind_holds _ _, ?_⟩
    · rw [latchKind_only, bump_eq]
    · rw [latchKind_only]

/-! ## The freeze of a band -/

/-- The seat of a number is decided at the freeze of band `k`: it is UNDECIDED and `k` is its first band. -/
def DueSeat (o : Order) (k n : Nat) : Prop :=
  ∃ (e : SeatEntry) (ln : SeatLines), o.decisions[n]? = some e ∧ o.seatLines[n]? = some ln
    ∧ e.decision = .undecided ∧ ln.firstBand = k

/-- The Decision Table entry of a seat decided now. -/
def decidedEntry (s : State) (i : RosterIndex) : SeatEntry :=
  { decision := decisionNow s i, lockMark := decide (decisionNow s i = .placed) }

theorem decideSeat_eq {s : State} {o : Order} {rest : List Order} (hq : s.scheduler.queue = o :: rest)
    (tag : BitVec 16) (n : Nat) (i : RosterIndex) :
    decideSeat tag n i s =
      { s with
        scheduler.queue := { o with decisions := o.decisions.set n (decidedEntry s i) } :: rest
        seats.calls := s.seats.calls.filter fun c => decide (¬(c.tag = tag ∧ c.index = i))
        intake.directory := (if decisionNow s i = .placed then lockEntry i s else s).intake.directory } := by
  unfold decideSeat setDecision dropCallsFor
  dsimp only
  rw [modHead_cons hq]
  split
  · unfold lockEntry
    rw [show ∀ q, (entryOf { s with scheduler.queue := q } i).held = (entryOf s i).held from fun _ => rfl]
    cases hh : (entryOf s i).held <;> rfl
  · rfl

theorem entryOf_decideSeat {s : State} {o : Order} {rest : List Order} (hq : s.scheduler.queue = o :: rest)
    (tag : BitVec 16) (n : Nat) (i j : RosterIndex) :
    entryOf (decideSeat tag n i s) j =
      if j = i ∧ decisionNow s i = .placed then
        { entryOf s i with held := (entryOf s i).held.map fun h => { h with lock := h.lock + 1 } }
      else entryOf s j := by
  have h : entryOf (decideSeat tag n i s) j = entryOf (if decisionNow s i = .placed then lockEntry i s else s) j := by
    rw [decideSeat_eq hq]
    rfl
  rw [h]
  by_cases hp : decisionNow s i = .placed
  · rw [if_pos hp, entryOf_lockEntry]
    simp only [hp, and_true]
  · rw [if_neg hp, if_neg fun h => hp h.2]

theorem freezeSeat_of_due {s : State} {o : Order} {rest : List Order} (hq : s.scheduler.queue = o :: rest)
    {k n : Nat} (h : DueSeat o k n) (tag : BitVec 16) (x : Seat) :
    freezeSeat tag k s (x, n) = decideSeat tag n x.index s := by
  obtain ⟨e, ln, he, hl, hd, hk⟩ := h
  have hs : seatLinesAt s n = some ln := by
    unfold seatLinesAt headOrder
    rw [hq]
    exact hl
  unfold freezeSeat
  rw [hs]
  exact if_pos ⟨isUndecided_iff.2 ⟨o, rest, e, hq, he, hd⟩, hk⟩

theorem freezeSeat_of_notDue {s : State} {o : Order} {rest : List Order} (hq : s.scheduler.queue = o :: rest)
    {k n : Nat} (h : ¬DueSeat o k n) (tag : BitVec 16) (x : Seat) : freezeSeat tag k s (x, n) = s := by
  unfold freezeSeat seatLinesAt headOrder
  rw [hq]
  dsimp only [List.head?_cons]
  split
  · next ln hl =>
    refine if_neg fun hu => h ?_
    obtain ⟨o1, rest1, e, hq1, he, hd⟩ := isUndecided_iff.1 hu.1
    obtain ⟨rfl, rfl⟩ := List.cons.inj (hq.symm.trans hq1)
    exact ⟨e, ln, he, hl, hd, hu.2⟩
  · rfl

theorem decisionNow_congr {s t : State} {i : RosterIndex} (hr : recordOf t i = recordOf s i)
    (hh : (entryOf t i).held.map Held.state = (entryOf s i).held.map Held.state) :
    decisionNow t i = decisionNow s i := by
  unfold decisionNow
  rw [hr]
  generalize (entryOf t i).held = a at hh
  generalize (entryOf s i).held = b at hh
  cases a with
  | none =>
    cases b with
    | none => rfl
    | some y => cases hh
  | some x =>
    cases b with
    | none => cases hh
    | some y =>
      have hxy : x.state = y.state := Option.some.inj hh
      simp only [hxy]

/-- The freeze of band `k` has passed by the first seats of the plan: `t` is what it has left so far of `s`. -/
structure FrozenUpTo (s : State) (tag : BitVec 16) (k : Nat) (o : Order) (rest : List Order) (xs : List Seat)
    (ds : List SeatEntry) (t : State) : Prop where
  only : t = { s with
    scheduler.queue := { o with decisions := ds } :: rest, seats.calls := t.seats.calls
    intake.directory := t.intake.directory }
  decided : ∀ (n : Nat) (x : Seat), xs[n]? = some x → DueSeat o k n → ds[n]? = some (decidedEntry s x.index)
  passed : ∀ n, ¬(n < xs.length ∧ DueSeat o k n) → ds[n]? = o.decisions[n]?
  calls : ∀ (n : Nat) (x : Seat), xs[n]? = some x → DueSeat o k n →
    ∀ c ∈ t.seats.calls, ¬(c.tag = tag ∧ c.index = x.index)
  states : ∀ i, (entryOf t i).held.map Held.state = (entryOf s i).held.map Held.state
  spared : ∀ i, (∀ (n : Nat) (x : Seat), xs[n]? = some x → DueSeat o k n → x.index ≠ i) → entryOf t i = entryOf s i
  locked : ∀ (n : Nat) (x : Seat), xs[n]? = some x → DueSeat o k n →
    (∀ (m : Nat) (y : Seat), xs[m]? = some y → y.index = x.index → m = n) →
    entryOf t x.index =
      if decisionNow s x.index = .placed then
        { entryOf s x.index with held := (entryOf s x.index).held.map fun h => { h with lock := h.lock + 1 } }
      else entryOf s x.index

theorem FrozenUpTo.nil {s : State} {o : Order} {rest : List Order} (hq : s.scheduler.queue = o :: rest)
    (tag : BitVec 16) (k : Nat) : FrozenUpTo s tag k o rest [] o.decisions s where
  only := by
    show s = { s with scheduler.queue := o :: rest }
    rw [← hq]
  decided := by nofun
  passed := fun _ _ => rfl
  calls := by nofun
  states := fun _ => rfl
  spared := fun _ _ => rfl
  locked := by nofun

/-- The seat at a place of a list with one more seat at its back. -/
theorem getElem?_concat_cases {α : Type} {xs : List α} {x y : α} {n : Nat} (h : (xs ++ [x])[n]? = some y) :
    xs[n]? = some y ∨ (n = xs.length ∧ y = x) := by
  rw [List.getElem?_append] at h
  split at h
  · exact .inl h
  · next hn =>
    have hlt := (List.getElem?_eq_some_iff.1 h).1
    have h0 : n - xs.length = 0 := by simpa using hlt
    rw [h0] at h
    exact .inr ⟨by omega, (Option.some.inj h).symm⟩

theorem FrozenUpTo.concat_notDue {s t : State} {tag : BitVec 16} {k : Nat} {o : Order} {rest : List Order}
    {xs : List Seat} {ds : List SeatEntry} (h : FrozenUpTo s tag k o rest xs ds t) (hn : ¬DueSeat o k xs.length)
    (x : Seat) : FrozenUpTo s tag k o rest (xs ++ [x]) ds t := by
  have hmem : ∀ (n : Nat) (y : Seat), (xs ++ [x])[n]? = some y → DueSeat o k n → xs[n]? = some y := fun n y hy hd => by
    rcases getElem?_concat_cases hy with h1 | ⟨rfl, -⟩
    · exact h1
    · exact absurd hd hn
  refine { h with
    decided := fun n y hy hd => h.decided n y (hmem n y hy hd) hd
    passed := fun n hp => h.passed n fun hlt => hp ⟨?_, hlt.2⟩
    calls := fun n y hy hd => h.calls n y (hmem n y hy hd) hd
    spared := fun i hi => h.spared i fun n y hy hd => hi n y ?_ hd
    locked := fun n y hy hd hu => h.locked n y (hmem n y hy hd) hd fun m z hz hi => hu m z ?_ hi }
  · rw [List.length_append]
    exact Nat.lt_add_right _ hlt.1
  · rw [List.getElem?_append_left (List.getElem?_eq_some_iff.1 hy).1, hy]
  · rw [List.getElem?_append_left (List.getElem?_eq_some_iff.1 hz).1, hz]

theorem DueSeat.lt_length {o : Order} {k n : Nat} (h : DueSeat o k n) : n < o.decisions.length := by
  obtain ⟨e, -, he, -⟩ := h
  exact (List.getElem?_eq_some_iff.1 he).1

theorem FrozenUpTo.concat_due {s t : State} {tag : BitVec 16} {k : Nat} {o : Order} {rest : List Order}
    {xs : List Seat} {ds : List SeatEntry} (h : FrozenUpTo s tag k o rest xs ds t) (hn : DueSeat o k xs.length)
    (x : Seat) :
    FrozenUpTo s tag k o rest (xs ++ [x]) (ds.set xs.length (decidedEntry s x.index))
      (decideSeat tag xs.length x.index t) := by
  have hq : t.scheduler.queue = { o with decisions := ds } :: rest := by rw [h.only]
  have hrec : ∀ i, recordOf t i = recordOf s i := fun i => by rw [h.only]; rfl
  have hnow : decisionNow t x.index = decisionNow s x.index := decisionNow_congr (hrec _) (h.states _)
  have hentry : decidedEntry t x.index = decidedEntry s x.index := by unfold decidedEntry; rw [hnow]
  have hcalls : (decideSeat tag xs.length x.index t).seats.calls =
      t.seats.calls.filter fun c => decide (¬(c.tag = tag ∧ c.index = x.index)) := by rw [decideSeat_eq hq]
  have hlen : xs.length < ds.length := by
    have h0 : ds[xs.length]? = o.decisions[xs.length]? := h.passed _ fun hlt => absurd hlt.1 (Nat.lt_irrefl _)
    rw [List.getElem?_eq_getElem hn.lt_length] at h0
    exact (List.getElem?_eq_some_iff.1 h0).1
  have hlast : (xs ++ [x])[xs.length]? = some x := by simp
  have hfirst : ∀ {n : Nat} {y : Seat}, xs[n]? = some y → (xs ++ [x])[n]? = some y := fun hy => by
    rw [List.getElem?_append_left (List.getElem?_eq_some_iff.1 hy).1, hy]
  have hlt : ∀ {n : Nat} {y : Seat}, xs[n]? = some y → n < xs.length := fun hy => (List.getElem?_eq_some_iff.1 hy).1
  have hd := entryOf_decideSeat hq tag xs.length x.index
  rw [hnow] at hd
  refine { only := ?_, decided := ?_, passed := ?_, calls := ?_, states := ?_, spared := ?_, locked := ?_ }
  · have he := decideSeat_eq hq tag xs.length x.index
    rw [hentry] at he
    generalize (if decisionNow t x.index = .placed then lockEntry x.index t else t).intake.directory = d at he
    generalize List.filter _ t.seats.calls = cs at he
    rw [he]
    conv_lhs => rw [h.only]
  · intro n y hy hd
    rcases getElem?_concat_cases hy with h1 | ⟨rfl, rfl⟩
    · rw [List.getElem?_set_ne (hlt h1).ne']
      exact h.decided n y h1 hd
    · rw [List.getElem?_set_self hlen]
  · intro n hp
    have hne : xs.length ≠ n := fun e => hp ⟨by simp [← e], e ▸ hn⟩
    rw [List.getElem?_set_ne hne]
    refine h.passed n fun hlt => hp ⟨?_, hlt.2⟩
    rw [List.length_append]
    exact Nat.lt_add_right _ hlt.1
  · intro n y hy hd c hc
    rw [hcalls, List.mem_filter] at hc
    rcases getElem?_concat_cases hy with h1 | ⟨rfl, rfl⟩
    · exact h.calls n y h1 hd c hc.1
    · exact of_decide_eq_true hc.2
  · intro i
    rw [hd i, ← h.states i]
    split
    · next hi =>
      rw [hi.1, Option.map_map]
      rfl
    · rfl
  · intro i hi
    rw [hd i, if_neg fun hx => hi _ x hlast hn hx.1.symm]
    exact h.spared i fun n y hy hd => hi n y (hfirst hy) hd
  · intro n y hy hdue hu
    rcases getElem?_concat_cases hy with h1 | ⟨rfl, rfl⟩
    · have hne : y.index ≠ x.index := fun e => (hlt h1).ne' (hu _ x hlast e.symm)
      rw [hd, if_neg fun hx => hne hx.1]
      exact h.locked n y h1 hdue fun m z hz hi => hu m z (hfirst hz) hi
    · have hsame : entryOf t y.index = entryOf s y.index := h.spared _ fun m z hz _ hi =>
        (hlt hz).ne (hu m z (hfirst hz) hi)
      rw [hd, hsame]
      simp only [true_and]

/-- The freeze of band `k` over every seat of a plan. -/
theorem frozenUpTo_freezeSeats {s : State} {o : Order} {rest : List Order} (hq : s.scheduler.queue = o :: rest)
    (tag : BitVec 16) (k : Nat) (xs : List Seat) :
    ∃ ds, FrozenUpTo s tag k o rest xs ds (xs.zipIdx.foldl (freezeSeat tag k) s) := by
  induction xs using List.reverseRecOn with
  | nil => exact ⟨_, .nil hq tag k⟩
  | append_singleton xs x ih =>
    obtain ⟨ds, h⟩ := ih
    have hq1 : (xs.zipIdx.foldl (freezeSeat tag k) s).scheduler.queue = { o with decisions := ds } :: rest := by
      rw [h.only]
    have hsame : DueSeat { o with decisions := ds } k xs.length ↔ DueSeat o k xs.length := by
      unfold DueSeat
      rw [h.passed xs.length fun hlt => absurd hlt.1 (Nat.lt_irrefl _)]
    rw [List.zipIdx_append, List.foldl_append]
    simp only [List.zipIdx_cons, List.zipIdx_nil, List.foldl_cons, List.foldl_nil, Nat.zero_add]
    by_cases hn : DueSeat o k xs.length
    · rw [freezeSeat_of_due hq1 (hsame.2 hn)]
      exact ⟨_, h.concat_due hn x⟩
    · rw [freezeSeat_of_notDue hq1 (hsame.not.2 hn)]
      exact ⟨_, h.concat_notDue hn x⟩

theorem decisionNow_of_withheld {s : State} {i : RosterIndex} (h : (recordOf s i).withheld = true) :
    decisionNow s i = .withheld := by
  unfold decisionNow
  exact if_pos h

theorem decisionNow_of_ready {s : State} {i : RosterIndex} {x : Held} (h : (recordOf s i).withheld = false)
    (hh : (entryOf s i).held = some x) (hr : x.state = .ready) : decisionNow s i = .placed := by
  unfold decisionNow
  rw [h, hh]
  simp only [hr, Bool.false_eq_true, if_false]

theorem decisionNow_of_notReady {s : State} {i : RosterIndex} (h : (recordOf s i).withheld = false)
    (hn : ¬∃ x : Held, (entryOf s i).held = some x ∧ x.state = .ready) : decisionNow s i = .absent := by
  unfold decisionNow
  rw [h]
  simp only [Bool.false_eq_true, if_false]
  split
  · next x hx =>
    split
    · next hr => exact absurd ⟨x, hx, hr⟩ hn
    · rfl
  · rfl

/-- Settles O41, by `FrozenUpTo` over the seats of the plan. -/
theorem freezeDecidesTheSeatsOfItsBand : Obligations.FreezeDecidesTheSeatsOfItsBand := by
  intro s c p o rest hc hp hq
  obtain ⟨ds, h⟩ := frozenUpTo_freezeSeats hq c.tag c.nextFreeze p.seats
  have hband : freezeBand s =
      modImpression (fun c => { c with nextFreeze := c.nextFreeze + 1 })
        (p.seats.zipIdx.foldl (freezeSeat c.tag c.nextFreeze) s) := by
    unfold freezeBand
    rw [hc]
    dsimp only
    rw [hp]
  generalize p.seats.zipIdx.foldl (freezeSeat c.tag c.nextFreeze) s = t at h hband
  dsimp only
  rw [hband]
  refine ⟨{ o with decisions := ds }, ?_, rfl, fun n x hx hd => ⟨fun hw => ?_, fun hw hr => ?_, fun hw hr => ?_, ?_⟩,
    fun n _ hd => h.passed n fun hlt => hd hlt.2, fun i hi => h.spared i hi,
    fun n x y hx hd hu hh => ?_, ?_, ?_, ?_, ?_, ?_⟩
  · unfold modImpression
    rw [h.only, hc]
    rfl
  · rw [h.decided n x hx hd, decidedEntry, decisionNow_of_withheld hw]
    rfl
  · obtain ⟨y, hy, hyr⟩ := hr
    rw [h.decided n x hx hd, decidedEntry, decisionNow_of_ready hw hy hyr]
    rfl
  · rw [h.decided n x hx hd, decidedEntry, decisionNow_of_notReady hw hr]
    rfl
  · exact h.calls n x hx hd
  · have hl := h.locked n x hx hd hu
    show (entryOf t x.index).held = _
    by_cases hr : y.state = .ready ∧ (recordOf s x.index).withheld = false
    · rw [hl, if_pos hr, if_pos (decisionNow_of_ready hr.2 hh hr.1), hh]
      rfl
    · rw [hl, if_neg hr, if_neg, hh]
      intro hpl
      obtain ⟨hw, z, hz, hzr⟩ := decisionNow_placed hpl
      rw [hh] at hz
      exact hr ⟨Option.some.inj hz ▸ hzr, hw⟩
  all_goals
    unfold modImpression
    rw [h.only]

end Sys2Proof.Machine
end

section
/-!
The lines at which freezes and call points are taken: at a new value of the line count, and at a beginning
(chapters 5.1 and 5.2).
-/

namespace Sys2Proof.Machine

/-- An impression is in progress on this plan, printed for this head of the queue. -/
structure Runs (s : State) (c : Impression) (p : Plan) (o : Order) (rest : List Order) : Prop where
  impression : s.scheduler.impression = some c
  plan : planOf s c.plan = some p
  queue : s.scheduler.queue = o :: rest

theorem isReached_iff (x l : LineValue) : isReached x l = true ↔ x = l ∨ 2 ^ 47 ≤ (x - l).toNat := by
  unfold isReached isAhead linesAhead
  simp

/-! ## A call point -/

theorem issueCall_only (tag : BitVec 16) (i : RosterIndex) (due : LineValue) (s : State) :
    issueCall tag i due s =
      { s with
        seats := (issueCall tag i due s).seats, ports := (issueCall tag i due s).ports
        notices := (issueCall tag i due s).notices } := by
  unfold issueCall dropCall
  dsimp only
  split
  · rfl
  · rw [latchKind_only]

/-- A seat is UNDECIDED in the head order. -/
def Undecided (o : Order) (n : Nat) : Prop := ∃ e : SeatEntry, o.decisions[n]? = some e ∧ e.decision = .undecided

theorem isUndecided_cons {s : State} {o : Order} {rest : List Order} (hq : s.scheduler.queue = o :: rest) (n : Nat) :
    isUndecided s n = true ↔ Undecided o n := by
  rw [isUndecided_iff]
  constructor
  · rintro ⟨o1, rest1, e, hq1, he, hd⟩
    obtain ⟨rfl, rfl⟩ := List.cons.inj (hq.symm.trans hq1)
    exact ⟨e, he, hd⟩
  · rintro ⟨e, he, hd⟩
    exact ⟨o, rest, e, hq, he, hd⟩

/-- The conditions of R86 for a tile call. -/
def Wanted (s : State) (tag : BitVec 16) (o : Order) (n : Nat) (i : RosterIndex) : Prop :=
  Undecided o n ∧ (recordOf s i).withheld = false
    ∧ (∀ h : Held, (entryOf s i).held = some h → h.state = .damaged)
    ∧ (∀ v : Incoming, (entryOf s i).incoming = some v → v.state = .waiting)
    ∧ ∀ call ∈ s.seats.calls, ¬(call.tag = tag ∧ call.index = i)

theorem callWanted_iff {s : State} {o : Order} {rest : List Order} (hq : s.scheduler.queue = o :: rest)
    (tag : BitVec 16) (n : Nat) (i : RosterIndex) : callWanted tag n i s = true ↔ Wanted s tag o n i := by
  unfold callWanted Wanted
  rw [← isUndecided_cons hq]
  cases (entryOf s i).held <;> cases (entryOf s i).incoming <;>
    simp only [Bool.and_eq_true, Bool.not_eq_true', List.all_eq_true, decide_eq_true_eq, and_assoc, reduceCtorEq,
      false_implies, implies_true, true_and, Option.some.injEq, forall_eq']

/-- The head order once the call point of a seat has been taken. -/
def calledHead (o : Order) (n : Nat) (g : SeatLines) : Order :=
  { o with seatLines := o.seatLines.set n { g with callTaken := true } }

/-- The state `t` is `s` once seat `n`, which names index `i`, has taken its call point (R84, R86). -/
def Takes (s : State) (tag : BitVec 16) (o : Order) (rest : List Order) (n : Nat) (i : RosterIndex) (g : SeatLines)
    (t : State) : Prop :=
  let u : State := { s with scheduler.queue := calledHead o n g :: rest }
  (Wanted s tag o n i → t = issueCall tag i g.freezeLine u) ∧ (¬Wanted s tag o n i → t = u)

theorem takeCallPoint_takes {s : State} {o : Order} {rest : List Order} (hq : s.scheduler.queue = o :: rest)
    {n : Nat} {g : SeatLines} (hg : o.seatLines[n]? = some g) (tag : BitVec 16) (i : RosterIndex) :
    Takes s tag o rest n i g (takeCallPoint tag n i g.freezeLine s) := by
  have hm : o.seatLines.modify n (fun l => { l with callTaken := true }) =
      o.seatLines.set n { g with callTaken := true } := by
    rw [List.modify_eq_set_getElem?, hg]
    rfl
  have hu : modHead (fun o => { o with seatLines := o.seatLines.modify n fun l => { l with callTaken := true } }) s =
      { s with scheduler.queue := calledHead o n g :: rest } := by
    rw [modHead_cons hq, hm]
    rfl
  have hw : callWanted tag n i { s with scheduler.queue := calledHead o n g :: rest } = true ↔ Wanted s tag o n i :=
    callWanted_iff (s := { s with scheduler.queue := calledHead o n g :: rest }) rfl tag n i
  unfold takeCallPoint
  rw [hu]
  exact ⟨fun h => if_pos (hw.2 h), fun h => if_neg (hw.not.2 h)⟩

theorem Takes.runs {s t : State} {c : Impression} {p : Plan} {o : Order} {rest : List Order} {tag : BitVec 16}
    {n : Nat} {i : RosterIndex} {g : SeatLines} (h : Takes s tag o rest n i g t) (hr : Runs s c p o rest) :
    Runs t c p (calledHead o n g) rest ∧ t.press = s.press ∧ t.tables = s.tables := by
  by_cases hw : Wanted s tag o n i
  · rw [h.1 hw, issueCall_only]
    exact ⟨⟨hr.impression, hr.plan, rfl⟩, rfl, rfl⟩
  · rw [h.2 hw]
    exact ⟨⟨hr.impression, hr.plan, rfl⟩, rfl, rfl⟩

/-! ## Call points in seat order -/

/-- The step of `overFirstSeats` takes the call point of a seat exactly where `due` says. -/
structure CallStep (f : BitVec 16 → State → Seat × Nat → State)
    (due : Order → LineValue → Nat → SeatLines → Prop) : Prop where
  takes : ∀ {s : State} {o : Order} {rest : List Order} {n : Nat} {g : SeatLines} (tag : BitVec 16) (x : Seat),
    s.scheduler.queue = o :: rest → o.seatLines[n]? = some g → due o s.press.lineCount n g →
    f tag s (x, n) = takeCallPoint tag n x.index g.freezeLine s
  passes : ∀ {s : State} {o : Order} {rest : List Order} {n : Nat} (tag : BitVec 16) (x : Seat),
    s.scheduler.queue = o :: rest → (∀ g, o.seatLines[n]? = some g → ¬due o s.press.lineCount n g) →
    f tag s (x, n) = s
  untaken : ∀ {o : Order} {l : LineValue} {n : Nat} {g : SeatLines}, due o l n g → g.callTaken = false
  sameHead : ∀ (o : Order) (m : Nat) (g : SeatLines) (l : LineValue) (n : Nat) (k : SeatLines),
    due (calledHead o m g) l n k → due o l n k

/-- A fold whose first effective item is `z`, where after it neither `z` nor the items before it have an effect. -/
theorem foldl_of_first {α β : Type} {f : α → β → α} {xs : List β} {n : Nat} {z : β} {a : α} (hz : xs[n]? = some z)
    (ha : ∀ w ∈ xs.take n, f a w = a) (hb : ∀ w ∈ xs.take (n + 1), f (f a z) w = f a z) :
    xs.foldl f a = xs.foldl f (f a z) := by
  have hsplit : xs = xs.take (n + 1) ++ xs.drop (n + 1) := (List.take_append_drop _ _).symm
  have htake : xs.take (n + 1) = xs.take n ++ [z] := by rw [List.take_add_one, hz]; rfl
  have hfix : ∀ (ys : List β) (b : α), (∀ w ∈ ys, f b w = b) → ys.foldl f b = b := fun ys b h => by
    induction ys with
    | nil => rfl
    | cons y ys ih =>
      rw [List.foldl_cons, h y List.mem_cons_self]
      exact ih fun w hw => h w (List.mem_cons_of_mem _ hw)
  calc xs.foldl f a = (xs.drop (n + 1)).foldl f ((xs.take (n + 1)).foldl f a) := by rw [← List.foldl_append, ← hsplit]
    _ = (xs.drop (n + 1)).foldl f (f a z) := by rw [htake, List.foldl_append, hfix _ _ ha]; rfl
    _ = (xs.drop (n + 1)).foldl f ((xs.take (n + 1)).foldl f (f a z)) := by rw [hfix _ _ hb]
    _ = xs.foldl f (f a z) := by rw [← List.foldl_append, ← hsplit]

/-- The items of a list before a place, with their own places. -/
theorem mem_take_zipIdx {α : Type} {xs : List α} {k : Nat} {w : α × Nat} (h : w ∈ xs.zipIdx.take k) :
    w.2 < k ∧ xs[w.2]? = some w.1 := by
  obtain ⟨n, hn⟩ := List.mem_iff_getElem?.1 h
  rw [List.getElem?_take] at hn
  split at hn
  · next hlt =>
    rw [List.getElem?_zipIdx] at hn
    obtain ⟨x, hx, rfl⟩ := Option.map_eq_some_iff.1 hn
    simpa using ⟨hlt, hx⟩
  · cases hn

section
variable {f : BitVec 16 → State → Seat × Nat → State} {due : Order → LineValue → Nat → SeatLines → Prop}
variable {s : State} {c : Impression} {p : Plan} {o : Order} {rest : List Order}

theorem overFirstSeats_of_runs (hr : Runs s c p o rest) (h : c.first = true) :
    overFirstSeats f s = p.seats.zipIdx.foldl (f c.tag) s := by
  unfold overFirstSeats
  rw [hr.impression]
  dsimp only
  rw [h, hr.plan]

theorem overFirstSeats_of_later (hr : Runs s c p o rest) (h : c.first = false) : overFirstSeats f s = s := by
  unfold overFirstSeats
  rw [hr.impression]
  dsimp only
  rw [h]

/-- A seat's call point is due at this step. -/
def SeatDue (due : Order → LineValue → Nat → SeatLines → Prop) (s : State) (c : Impression) (p : Plan) (o : Order)
    (n : Nat) (x : Seat) (g : SeatLines) : Prop :=
  c.first = true ∧ p.seats[n]? = some x ∧ o.seatLines[n]? = some g ∧ due o s.press.lineCount n g

/-- Where no call point is due nothing changes. -/
theorem overFirstSeats_of_none (hf : CallStep f due) (hr : Runs s c p o rest)
    (h : ∀ n x g, ¬SeatDue due s c p o n x g) : overFirstSeats f s = s := by
  cases hfirst : c.first with
  | false => exact overFirstSeats_of_later hr hfirst
  | true =>
    rw [overFirstSeats_of_runs hr hfirst]
    have hfix : ∀ ys : List (Seat × Nat), (∀ w ∈ ys, p.seats[w.2]? = some w.1) → ys.foldl (f c.tag) s = s := fun ys => by
      induction ys with
      | nil => exact fun _ => rfl
      | cons y ys ih =>
        intro hm
        have hy : f c.tag s y = s := hf.passes c.tag y.1 hr.queue fun g hg hd =>
          h y.2 y.1 g ⟨hfirst, hm y List.mem_cons_self, hg, hd⟩
        rw [List.foldl_cons, hy]
        exact ih fun w hw => hm w (List.mem_cons_of_mem _ hw)
    exact hfix _ fun w hw => (mem_take_zipIdx (k := p.seats.zipIdx.length) (by rwa [List.take_length])).2

/-- The first seat whose call point is due takes it; the others follow from there. -/
theorem overFirstSeats_of_first (hf : CallStep f due) (hr : Runs s c p o rest) {n : Nat} {x : Seat} {g : SeatLines}
    (h : SeatDue due s c p o n x g) (hbefore : ∀ m z k, m < n → ¬SeatDue due s c p o m z k) :
    ∃ t, Takes s c.tag o rest n x.index g t ∧ overFirstSeats f s = overFirstSeats f t := by
  obtain ⟨hfirst, hx, hg, hd⟩ := h
  have ht := takeCallPoint_takes hr.queue hg c.tag x.index
  have hstep : f c.tag s (x, n) = takeCallPoint c.tag n x.index g.freezeLine s := hf.takes c.tag x hr.queue hg hd
  obtain ⟨hrt, hpress, -⟩ := ht.runs hr
  refine ⟨_, ht, ?_⟩
  rw [overFirstSeats_of_runs hr hfirst, overFirstSeats_of_runs hrt hfirst, ← hstep]
  have hz : p.seats.zipIdx[n]? = some (x, n) := by
    rw [List.getElem?_zipIdx, hx]
    simp
  refine foldl_of_first hz (fun w hw => ?_) (fun w hw => ?_)
  · obtain ⟨hlt, hp⟩ := mem_take_zipIdx hw
    exact hf.passes c.tag w.1 hr.queue fun k hk hdk => hbefore w.2 w.1 k hlt ⟨hfirst, hp, hk, hdk⟩
  · obtain ⟨hlt, hp⟩ := mem_take_zipIdx hw
    rw [hstep]
    refine hf.passes c.tag w.1 hrt.queue fun k hk hdk => ?_
    rw [hpress] at hdk
    rcases Nat.lt_succ_iff_lt_or_eq.1 hlt with hlt | heq
    · have hk' : o.seatLines[w.2]? = some k := by
        rw [← hk]
        exact (List.getElem?_set_ne hlt.ne').symm
      exact hbefore w.2 w.1 k hlt ⟨hfirst, hp, hk', hf.sameHead _ _ _ _ _ _ hdk⟩
    · rw [heq] at hk
      have hk' : k = { g with callTaken := true } := by
        have hs : (calledHead o n g).seatLines[n]? = some { g with callTaken := true } :=
          List.getElem?_set_self (List.getElem?_eq_some_iff.1 hg).1
        exact Option.some.inj (hk.symm.trans hs)
      have := hf.untaken hdk
      rw [hk'] at this
      cases this

end

/-- A call line equals the line count, and its call point has not been taken (R84). -/
def dueAt (_o : Order) (l : LineValue) (_n : Nat) (g : SeatLines) : Prop := g.callTaken = false ∧ g.callLine = some l

/-- The call line of an UNDECIDED seat has been reached at a beginning (R85). -/
def dueAtBeginning (o : Order) (l : LineValue) (n : Nat) (g : SeatLines) : Prop :=
  g.callTaken = false ∧ Undecided o n ∧ ∃ a : LineValue, g.callLine = some a ∧ (a = l ∨ 2 ^ 47 ≤ (a - l).toNat)

theorem seatLinesAt_cons {s : State} {o : Order} {rest : List Order} (hq : s.scheduler.queue = o :: rest) (n : Nat) :
    seatLinesAt s n = o.seatLines[n]? := by
  unfold seatLinesAt headOrder
  rw [hq]
  rfl

theorem callStep_at : CallStep callSeatAt dueAt where
  takes tag x hq hg hd := by
    unfold callSeatAt
    rw [seatLinesAt_cons hq, hg]
    exact if_pos ⟨hd.2, by rw [hd.1]; rfl⟩
  passes tag x hq hn := by
    unfold callSeatAt
    rw [seatLinesAt_cons hq]
    split
    · next g hg =>
      refine if_neg fun hd => hn g hg ⟨?_, hd.1⟩
      simpa using hd.2
    · rfl
  untaken hd := hd.1
  sameHead _ _ _ _ _ _ hd := hd

theorem callStep_reached : CallStep callSeatReached dueAtBeginning where
  takes tag x hq hg hd := by
    obtain ⟨ht, hu, a, ha, hr⟩ := hd
    unfold callSeatReached
    rw [seatLinesAt_cons hq, hg]
    dsimp only
    rw [ha]
    exact if_pos ⟨(isReached_iff a _).2 hr, by rw [ht]; rfl, (isUndecided_cons hq _).2 hu⟩
  passes tag x hq hn := by
    unfold callSeatReached
    rw [seatLinesAt_cons hq]
    split
    · next g hg =>
      split
      · next a ha =>
        refine if_neg fun hd => hn g hg ⟨?_, (isUndecided_cons hq _).1 hd.2.2, a, ha, (isReached_iff a _).1 hd.1⟩
        simpa using hd.2.1
      · rfl
    · rfl
  untaken hd := hd.1
  sameHead _ _ _ _ _ _ hd := hd

/-! ## Freezes -/

/-- The bands of an impression that have yet to freeze. -/
def bandsLeft (c : Impression) (p : Plan) : Nat :=
  (p.height + c.snapshot.bandHeight - 1) / c.snapshot.bandHeight - c.nextFreeze

/-- The freeze line of the next band (R84). -/
def nextLineOf (c : Impression) : LineValue :=
  c.start + BitVec.ofNat 48 (c.nextFreeze * c.snapshot.bandHeight) - BitVec.ofNat 48 c.snapshot.bandLead

section
variable {s : State} {c : Impression} {p : Plan} {o : Order} {rest : List Order}

theorem nextFreezeLine_of_runs (hr : Runs s c p o rest) :
    nextFreezeLine s = if 0 < bandsLeft c p then some (nextLineOf c) else none := by
  unfold nextFreezeLine
  rw [hr.impression]
  dsimp only
  rw [hr.plan]
  exact if_congr (by unfold bandCount bandsLeft; omega) rfl rfl

/-- A freeze moves the impression to its next band and leaves the line count. -/
theorem runs_freezeBand (hr : Runs s c p o rest) :
    ∃ o', Runs (freezeBand s) { c with nextFreeze := c.nextFreeze + 1 } p o' rest
      ∧ (freezeBand s).press = s.press := by
  obtain ⟨o', hsch, -, -, -, -, -, htab, -, hpress, -⟩ :=
    freezeDecidesTheSeatsOfItsBand s c p o rest hr.impression hr.plan hr.queue
  refine ⟨o', ⟨by rw [hsch], ?_, by rw [hsch]⟩, hpress⟩
  rw [← hr.plan]
  unfold planOf
  rw [htab]

theorem freezeReached_of_runs (hr : Runs s c p o rest) (n : Nat) : freezeReached (n + 1) s =
    if 0 < bandsLeft c p ∧ isReached (nextLineOf c) s.press.lineCount then freezeReached n (freezeBand s) else s := by
  rw [freezeReached, nextFreezeLine_of_runs hr]
  by_cases h : 0 < bandsLeft c p
  · rw [if_pos h]
    exact if_congr (by simp [h]) rfl rfl
  · rw [if_neg h, if_neg fun hx => h hx.1]

/-- As many freezes as there are bands left are enough. -/
theorem freezeReached_enough (n : Nat) (hr : Runs s c p o rest) (h : bandsLeft c p ≤ n) :
    freezeReached (n + 1) s = freezeReached n s := by
  induction n generalizing s c o with
  | zero =>
    rw [freezeReached_of_runs hr, if_neg (by omega)]
    rfl
  | succ n ih =>
    obtain ⟨o', hr', -⟩ := runs_freezeBand hr
    have hleft : bandsLeft { c with nextFreeze := c.nextFreeze + 1 } p ≤ n := by
      unfold bandsLeft at h ⊢
      dsimp only
      omega
    rw [freezeReached_of_runs hr (n + 1), freezeReached_of_runs hr n, ih hr' hleft]

/-- The next band's freeze line is another line, one band further on. -/
theorem nextLineOf_succ_ne (hb : 0 < c.snapshot.bandHeight) (hlt : c.snapshot.bandHeight < 2 ^ 48) :
    nextLineOf { c with nextFreeze := c.nextFreeze + 1 } ≠ nextLineOf c := by
  intro h
  unfold nextLineOf at h
  dsimp only at h
  rw [Nat.succ_mul, BitVec.ofNat_add] at h
  have hzero : BitVec.ofNat 48 c.snapshot.bandHeight = 0#48 := by
    generalize BitVec.ofNat 48 (c.nextFreeze * c.snapshot.bandHeight) = a at h
    generalize BitVec.ofNat 48 c.snapshot.bandHeight = b at h ⊢
    generalize BitVec.ofNat 48 c.snapshot.bandLead = d at h
    bv_omega
  have hmod : c.snapshot.bandHeight % 2 ^ 48 = 0 := by simpa using congrArg BitVec.toNat hzero
  rw [Nat.mod_eq_of_lt hlt] at hmod
  omega

/-- A band freezes at its freeze line, and the line count is then offered to the call points alone. -/
theorem offerLine_of_freeze (hr : Runs s c p o rest) (hb : 0 < c.snapshot.bandHeight)
    (hlt : c.snapshot.bandHeight < 2 ^ 48) (hl : 0 < bandsLeft c p) (he : nextLineOf c = s.press.lineCount) :
    offerLine s = offerLine (freezeBand s) := by
  obtain ⟨o', hr', hpress⟩ := runs_freezeBand hr
  have hnext : nextFreezeLine s = some s.press.lineCount := by
    rw [nextFreezeLine_of_runs hr, if_pos hl, he]
  have hlater : nextFreezeLine (freezeBand s) ≠ some (freezeBand s).press.lineCount := by
    rw [nextFreezeLine_of_runs hr', hpress, ← he]
    split
    · exact fun h => nextLineOf_succ_ne hb hlt (Option.some.inj h)
    · nofun
  unfold offerLine
  rw [if_pos hnext, if_neg hlater]

theorem offerLine_of_noFreeze (hr : Runs s c p o rest)
    (h : ¬(0 < bandsLeft c p ∧ nextLineOf c = s.press.lineCount)) : offerLine s = overFirstSeats callSeatAt s := by
  have hnext : nextFreezeLine s ≠ some s.press.lineCount := by
    rw [nextFreezeLine_of_runs hr]
    split
    · next hl => exact fun he => h ⟨hl, Option.some.inj he⟩
    · nofun
  unfold offerLine
  rw [if_neg hnext]

theorem takeReached_of_freeze (hr : Runs s c p o rest) {bands : Nat} (hl : bandsLeft c p ≤ bands)
    (h : 0 < bandsLeft c p ∧ isReached (nextLineOf c) s.press.lineCount) :
    takeReached bands s = takeReached bands (freezeBand s) := by
  obtain ⟨o', hr', -⟩ := runs_freezeBand hr
  obtain ⟨n, rfl⟩ : ∃ n, bands = n + 1 := ⟨bands - 1, by omega⟩
  have hleft : bandsLeft { c with nextFreeze := c.nextFreeze + 1 } p ≤ n := by
    unfold bandsLeft at hl ⊢
    dsimp only
    omega
  unfold takeReached
  rw [freezeReached_of_runs hr, if_pos h, freezeReached_enough n hr' hleft]

theorem takeReached_of_noFreeze (hr : Runs s c p o rest)
    (h : ¬(0 < bandsLeft c p ∧ isReached (nextLineOf c) s.press.lineCount)) (bands : Nat) :
    takeReached bands s = overFirstSeats callSeatReached s := by
  unfold takeReached
  cases bands with
  | zero => rfl
  | succ n => rw [freezeReached_of_runs hr, if_neg h]

end

/-! ## The obligation -/

/-- Settles O42: the line sync by `takeLineSync_offers`, the freezes by `freezeBand`'s next context, and the call points by
the two `CallStep`s. -/
theorem linesReachedTakeFreezesAndCalls : Obligations.LinesReachedTakeFreezesAndCalls := by
  refine ⟨fun s c d p y hd hy he => ?_, fun s c p hh hi hp hy => ?_, ?_⟩
  · obtain ⟨u, hu, hend⟩ := takeLineSync_offers hd hy he
    exact ⟨u, congrArg Host.Outcome.next hu, hend.lineCount, hend.scheduler, hend.rest⟩
  · have hn : pageLine (startRender s) = none := by
      rw [startRender_only]
      exact pageLine_of_outside hi hp hy
    have he : takeLineSync s = offerLine (emitLine (plainLine s.press.blankWidth blankPixel) (startRender s)) := by
      rw [takeLineSync_clear hh]
      unfold clearSync emitBlank
      rw [hn, pressHold_startRender]
    refine ⟨_, congrArg Host.Outcome.next he, ?_, ?_⟩
    · rw [startRender_only]
      rfl
    · conv_lhs => rw [startRender_only]
      rw [startRender_only]
      rfl
  · intro s c p o rest hc hp hq hb hlt
    have hr : Runs s c p o rest := ⟨hc, hp, hq⟩
    refine ⟨fun h => offerLine_of_freeze hr hb hlt h.1 h.2, fun hno => ⟨fun n x g hcall hbefore => ?_, fun hnone => ?_⟩,
      fun bands hbands => ⟨fun h => ?_, fun hno => ⟨fun n x g hcall hbefore => ?_, fun hnone => ?_⟩⟩⟩
    · obtain ⟨t, ht, he⟩ := overFirstSeats_of_first callStep_at hr (n := n) (x := x) (g := g) hcall hbefore
      obtain ⟨hrt, hpress, -⟩ := ht.runs hr
      refine ⟨t, ht, ?_⟩
      rw [offerLine_of_noFreeze hr hno, he, offerLine_of_noFreeze hrt (by rw [hpress]; exact hno)]
    · rw [offerLine_of_noFreeze hr hno]
      exact overFirstSeats_of_none callStep_at hr hnone
    · exact takeReached_of_freeze hr hbands ⟨h.1, (isReached_iff _ _).2 h.2⟩
    · have hno' : ¬(0 < bandsLeft c p ∧ isReached (nextLineOf c) s.press.lineCount) := fun h =>
        hno ⟨h.1, (isReached_iff _ _).1 h.2⟩
      obtain ⟨t, ht, he⟩ := overFirstSeats_of_first callStep_reached hr (n := n) (x := x) (g := g) hcall hbefore
      obtain ⟨hrt, hpress, -⟩ := ht.runs hr
      refine ⟨t, ht, ?_⟩
      rw [takeReached_of_noFreeze hr hno', he, takeReached_of_noFreeze hrt (by rw [hpress]; exact hno')]
    · have hno' : ¬(0 < bandsLeft c p ∧ isReached (nextLineOf c) s.press.lineCount) := fun h =>
        hno ⟨h.1, (isReached_iff _ _).1 h.2⟩
      rw [takeReached_of_noFreeze hr hno']
      exact overFirstSeats_of_none callStep_reached hr hnone

end Sys2Proof.Machine
end

section
/-!
Controls that reach the Control Unit: the tests before a control's own rule, what a rule's answer leads to, the two reports,
and the controls of the Notice Unit and the Time Base (chapters 10.1 to 10.3, 10.6 and 10.7).
-/

namespace Sys2Proof.Machine

/-! ## A control that reaches the Control Unit -/

/-- A control that reaches the Control Unit is taken there; where it may let parcels through, none is held back. -/
theorem exec_control_of_reaches {s : State} {l : Link} {c : Control} {w : Wire} (h : Reaches s l (controlCode c) w)
    (hn : c = .quietOther → NoneHeldBack s) :
    exec (controlCommand c l w) s = .next (takeControl c l w (controlRule c l) (controlAfter c) s) := by
  rw [exec_controlCommand, controlStep_eq, arrive_of_reaches h]
  split
  · next hq =>
    subst hq
    rw [releaseAll_of_noneHeldBack]
    intro m
    exact (heldBack_quietOther l w s m).trans (hn rfl m)
  · rfl

/-- The control is one of the two whose conclusions leave no record. -/
theorem controlCode_eq_report (c : Control) :
    (controlCode c = 1 ∨ controlCode c = 2) ↔ (c = .reportStatus ∨ c = .reportLastControl) := by
  cases c <;> decide

theorem controlCode_ne {c : Control} (h : ¬(c = .reportStatus ∨ c = .reportLastControl)) :
    controlCode c ≠ 1 ∧ controlCode c ≠ 2 := by
  rw [← controlCode_eq_report] at h
  exact not_or.1 h

/-- A control that its rule refuses is concluded with the cause, and only the staged train has gone. -/
theorem control_refused {s : State} {l : Link} {c : Control} {w : Wire} {cause : ControlOutcome} (h : Asked s l c w)
    (hr : controlRule c l w.payload (supersede l s) = .refuse cause)
    (hc : c ≠ .reportStatus ∧ c ≠ .reportLastControl ∧ c ≠ .quietOther := by decide) :
    ∃ t, exec (controlCommand c l w) s = .next t
      ∧ Concluded l (controlCode c) w cause [] false (supersede l s) t := by
  obtain ⟨h1, h2, h3⟩ := hc
  obtain ⟨n1, n2⟩ := controlCode_ne (not_or.2 ⟨h1, h2⟩)
  refine ⟨_, exec_control_of_reaches h.reaches (absurd · h3), ?_⟩
  rw [takeControl_refused h _ hr]
  exact conclude_concluded n1 n2 l w cause [] false _

/-- A control that its rule takes is concluded TAKEN on the state that the rule leaves. -/
theorem control_taken {s u : State} {l : Link} {c : Control} {w : Wire} {data : List Byte} {poisoned : Bool}
    (h : Asked s l c w) (hr : controlRule c l w.payload (supersede l s) = .take u data poisoned)
    (hc : c ≠ .reportStatus ∧ c ≠ .reportLastControl ∧ c ≠ .quietOther ∧ c ≠ .unitReset := by decide) :
    ∃ t, exec (controlCommand c l w) s = .next t ∧ Concluded l (controlCode c) w .taken data poisoned u t := by
  obtain ⟨h1, h2, h3, h4⟩ := hc
  obtain ⟨n1, n2⟩ := controlCode_ne (not_or.2 ⟨h1, h2⟩)
  have ha : controlAfter c = nothingAfter := by
    cases c <;> first | rfl | exact absurd rfl h4
  refine ⟨_, exec_control_of_reaches h.reaches (absurd · h3), ?_⟩
  rw [takeControl_taken h _ hr, ha]
  exact conclude_concluded n1 n2 l w .taken data poisoned u

/-- A load that its rule stages opens staging. -/
theorem control_staged {s : State} {l : Link} {c : Control} {w : Wire} {g : TableTarget} (h : Asked s l c w)
    (hr : controlRule c l w.payload (supersede l s) = .stage g) (hc : c ≠ .quietOther := by decide) :
    exec (controlCommand c l w) s = .next (openStaging l w.tag g (supersede l s)) := by
  rw [exec_control_of_reaches h.reaches (absurd · hc), takeControl_staged h _ hr]

/-! ## The tests -/

section
variable {c : Control} {w : Wire} (l : Link) (rule : List Byte → State → Ruling) (after : State → State) (s : State)

theorem hallControl_iff (c : Control) : hallControl c = true ↔
    c ∈ [Control.setTime, .unitReset, .inhibitAttention, .restoreAttention, .withhold, .release] := by
  cases c <;> decide

theorem takeControl_notHall (h : ¬(w.address ≠ 15 ∨ hallControl c = true)) : takeControl c l w rule after s =
    conclude l (controlCode c) w.tag (toHall w) .notHall [] false (supersede l s) := by
  obtain ⟨ha, hh⟩ := not_or.1 h
  unfold takeControl
  exact if_pos ⟨decide_eq_true (not_not.1 ha), by simpa using hh⟩

theorem not_notHall (h : w.address ≠ 15 ∨ hallControl c = true) : ¬(toHall w = true ∧ (!hallControl c) = true) := by
  rintro ⟨ha, hc⟩
  rcases h with h | h
  · exact h (of_decide_eq_true ha)
  · rw [h] at hc
    cases hc

theorem takeControl_short (h : w.address ≠ 15 ∨ hallControl c = true) (hs : w.payload.length < controlLength c) :
    takeControl c l w rule after s =
      conclude l (controlCode c) w.tag (toHall w) .short [] false (supersede l s) := by
  unfold takeControl
  dsimp only
  rw [if_neg (not_notHall h), if_pos hs]

theorem takeControl_long (h : w.address ≠ 15 ∨ hallControl c = true) (hl : controlLength c < w.payload.length) :
    takeControl c l w rule after s =
      conclude l (controlCode c) w.tag (toHall w) .long [] false (supersede l s) := by
  unfold takeControl
  dsimp only
  rw [if_neg (not_notHall h), if_neg (by omega), if_pos hl]

end

/-- A conclusion of any control. -/
theorem conclude_answers (c : Control) (l : Link) (w : Wire) (o : ControlOutcome) (s : State) :
    if c = .reportStatus ∨ c = .reportLastControl then
      Reported l (controlCode c) w o [] false s (conclude l (controlCode c) w.tag (toHall w) o [] false s)
    else Concluded l (controlCode c) w o [] false s (conclude l (controlCode c) w.tag (toHall w) o [] false s) := by
  split
  · next h => exact conclude_reported ((controlCode_eq_report c).2 h) l w o [] false s
  · next h =>
    obtain ⟨n1, n2⟩ := controlCode_ne h
    exact conclude_concluded n1 n2 l w o [] false s

theorem controlOfCode_none {code : Byte} (h : code.toNat = 0 ∨ 28 < code.toNat) : controlOfCode code = none := by
  unfold controlOfCode
  split
  all_goals first | rfl | (exfalso; omega)

theorem supersede_eq (l : Link) (s : State) : supersede l s =
    setSlot l
      { staging := none
        superseded :=
          if (slotOf s l).staging = none ∨ (slotOf s l).superseded = 65535 then (slotOf s l).superseded
          else (slotOf s l).superseded + 1 } s := by
  unfold supersede
  dsimp only
  cases hg : (slotOf s l).staging with
  | none =>
    have hx : slotOf s l = { staging := none, superseded := (slotOf s l).superseded } := by rw [← hg]
    simp only [true_or, if_true]
    rw [← hx]
    cases l <;> rfl
  | some g =>
    rw [bump_eq]
    simp only [reduceCtorEq, false_or]
    split
    · next h => rw [h]
    · rfl

/-- Settles O44: each test by its lemma about `takeControl`, the table of codes and lengths by its 28 rows. -/
theorem controlTestsRefuse : Obligations.ControlTestsRefuse := by
  refine ⟨fun s l c w h hheld => ?_, fun s l code w h hheld hcode => ?_, fun s l => supersede_eq l s,
    fun c => by cases c <;> decide⟩
  · have hexec := exec_control_of_reaches h fun _ => hheld
    refine ⟨fun hna => ?_, fun ha hs => ?_, fun ha hl => ?_⟩
    · rw [← hallControl_iff] at hna
      rw [takeControl_notHall l _ _ s hna] at hexec
      exact ⟨_, hexec, conclude_answers c l w _ _⟩
    · rw [← hallControl_iff] at ha
      rw [takeControl_short l _ _ s ha hs] at hexec
      exact ⟨_, hexec, conclude_answers c l w _ _⟩
    · rw [← hallControl_iff] at ha
      rw [takeControl_long l _ _ s ha hl] at hexec
      exact ⟨_, hexec, conclude_answers c l w _ _⟩
  · have hstep : controlParcelStep l code w s = takeUnknownControl l code w s := by
      unfold controlParcelStep
      rw [controlOfCode_none hcode]
      exact arrive_of_reaches h _
    have hkeeps : NoneHeldBack (takeUnknownControl l code w s) := fun m => by
      unfold takeUnknownControl
      rw [heldBack_conclude, portOf_supersede]
      exact hheld m
    refine ⟨takeUnknownControl l code w s, ?_, conclude_concluded ?_ ?_ l w _ [] false _⟩
    · show Host.Outcome.next (releaseAll (controlParcelStep l code w s)) = _
      rw [hstep, releaseAll_of_noneHeldBack hkeeps]
    · rintro rfl
      revert hcode
      decide
    · rintro rfl
      revert hcode
      decide

/-! ## The two reports -/

theorem bytesBE_two_toNat (x : BitVec 16) : bytesBE 2 x.toNat = [x.extractLsb' 8 8, x.extractLsb' 0 8] := by
  rw [bytesBE_two]
  have hhigh : BitVec.ofNat 8 (x.toNat / 256) = x.extractLsb' 8 8 := by
    apply BitVec.eq_of_toNat_eq
    simp [BitVec.extractLsb'_toNat, Nat.shiftRight_eq_div_pow]
  have hlow : BitVec.ofNat 8 x.toNat = x.extractLsb' 0 8 := by
    apply BitVec.eq_of_toNat_eq
    simp [BitVec.extractLsb'_toNat]
  rw [hhigh, hlow]

/-- Settles O45: the rules of the two reports change nothing. -/
theorem reportsAnswer : Obligations.ReportsAnswer := by
  intro s l w
  refine ⟨fun h => ?_, fun h => ⟨fun r hr => ?_, fun hr => ?_⟩⟩
  · refine ⟨_, exec_control_of_reaches h.reaches nofun, ?_⟩
    rw [takeControl_taken h _ rfl]
    exact conclude_reported (.inl rfl) l w .taken [] false _
  · have hrule : controlRule .reportLastControl l w.payload (supersede l s) =
        .take (supersede l s) (lastControlData r) false := by
      show reportLastControlRule w.payload _ = _
      unfold reportLastControlRule
      rw [supersede_last, hr]
    refine ⟨_, exec_control_of_reaches h.reaches nofun, ?_⟩
    rw [takeControl_taken h _ hrule]
    have hdata : lastControlData r =
        [r.code, r.tag.extractLsb' 8 8, r.tag.extractLsb' 0 8, linkByte r.link, outcomeByte r.outcome] := by
      unfold lastControlData
      rw [bytesBE_two_toNat]
      rfl
    rw [hdata]
    exact conclude_reported (.inr rfl) l w .taken _ false _
  · have hrule : controlRule .reportLastControl l w.payload (supersede l s) =
        .take (supersede l s) (zeroBytes 5) true := by
      show reportLastControlRule w.payload _ = _
      unfold reportLastControlRule
      rw [supersede_last, hr]
    refine ⟨_, exec_control_of_reaches h.reaches nofun, ?_⟩
    rw [takeControl_taken h _ hrule]
    exact conclude_reported (.inr rfl) l w .taken _ true _

/-! ## Notices, time and counters -/

/-- The place of a kind's bit in a kind set. -/
def kindPlace : NoticeKind → Nat
  | .orderDone => 0
  | .pageDeficient => 1
  | .tileLate => 2
  | .trainFault => 3
  | .storeLow => 4
  | .underrun => 5
  | .callDropped => 6
  | .linkChange => 7
  | .linkErrors => 8

theorem holdsKind_eq_getLsbD (x : BitVec 9) (k : NoticeKind) : holdsKind x k = x.getLsbD (kindPlace k) := by
  have hbit : kindBit k = BitVec.twoPow 9 (kindPlace k) := by cases k <;> rfl
  have hne : BitVec.twoPow 9 (kindPlace k) ≠ 0 := by cases k <;> decide
  unfold holdsKind
  rw [hbit, BitVec.and_twoPow]
  cases x.getLsbD (kindPlace k)
  · rfl
  · exact bne_iff_ne.2 hne

theorem kindPlace_lt (k : NoticeKind) : kindPlace k < 9 := by cases k <;> decide

/-- The kinds that are selected take their value, the others stay. -/
theorem holdsKind_select (e select value : BitVec 9) (k : NoticeKind) :
    holdsKind ((e &&& ~~~select) ||| (value &&& select)) k =
      if holdsKind select k then holdsKind value k else holdsKind e k := by
  have hk := kindPlace_lt k
  simp only [holdsKind_eq_getLsbD, BitVec.getLsbD_or, BitVec.getLsbD_and, BitVec.getLsbD_not, hk, decide_true,
    Bool.true_and]
  cases select.getLsbD (kindPlace k) <;> simp

theorem kindSetArgument_of_lt {n : Nat} (h : n < 512) : kindSetArgument n = some (BitVec.ofNat 9 n) := if_pos h

theorem kindSetArgument_of_le {n : Nat} (h : 512 ≤ n) : kindSetArgument n = none := if_neg (by omega)

theorem setNoticeEnablesRule_taken {p : List Byte} (h0 : be16 p 0 < 512) (h2 : be16 p 2 < 512) (s : State) :
    setNoticeEnablesRule p s =
      .take
        { s with
          notices.enabled := (s.notices.enabled &&& ~~~BitVec.ofNat 9 (be16 p 0))
            ||| (BitVec.ofNat 9 (be16 p 2) &&& BitVec.ofNat 9 (be16 p 0)) } [] false := by
  unfold setNoticeEnablesRule
  rw [kindSetArgument_of_lt h0, kindSetArgument_of_lt h2]

theorem setNoticeEnablesRule_refused {p : List Byte} (h : 512 ≤ be16 p 0 ∨ 512 ≤ be16 p 2) (s : State) :
    setNoticeEnablesRule p s = .refuse .badArgument := by
  unfold setNoticeEnablesRule
  rcases h with h | h
  · rw [kindSetArgument_of_le h]
  · rw [kindSetArgument_of_le h]
    split <;> first | rfl | contradiction

theorem flagArgument_of_lt {n : Nat} (h : 1 < n) : flagArgument n = none := by
  unfold flagArgument
  split <;> first | rfl | omega

theorem length_counterData (s : State) : (counterData s).length = 36 := by
  simp [counterData, linkCounterBytes, bytesBE]

/-- Settles O47, rule by rule. -/
theorem noticeAndTimeControlsAct : Obligations.NoticeAndTimeControlsAct := by
  intro s l w
  refine ⟨fun h => control_taken h rfl, fun h => control_taken h rfl, fun h => control_taken h rfl,
    fun h => ⟨fun hlt => ?_, fun hge => control_refused h (setNoticeEnablesRule_refused hge _)⟩, fun h => ?_,
    fun h => ⟨fun h0 => ?_, fun h1 => ?_, fun hbig => ?_, length_counterData _⟩⟩
  · obtain ⟨t, ht, hc⟩ := control_taken h (setNoticeEnablesRule_taken hlt.1 hlt.2 (supersede l s))
    refine ⟨_, t, ht, hc, rfl, fun k => ?_⟩
    rw [supersede_notices]
    exact holdsKind_select _ _ _ k
  · have hrule : controlRule .readNotices l w.payload (supersede l s) =
        .take { supersede l s with notices.latched := 0 }
          [BitVec.ofNat 8 (s.notices.latched.toNat / 256), BitVec.ofNat 8 s.notices.latched.toNat] false := by
      show readNoticesRule w.payload _ = _
      unfold readNoticesRule
      simp only [bytesBE_two, supersede_notices]
    exact control_taken h hrule
  · have hrule : controlRule .readCounters l w.payload (supersede l s) =
        .take (supersede l s) (counterData (supersede l s)) false := by
      show readCountersRule _ _ = _
      unfold readCountersRule
      rw [h0]
      rfl
    exact control_taken h hrule
  · have hrule : controlRule .readCounters l w.payload (supersede l s) =
        .take (clearCounters (supersede l s)) (counterData (supersede l s)) false := by
      show readCountersRule _ _ = _
      unfold readCountersRule
      rw [h1]
      rfl
    obtain ⟨t, ht, hc⟩ := control_taken h hrule
    refine ⟨_, t, ht, hc, fun m => ?_, rfl⟩
    rw [← portOf_supersede l m s]
    cases m <;> exact ⟨rfl, rfl⟩
  · have hrule : controlRule .readCounters l w.payload (supersede l s) = .refuse .badArgument := by
      show readCountersRule _ _ = _
      unfold readCountersRule
      rw [flagArgument_of_lt hbig]
    exact control_refused h hrule

end Sys2Proof.Machine
end

section
/-!
UNIT RESET, QUIET OTHER and UNQUIET OTHER: what they clear, and what moves between the links (chapters 9.4 and 10.6).
-/

namespace Sys2Proof.Machine

theorem other_ne (l : Link) : l.other ≠ l := by cases l <;> nofun

theorem other_other (l : Link) : l.other.other = l := by cases l <;> rfl

/-- A conclusion leaves the port but for the reply, and the other port. -/
theorem portOf_concluded {l : Link} {code : Byte} {w : Wire} {o : ControlOutcome} {data : List Byte} {pois : Bool}
    {s t : State} (h : Concluded l code w o data pois s t) (m : Link) :
    portOf t m = { portOf s m with reply := (portOf t m).reply } := by
  unfold Concluded at h
  generalize (if w.address ≠ Config.hallAddress ∧ (portOf s l).state = .up ∧ (portOf s l).quiet = false then
    some { tag := w.tag, poisoned := pois, payload := [unitStatus t, code, outcomeByte o, 0] ++ data }
    else (portOf s l).reply) = r at h
  rw [h, portOf_setPort]
  split
  · next hm => rw [hm]
  · rfl

/-- The state that UNIT RESET leaves before what waits moves (R175). -/
def clearedState (u : State) : State :=
  { u with
    control.controlError := false
    control.hallReceived := false
    notices.inhibit := false
    ports := ⟨{ portOf u .a with quiet := false }, { portOf u .b with quiet := false }⟩ }

theorem portOf_clearedState (u : State) (m : Link) : portOf (clearedState u) m = { portOf u m with quiet := false } := by
  cases m <;> rfl

theorem unitReset_acts (s : State) (l : Link) (w : Wire) (h : Asked s l .unitReset w) :
    ∃ u t : State, Concluded l 3 w .taken [] false (supersede l s) u ∧ exec (.unitReset l w) s = .next t
      ∧ t = rerouteWaiting (clearedState u) := by
  have hexec := exec_control_of_reaches h.reaches nofun
  rw [takeControl_taken h _ rfl] at hexec
  exact ⟨_, _, conclude_concluded (by decide) (by decide) l w .taken [] false _, hexec, rfl⟩

/-- The port of the other link has changed, and what waits has moved. -/
theorem portOf_reroute_setPort (l m : Link) (p : Port) (s : State) :
    portOf (rerouteWaiting (setPort l p s)) m =
      { (if m = l then p else portOf s m) with
        calls := (portOf (rerouteWaiting (setPort l p s)) m).calls
        notice := (portOf (rerouteWaiting (setPort l p s)) m).notice } := by
  rw [← portOf_setPort l m p s]
  exact portOf_rerouteWaiting _ m

/-- What waits on a link that is not open moves to the other one, which is. -/
theorem Rerouted.calls_move {s t : State} (h : Rerouted s t) {l : Link} (ho : OpenLink s l)
    (hn : ¬OpenLink s l.other) :
    (portOf t l).calls = (portOf s l).calls ++ (portOf s l.other).calls.take (64 - (portOf s l).calls.length)
      ∧ (portOf t l.other).calls = (portOf s l.other).calls.drop (64 - (portOf s l).calls.length)
      ∧ (portOf t l.other).notice = none := by
  obtain ⟨h1, h2⟩ := h.moves l ho hn
  rw [h1, h2]
  exact ⟨rfl, rfl, rfl⟩

/-- Settles O46, the three controls by the state that each hands to `rerouteWaiting`. -/
theorem resetAndQuietControlsAct : Obligations.ResetAndQuietControlsAct := by
  refine ⟨fun s l w h => ?_, fun s l w hheld => ⟨fun h => ?_, fun h => ?_⟩⟩
  · obtain ⟨u, t, hc, hexec, ht⟩ := unitReset_acts s l w h
    have hrer : Rerouted (clearedState u) t := by rw [ht]; exact rerouteWaiting_rerouted _
    refine ⟨u, t, hc, hexec, hrer.rest, hrer, fun m => ?_, fun hup m => ?_⟩
    · rw [ht, portOf_rerouteWaiting, portOf_clearedState]
    · have hport : ∀ n, (portOf s n).state = .up → OpenLink (clearedState u) n := fun n hn => by
        unfold OpenLink
        rw [portOf_clearedState, portOf_concluded hc, portOf_supersede]
        exact ⟨hn, rfl⟩
      rw [hrer.stays (iff_of_true (hport .a hup.1) (hport .b hup.2)), portOf_clearedState, portOf_concluded hc,
        portOf_supersede]
      exact ⟨rfl, rfl⟩
  · have hexec := exec_control_of_reaches h.reaches fun _ => hheld
    rw [takeControl_taken h _ rfl] at hexec
    have hu : makeQuiet l.other (supersede l s) =
        rerouteWaiting (setPort l.other { portOf s l.other with quiet := true, reply := none } (supersede l s)) := by
      unfold makeQuiet modPort
      rw [portOf_supersede]
    have hrer := rerouteWaiting_rerouted
      (setPort l.other { portOf s l.other with quiet := true, reply := none } (supersede l s))
    have hport := fun m => portOf_reroute_setPort l.other m { portOf s l.other with quiet := true, reply := none }
      (supersede l s)
    have hshut : ¬OpenLink (setPort l.other { portOf s l.other with quiet := true, reply := none } (supersede l s))
        l.other := fun ho => by
      have := ho.2
      rw [portOf_setPort, if_pos rfl] at this
      cases this
    have hown : portOf (setPort l.other { portOf s l.other with quiet := true, reply := none } (supersede l s)) l =
        portOf s l := by
      rw [portOf_setPort, if_neg (other_ne l).symm, portOf_supersede]
    have hother : portOf (setPort l.other { portOf s l.other with quiet := true, reply := none } (supersede l s))
        l.other = { portOf s l.other with quiet := true, reply := none } := by
      rw [portOf_setPort, if_pos rfl]
    rw [← hu] at hrer hport
    refine ⟨_, _, hexec, conclude_concluded (by decide) (by decide) l w .taken [] false _, hrer.rest, hrer, ?_, ?_, ?_⟩
    · have := hport l.other
      rwa [if_pos rfl] at this
    · have := hport l
      rwa [if_neg (other_ne l).symm, portOf_supersede] at this
    · split
      · next hq =>
        have hown_shut : ¬OpenLink (setPort l.other { portOf s l.other with quiet := true, reply := none }
            (supersede l s)) l := fun ho => by
          have := ho.2
          rw [hown, hq] at this
          cases this
        have hsame := hrer.stays (by
          cases l
          · exact iff_of_false hown_shut hshut
          · exact iff_of_false hshut hown_shut)
        rw [hsame, hown, hother]
        exact ⟨rfl, rfl⟩
      · next hq =>
        have := hrer.calls_move (l := l) ⟨by rw [hown]; exact h.reaches.passes.up, by rw [hown]; simpa using hq⟩ hshut
        rwa [hown, hother] at this
  · have hu : makeUnquiet l.other (supersede l s) =
        rerouteWaiting (setPort l.other { portOf s l.other with quiet := false } (supersede l s)) := by
      unfold makeUnquiet modPort
      rw [portOf_supersede]
    obtain ⟨t, hexec, hc⟩ := control_taken h (u := makeUnquiet l.other (supersede l s)) rfl
    have hrer := rerouteWaiting_rerouted (setPort l.other { portOf s l.other with quiet := false } (supersede l s))
    have hport := fun m => portOf_reroute_setPort l.other m { portOf s l.other with quiet := false } (supersede l s)
    have hown : portOf (setPort l.other { portOf s l.other with quiet := false } (supersede l s)) l = portOf s l := by
      rw [portOf_setPort, if_neg (other_ne l).symm, portOf_supersede]
    have hother : portOf (setPort l.other { portOf s l.other with quiet := false } (supersede l s))
        l.other = { portOf s l.other with quiet := false } := by
      rw [portOf_setPort, if_pos rfl]
    rw [← hu] at hrer hport
    refine ⟨_, t, hexec, hc, hrer.rest, hrer, ?_, ?_, fun hup hq => ?_⟩
    · have := hport l.other
      rwa [if_pos rfl] at this
    · have := hport l
      rwa [if_neg (other_ne l).symm, portOf_supersede] at this
    · have := hrer.calls_move (l := l.other) ⟨by rw [hother]; exact hup, by rw [hother]⟩ (by
        rw [other_other]
        intro ho
        have := ho.2
        rw [hown, hq] at this
        cases this)
      rw [other_other] at this
      rwa [hown, hother] at this

end Sys2Proof.Machine
end

section
/-!
SETTINGS: the ranges of its fields, and what acts at once when the record changes (chapters 1.5, 2.4, 3.3 and 8.4).
-/

namespace Sys2Proof.Machine

/-! ## The record of a payload -/

/-- The record that a SETTINGS payload spells, whatever its ranges. -/
def spelledSettings (p : List Byte) : Settings :=
  { bandHeight := byteAt p 0, bandLead := be16 p 1, callLead := be16 p 3, pageGap := be16 p 5
    trainGap := byteAt p 7, holdLimit := byteAt p 8, lowWater := be16 p 9
    freeAfterUse := decide (byteAt p 11 = 1)
    reportLink := if byteAt p 12 = 1 then .b else .a
    callLink := if byteAt p 13 = 1 then .b else .a }

/-- Every field of a SETTINGS payload is in its range (R20). -/
def SettingsInRange (p : List Byte) : Prop :=
  (byteAt p 0 = 16 ∨ byteAt p 0 = 32 ∨ byteAt p 0 = 64) ∧ 16 ≤ be16 p 1 ∧ be16 p 1 ≤ 4096 ∧ be16 p 5 ≤ 4096
    ∧ 1 ≤ byteAt p 7 ∧ byteAt p 7 ≤ 100 ∧ byteAt p 8 ≤ 250 ∧ be16 p 9 ≤ 2048
    ∧ byteAt p 11 ≤ 1 ∧ byteAt p 12 ≤ 1 ∧ byteAt p 13 ≤ 1

theorem flagArgument_of_le {n : Nat} (h : n ≤ 1) : flagArgument n = some (decide (n = 1)) := by
  obtain rfl | rfl : n = 0 ∨ n = 1 := by omega
  · rfl
  · rfl

theorem linkArgument_of_le {n : Nat} (h : n ≤ 1) : linkArgument n = some (if n = 1 then .b else .a) := by
  obtain rfl | rfl : n = 0 ∨ n = 1 := by omega
  · rfl
  · rfl

theorem linkArgument_of_lt {n : Nat} (h : 1 < n) : linkArgument n = none := by
  unfold linkArgument
  split <;> first | rfl | omega

theorem settingsArgument_inRange {p : List Byte} (h : SettingsInRange p) :
    settingsArgument p = some (spelledSettings p) := by
  obtain ⟨h0, h1, h2, h3, h4, h5, h6, h7, h8, h9, h10⟩ := h
  unfold settingsArgument
  rw [flagArgument_of_le h8, linkArgument_of_le h9, linkArgument_of_le h10]
  refine if_pos ⟨?_, h1, h2, h3, h4, h5, h6, h7⟩
  simpa using h0

theorem settingsArgument_notInRange {p : List Byte} (h : ¬SettingsInRange p) : settingsArgument p = none := by
  unfold settingsArgument
  split
  · next f r c hf hr hc =>
    refine if_neg fun ⟨h0, h1, h2, h3, h4, h5, h6, h7⟩ => h ⟨by simpa using h0, h1, h2, h3, h4, h5, h6, h7, ?_, ?_, ?_⟩
    · by_contra hn
      rw [flagArgument_of_lt (by omega)] at hf
      cases hf
    · by_contra hn
      rw [linkArgument_of_lt (by omega)] at hr
      cases hr
    · by_contra hn
      rw [linkArgument_of_lt (by omega)] at hc
      cases hc
  · rfl

/-! ## What acts at once -/

/-- The expiry of a hold changes the port's hold, the renderer, the context, the latch and a notice. -/
theorem expireHold_only (s : State) : expireHold s =
    { s with
      press.hold := (expireHold s).press.hold
      renderer := (expireHold s).renderer
      scheduler.impression := (expireHold s).scheduler.impression
      notices := (expireHold s).notices
      ports := (expireHold s).ports } := by
  unfold expireHold
  split
  · next k _ =>
    have h := fillBand_only k { startRender s with press.hold := .awaiting k .fill }
    generalize fillBand k { startRender s with press.hold := .awaiting k .fill } = t at h ⊢
    rw [h, startRender_only]
  · rfl

theorem hold_expireHold {s : State} {k n : Nat} (h : s.press.hold = .holding k n) : (expireHold s).press =
    if s.tables.settings.holdLimit ≤ n then { s.press with hold := .awaiting k .fill } else s.press := by
  split
  · next hn =>
    rw [expireHold_due h hn, fillBand_only, startRender_only]
  · next hn =>
    rw [expireHold_notDue fun k' n' h' => by
      rw [h] at h'
      cases h'
      omega]

/-- A voided train returns blocks and takes none. -/
theorem freeCount_le_expireTrain (l : Link) (s : State) :
    s.store.freeCount ≤ (expireTrain l s).store.freeCount := by
  unfold expireTrain
  split
  · cases hx : trainOf s l with
    | none =>
      unfold voidTrain
      rw [hx]
    | some x =>
      cases hv : (entryOf s x.index).incoming with
      | none =>
        have hfree : freeIncoming x.index s = s := freeIncoming_of_none hv
        rw [voidTrain_some hx, latchKind_only, changeRecord_only, hfree]
        exact le_refl _
      | some v =>
        rw [freeCount_voidTrain hx hv]
        exact Nat.le_add_right _ _
  · exact le_refl _

theorem held_expireTrain (l : Link) (s : State) (i : RosterIndex) :
    (entryOf (expireTrain l s) i).held = (entryOf s i).held := by
  unfold expireTrain
  split
  · cases hx : trainOf s l with
    | none =>
      unfold voidTrain
      rw [hx]
    | some x =>
      rw [entryOf_voidTrain hx]
      split <;> rfl
  · rfl

theorem freeCount_le_expireTrains (s : State) : s.store.freeCount ≤ (expireTrains s).store.freeCount := by
  unfold expireTrains
  rw [expireTable_only .b, expireTable_only .a]
  exact (freeCount_le_expireTrain .a s).trans (freeCount_le_expireTrain .b _)

theorem held_expireTrains (s : State) (i : RosterIndex) : (entryOf (expireTrains s) i).held = (entryOf s i).held := by
  have h : entryOf (expireTrains s) i = entryOf (expireTrain .b (expireTrain .a s)) i := by
    unfold expireTrains
    rw [expireTable_only .b, expireTable_only .a]
    rfl
  rw [h, held_expireTrain, held_expireTrain]

/-- The low-water test does nothing while the free count is not below it. -/
theorem lowWaterTest_of_le {s : State} (h : s.tables.settings.lowWater ≤ s.store.freeCount) : lowWaterTest s = s := by
  unfold lowWaterTest
  exact if_neg (by omega)

/-- A free count that is still below low-water latches STORE_LOW. -/
theorem storeLow_lowWaterTest {s : State} (h : (lowWaterTest s).store.freeCount < s.tables.settings.lowWater) :
    holdsKind (lowWaterTest s).notices.latched .storeLow = true := by
  unfold lowWaterTest at h ⊢
  split at h
  · next hlow =>
    rw [if_pos hlow]
    rw [latchStoreLow_only] at h
    have hset : (reclaim s.tables.settings.lowWater s).tables = s.tables := by rw [reclaim_only]
    unfold latchStoreLow
    rw [hset]
    rw [if_pos (show (reclaim s.tables.settings.lowWater s).store.freeCount < _ from h)]
    exact latchKind_holds _ _
  · next hlow => exact absurd h hlow

/-! ## The obligation -/

theorem settings_refused {s : State} {l : Link} {w : Wire} (h : Asked s l .settings w)
    (hr : ¬SettingsInRange w.payload) :
    ∃ t, exec (.settings l w) s = .next t ∧ Concluded l 12 w .badArgument [] false (supersede l s) t := by
  refine control_refused h ?_
  show settingsRule w.payload _ = _
  unfold settingsRule
  rw [settingsArgument_notInRange hr]

theorem settings_taken {s : State} {l : Link} {w : Wire} (h : Asked s l .settings w)
    (hr : SettingsInRange w.payload) :
    ∃ t, exec (.settings l w) s = .next t ∧ Concluded l 12 w .taken [] false
      (settleSettings { supersede l s with tables.settings := spelledSettings w.payload }) t := by
  refine control_taken h ?_
  show settingsRule w.payload _ = _
  unfold settingsRule
  rw [settingsArgument_inRange hr]

/-- Settles O48: the three parts of `settleSettings`, each by what it leaves unchanged. -/
theorem settingsReplaceTheRecord : Obligations.SettingsReplaceTheRecord := by
  intro s l w h
  refine ⟨fun hr => ?_, fun hr => settings_refused h hr⟩
  obtain ⟨t, ht, hc⟩ := settings_taken h hr
  obtain ⟨a, ha⟩ : ∃ a : State, a = { supersede l s with tables.settings := spelledSettings w.payload } := ⟨_, rfl⟩
  rw [← ha] at hc
  have hgap : a.tables.settings = spelledSettings w.payload := by rw [ha]
  have htrain : ∀ m, trainOf a m = trainOf s m := fun m => by rw [ha]; exact trainOf_supersede l m s
  have hslot : ∀ m, slotOf a m = slotOf (supersede l s) m := fun m => by rw [ha]; rfl
  have hpress : a.press = s.press := by rw [ha]; exact supersede_press l s
  have hstore : a.store = s.store := by rw [ha]; exact supersede_store l s
  have htables : a.tables = { s.tables with settings := spelledSettings w.payload } := by
    rw [ha, ← supersede_tables l s]
  have hscheduler : a.scheduler = s.scheduler := by rw [ha]; exact supersede_scheduler l s
  have hseats : a.seats = s.seats := by rw [ha]; exact supersede_seats l s
  have htime : a.timeMark = s.timeMark := by rw [ha]; exact supersede_timeMark l s
  have hrenderer : a.renderer = s.renderer := by rw [ha]; exact supersede_renderer l s
  have hentry : ∀ i, entryOf a i = entryOf s i := fun i => by rw [ha]; exact entryOf_supersede l i s
  have hbpress : (expireTrains a).press = s.press := by rw [expireTrains_only]; exact hpress
  have hbset : (expireTrains a).tables.settings = spelledSettings w.payload := by rw [expireTrains_only]; exact hgap
  have hheld : ∀ {k n : Nat}, s.press.hold = .holding k n → (expireTrains a).press.hold = .holding k n := fun hk => by
    rw [hbpress]; exact hk
  have hvset : (expireHold (expireTrains a)).tables.settings = spelledSettings w.payload := by
    rw [expireHold_only]; exact hbset
  have hvfree : s.store.freeCount ≤ (expireHold (expireTrains a)).store.freeCount := by
    rw [expireHold_only, ← hstore]
    exact freeCount_le_expireTrains a
  have hvarr : (expireHold (expireTrains a)).store.arrival = s.store.arrival := by
    rw [expireHold_only, ← hstore]
    show (expireTrains a).store.arrival = _
    rw [expireTrains_only]
  refine ⟨settleSettings a, t, ht, hc, ?_, fun m y hy => ?_, fun m g hg => ?_, fun k n hk => ?_, fun hno => ⟨?_, ?_⟩,
    fun hlow => ?_, fun hlow => ?_, ?_, ?_, ?_, ?_, expireHold (expireTrains a), rfl, ?_, hvarr, hvfree, fun i => ?_⟩
  · unfold settleSettings
    rw [lowWaterTest_only, expireHold_only, expireTrains_only]
    exact htables
  · have hu : trainOf (settleSettings a) m = trainOf (expireTrains a) m := by
      unfold settleSettings
      rw [lowWaterTest_only, expireHold_only]
      rfl
    rw [hu, trainOf_expireTrains, htrain, hy, runningTrain_some, hgap]
    rfl
  · have hu : slotOf (settleSettings a) m = slotOf (expireTrains a) m := by
      unfold settleSettings
      rw [lowWaterTest_only, expireHold_only]
      rfl
    rw [hu, slotOf_expireTrains, hslot, hg, runningStaging_some, hgap]
    rfl
  · have hu : (settleSettings a).press = (expireHold (expireTrains a)).press := by
      unfold settleSettings
      rw [lowWaterTest_only]
    rw [hu, hold_expireHold (hheld hk), hbset, hbpress]
    rfl
  · unfold settleSettings
    rw [lowWaterTest_only, expireHold_notDue fun k n hk => absurd (by rw [← hbpress]; exact hk) (hno k n)]
    exact hbpress
  · unfold settleSettings
    rw [lowWaterTest_only, expireHold_notDue fun k n hk => absurd (by rw [← hbpress]; exact hk) (hno k n),
      expireTrains_only]
    exact hrenderer
  · unfold settleSettings
    rw [lowWaterTest_of_le (by rw [hvset]; exact hlow.trans hvfree)]
    exact hvarr
  · refine storeLow_lowWaterTest ?_
    rw [hvset]
    exact hlow
  · unfold settleSettings
    rw [lowWaterTest_only, expireHold_only, expireTrains_only]
    show a.scheduler.queue = _
    rw [hscheduler]
  · unfold settleSettings
    rw [lowWaterTest_only, expireHold_only, expireTrains_only]
    exact hseats
  · unfold settleSettings
    rw [lowWaterTest_only, expireHold_only, expireTrains_only]
    exact htime
  · unfold settleSettings
    rw [lowWaterTest_only, expireHold_only, expireTrains_only, hstore]
  · unfold settleSettings
    rw [lowWaterTest_only]
  · have hu : entryOf (expireHold (expireTrains a)) i = entryOf (expireTrains a) i := by
      rw [expireHold_only]
      rfl
    rw [hu, held_expireTrains, hentry]

end Sys2Proof.Machine
end

section
/-!
The controls of the Order Scheduler: taking an order, beginning its first impression on an IDLE unit, and withdrawing it
(chapters 4.1 to 4.3 and 4.5).
-/

namespace Sys2Proof.Machine

/-! ## The checks of an order -/

theorem be16_lt (bs : List Byte) (n : Nat) : be16 bs n < 65536 := by
  unfold be16 byteAt
  have h1 := (bs.getD n 0).isLt
  have h2 := (bs.getD (n + 1) 0).isLt
  omega

theorem ofNat_be16_eq_zero {bs : List Byte} {n : Nat} : BitVec.ofNat 16 (be16 bs n) = 0 ↔ be16 bs n = 0 := by
  have hlt := be16_lt bs n
  constructor
  · intro h
    have hn := congrArg BitVec.toNat h
    rw [BitVec.toNat_ofNat, Nat.mod_eq_of_lt hlt] at hn
    exact hn
  · intro h
    rw [h]
    rfl

/-- Fields of an order's payload that are in their ranges. -/
structure OrderSpells (p : List Byte) (id : Fin 8) : Prop where
  tag : be16 p 0 ≠ 0
  slot : byteAt p 2 = id.val
  copies : byteAt p 3 ≠ 0

section
variable {p : List Byte} {s : State}

theorem checkOrder_badArgument (h : be16 p 0 = 0 ∨ 7 < byteAt p 2 ∨ byteAt p 3 = 0) :
    checkOrder p s = .error .badArgument := by
  unfold checkOrder
  dsimp only
  split
  · rfl
  · next id hid =>
    refine if_pos ?_
    rcases h with h | h | h
    · exact .inl (ofNat_be16_eq_zero.2 h)
    · rw [planArgument_eq_none h] at hid
      cases hid
    · exact .inr h

variable {id : Fin 8} (h : OrderSpells p id)
include h

theorem not_badArgument : ¬(BitVec.ofNat 16 (be16 p 0) = 0 ∨ byteAt p 3 = 0) := by
  rintro (h1 | h1)
  · exact h.tag (ofNat_be16_eq_zero.1 h1)
  · exact h.copies h1

theorem checkOrder_queueFull (hf : Config.queuePlaces ≤ s.scheduler.queue.length) : checkOrder p s = .error .queueFull := by
  unfold checkOrder
  rw [planArgument_eq_some h.slot]
  dsimp only
  rw [if_neg (not_badArgument h)]
  exact if_pos hf

theorem checkOrder_duplicateTag (hf : ¬Config.queuePlaces ≤ s.scheduler.queue.length)
    (hd : ∃ o ∈ s.scheduler.queue, o.tag = BitVec.ofNat 16 (be16 p 0)) : checkOrder p s = .error .duplicateTag := by
  unfold checkOrder
  rw [planArgument_eq_some h.slot]
  dsimp only
  rw [if_neg (not_badArgument h), if_neg hf]
  exact if_pos (by simpa using hd)

variable (hf : ¬Config.queuePlaces ≤ s.scheduler.queue.length)
  (hd : ¬∃ o ∈ s.scheduler.queue, o.tag = BitVec.ofNat 16 (be16 p 0))
include hf hd

theorem checkOrder_empty (hp : planOf s id = none) : checkOrder p s = .error .noSuch := by
  unfold checkOrder
  rw [planArgument_eq_some h.slot]
  dsimp only
  rw [if_neg (not_badArgument h), if_neg hf, if_neg (by simpa using hd), hp]

theorem checkOrder_unlisted {plan : Plan} (hp : planOf s id = some plan)
    (hl : ∃ x ∈ plan.seats, (recordOf s x.index).listed = false) : checkOrder p s = .error .noSuch := by
  unfold checkOrder
  rw [planArgument_eq_some h.slot]
  dsimp only
  rw [if_neg (not_badArgument h), if_neg hf, if_neg (by simpa using hd), hp]
  exact if_pos (by simpa using hl)

theorem checkOrder_taken {plan : Plan} (hp : planOf s id = some plan)
    (hl : ∀ x ∈ plan.seats, (recordOf s x.index).listed = true) :
    checkOrder p s = .ok ({ tag := BitVec.ofNat 16 (be16 p 0), plan := id, copies := byteAt p 3 }, plan) := by
  unfold checkOrder
  rw [planArgument_eq_some h.slot]
  dsimp only
  rw [if_neg (not_badArgument h), if_neg hf, if_neg (by simpa using hd), hp]
  exact if_neg (by simpa using hl)

end

/-- The checks of an order read nothing of a staged table train. -/
theorem checkOrder_supersede (p : List Byte) (l : Link) (s : State) : checkOrder p (supersede l s) = checkOrder p s := by
  unfold checkOrder
  simp only [supersede_scheduler, planOf_supersede, recordOf_supersede]

/-! ## An order that is taken -/

/-- The control and the command that carry an order. -/
def orderControl (rush : Bool) : Control := if rush then .rushOrder else .queueOrder

/-- The queue with an order taken at its place (R67, R68). -/
def queueWith (rush : Bool) (o : Order) (queue : List Order) : List Order :=
  if rush then placeRush o queue else queue ++ [o]

theorem order_refused {s : State} {l : Link} {w : Wire} {rush : Bool} {cause : ControlOutcome}
    (h : Asked s l (orderControl rush) w) (hr : checkOrder w.payload s = .error cause) :
    ∃ t, exec (if rush then .rushOrder l w else .queueOrder l w) s = .next t
      ∧ Concluded l (controlCode (orderControl rush)) w cause [] false (supersede l s) t := by
  have hrule : controlRule (orderControl rush) l w.payload (supersede l s) = .refuse cause := by
    cases rush
    · show queueOrderRule w.payload _ = _
      unfold queueOrderRule
      rw [checkOrder_supersede, hr]
    · show rushOrderRule w.payload _ = _
      unfold rushOrderRule
      rw [checkOrder_supersede, hr]
  obtain ⟨t, ht, hc⟩ := control_refused h hrule (by cases rush <;> decide)
  exact ⟨t, by rw [← ht]; cases rush <;> rfl, hc⟩

theorem order_taken {s : State} {l : Link} {w : Wire} {rush : Bool} {a : OrderArgs} {p : Plan}
    (h : Asked s l (orderControl rush) w) (hr : checkOrder w.payload s = .ok (a, p)) :
    ∃ t, exec (if rush then .rushOrder l w else .queueOrder l w) s = .next t
      ∧ Concluded l (controlCode (orderControl rush)) w .taken [] false
        (takeOrder (queueWith rush (newOrder a p rush) s.scheduler.queue) p (supersede l s)) t := by
  have hrule : controlRule (orderControl rush) l w.payload (supersede l s) =
      .take (takeOrder (queueWith rush (newOrder a p rush) s.scheduler.queue) p (supersede l s)) [] false := by
    cases rush
    · show queueOrderRule w.payload _ = _
      unfold queueOrderRule
      rw [checkOrder_supersede, hr, supersede_scheduler]
      rfl
    · show rushOrderRule w.payload _ = _
      unfold rushOrderRule
      rw [checkOrder_supersede, hr, supersede_scheduler]
      rfl
  obtain ⟨t, ht, hc⟩ := control_taken h hrule (by cases rush <;> decide)
  exact ⟨t, by rw [← ht]; cases rush <;> rfl, hc⟩

theorem newOrder_decisions (a : OrderArgs) (p : Plan) (rush : Bool) : newOrder a p rush =
    { tag := a.tag, plan := a.plan, copies := a.copies, done := 0, rush := rush, state := .queued
      decisions := List.replicate p.seats.length { decision := .undecided, lockMark := false }
      linesFixed := false, seatLines := [] } := by
  unfold newOrder
  rw [List.map_const']

theorem takeOrder_running {queue : List Order} {p : Plan} {s : State} (h : s.scheduler.impression ≠ none) :
    takeOrder queue p s = joinedState queue p s := by
  have hj : (joinedState queue p s).scheduler.impression = s.scheduler.impression := by rw [joinedState_only]
  show (if (joinedState queue p s).scheduler.impression.isNone then _ else joinedState queue p s) = _
  rw [hj]
  exact if_neg (by simpa using h)

theorem takeOrder_idle {queue : List Order} {p : Plan} {s : State} (h : s.scheduler.impression = none) :
    takeOrder queue p s = beginImpression (joinedState queue p s) := by
  have hj : (joinedState queue p s).scheduler.impression = s.scheduler.impression := by rw [joinedState_only]
  show (if (joinedState queue p s).scheduler.impression.isNone then _ else _) = _
  rw [hj, h]
  rfl

/-- Settles O49: the checks in their order, and `joinedState` while an impression is in progress. -/
theorem ordersJoinTheQueue : Obligations.OrdersJoinTheQueue := by
  intro s l w rush control command h tag copies bad full twice refused
  have spells : ¬bad → ∀ id : Fin 8, byteAt w.payload 2 = id.val → OrderSpells w.payload id := fun hb id hid =>
    ⟨fun h0 => hb (.inl h0), hid, fun h0 => hb (.inr (.inr h0))⟩
  have slot : ¬bad → ∃ id : Fin 8, byteAt w.payload 2 = id.val := fun hb =>
    ⟨⟨byteAt w.payload 2, by
      by_contra hn
      exact hb (.inr (.inl (by omega)))⟩, rfl⟩
  have refuse : ∀ {cause}, checkOrder w.payload s = .error cause → refused cause := fun hr => order_refused h hr
  refine ⟨fun hb => refuse (checkOrder_badArgument hb), fun hb hf => ?_, fun hb hf hd => ?_,
    fun hb hf hd id hid => ⟨fun hp => refuse (checkOrder_empty (spells hb id hid) hf hd hp), fun p hp =>
      ⟨fun hl => refuse (checkOrder_unlisted (spells hb id hid) hf hd hp hl), fun hl himp => ?_⟩⟩⟩
  · obtain ⟨id, hid⟩ := slot hb
    exact refuse (checkOrder_queueFull (spells hb id hid) hf)
  · obtain ⟨id, hid⟩ := slot hb
    exact refuse (checkOrder_duplicateTag (spells hb id hid) hf hd)
  · obtain ⟨t, ht, hc⟩ := order_taken h (checkOrder_taken (spells hb id hid) hf hd hp hl)
    rw [takeOrder_running (by rw [supersede_scheduler]; exact himp), newOrder_decisions] at hc
    refine ⟨_, t, ht, hc, ?_, fun hr => ?_, fun x rest hr hq hx => ?_, fun i => ?_, ?_⟩
    · rw [joinedState_only, supersede_scheduler]
    · rw [joinedState_only]
      subst hr
      rfl
    · rw [joinedState_only]
      subst hr
      show queueWith true _ _ = _
      unfold queueWith placeRush
      rw [if_pos rfl, hq]
      dsimp only
      rw [if_pos hx, behindRushes_eq]
      rfl
    · rw [recordOf_joinedState, recordOf_supersede]
    · rw [joinedState_only]

/-! ## The first impression of an IDLE unit -/

/-- The beginning of an impression whose first band has its freeze line at the line count freezes that band. -/
theorem nextFreeze_takeReached {s : State} {c d : Impression} {p : Plan} {o : Order} {rest : List Order}
    (hr : Runs s c p o rest) {bands : Nat} (hb : bandsLeft c p ≤ bands) (hl : 0 < bandsLeft c p)
    (he : nextLineOf c = s.press.lineCount) (hd : (takeReached bands s).scheduler.impression = some d) :
    c.nextFreeze + 1 ≤ d.nextFreeze := by
  rw [takeReached_of_freeze hr hb ⟨hl, (isReached_iff _ _).2 (.inl he)⟩] at hd
  obtain ⟨o', hr', -⟩ := runs_freezeBand hr
  have hlater := (offered_takeReached bands (freezeBand s)).later
  rw [hd, hr'.impression] at hlater
  exact hlater

/-- Settles O50: the order joins an empty queue and begins, and what the lines already reached change is `Offered`. -/
theorem orderOnAnIdleUnitBegins : Obligations.OrderOnAnIdleUnitBegins := by
  intro s l w rush id p control command h himp hqueue htag hslot hcopies hp hlisted hheight hband x other ahead start
  have hspells : OrderSpells w.payload id := ⟨htag, hslot, hcopies⟩
  obtain ⟨t, ht, hc⟩ := order_taken h (checkOrder_taken hspells (by rw [hqueue]; decide) (by rw [hqueue]; nofun) hp hlisted)
  rw [takeOrder_idle (by rw [supersede_scheduler]; exact himp), newOrder_decisions, hqueue] at hc
  obtain ⟨q, hq⟩ : ∃ q : Order, q =
      { tag := BitVec.ofNat 16 (be16 w.payload 0), plan := id, copies := byteAt w.payload 3, done := 0, rush := rush
        state := .queued
        decisions := List.replicate p.seats.length { decision := .undecided, lockMark := false }
        linesFixed := false, seatLines := [] } := ⟨_, rfl⟩
  have hone : queueWith rush q [] = [q] := by cases rush <;> rfl
  rw [← hq, hone] at hc
  have haq : (joinedState [q] p (supersede l s)).scheduler.queue = [q] := by rw [joinedState_only]
  have hap : planOf (joinedState [q] p (supersede l s)) q.plan = some p := by
    rw [planOf_joinedState, planOf_supersede, hq]
    exact hp
  have hset : (joinedState [q] p (supersede l s)).tables.settings = x := by
    rw [joinedState_only]
    show (supersede l s).tables.settings = _
    rw [supersede_tables]
  have hpress : (joinedState [q] p (supersede l s)).press = s.press := by
    rw [joinedState_only]
    exact supersede_press l s
  have hprev : (joinedState [q] p (supersede l s)).scheduler.prevEnd = s.scheduler.prevEnd := by
    rw [joinedState_only]
    show (supersede l s).scheduler.prevEnd = _
    rw [supersede_scheduler]
  rw [beginImpression_cons haq hap, hset] at hc
  have hbegins : Begins q [] p (joinedState [q] p (supersede l s)) (begunState q p (joinedState [q] p (supersede l s))) :=
    begunState_begins haq
  obtain ⟨b, hb⟩ : ∃ b, b = begunState q p (joinedState [q] p (supersede l s)) := ⟨_, rfl⟩
  rw [← hb] at hc hbegins
  have hbegun := hbegins
  unfold Begins at hbegun
  rw [hset, hpress, hprev] at hbegun
  obtain ⟨head, hhead, hdec, -, -, -, hbeq⟩ := hbegun
  have hqd : head.decisions = q.decisions := hdec (by rw [hq])
  obtain ⟨c0, hc0⟩ : ∃ c0 : Impression, c0 =
      { tag := q.tag, plan := q.plan, copy := q.done + 1
        snapshot := { bandHeight := x.bandHeight, bandLead := x.bandLead, callLead := x.callLead, pageGap := x.pageGap }
        start := start, endLine := start + BitVec.ofNat 48 p.height - 1, first := decide (q.done = 0)
        nextFreeze := 0, lateSeats := [], clampedSet := [], marginSet := [], captionSet := [], clamped := 0
        margins := 0, truncated := 0, missing := 0, filled := 0, heldBands := 0, withholdPending := false } := ⟨_, rfl⟩
  have hbi : b.scheduler.impression = some c0 := by rw [hbeq, hc0]
  have hbq : b.scheduler.queue = [head] := by rw [hbeq]
  have hbp : planOf b c0.plan = some p := by
    rw [hbeq, hc0]
    exact hap
  have hbl : b.press = { s.press with blankWidth := p.width, mode := none } := by rw [hbeq]
  have hruns : Runs b c0 p head [] := ⟨hbi, hbp, hbq⟩
  have hoff := offered_takeReached (bandCount p.height x.bandHeight) b
  obtain ⟨n, hn⟩ := hoff.impression hbi
  obtain ⟨o, ho, hframe⟩ : ∃ o, (takeReached (bandCount p.height x.bandHeight) b).scheduler.queue = [o]
      ∧ o.frame = head.frame := by
    have hmap := hoff.frames
    rw [hbq] at hmap
    obtain ⟨o, ho, he⟩ := List.map_eq_singleton_iff.1 hmap
    exact ⟨o, ho, he⟩
  have hlen : o.decisions.length = p.seats.length := by
    rw [show o.decisions.length = head.decisions.length from congrArg Prod.snd hframe, hqd, hq]
    exact List.length_replicate
  have hplain : ({ o with decisions := [], seatLines := [] } : Order) =
      { tag := BitVec.ofNat 16 (be16 w.payload 0), plan := id, copies := byteAt w.payload 3, done := 0, rush := rush
        state := .active, decisions := [], linesFixed := true, seatLines := [] } := by
    refine (congrArg Prod.fst hframe).trans ?_
    rw [hhead, hq]
    rfl
  have htag' : o.tag = BitVec.ofNat 16 (be16 w.payload 0) := congrArg Order.tag hplain
  have hcop : o.copies = byteAt w.payload 3 := congrArg Order.copies hplain
  refine ⟨_, t, _, o, ht, hc, ho, hn, htag', congrArg Order.plan hplain, hcop, congrArg Order.done hplain,
    congrArg Order.rush hplain, congrArg Order.state hplain, congrArg Order.linesFixed hplain, hlen, ?_, ?_, ?_, ?_, ?_,
    ?_, ?_, ?_, ?_, ?_, fun hstart => ?_, ?_, ?_, ?_, ?_, ?_, _, b, q, joinedState_only [q] p (supersede l s),
    fun i => by rw [recordOf_joinedState, recordOf_supersede], ?_, hbegins, rfl⟩
  · rw [hc0, htag', hq]
  · rw [hc0, hq]
  · rw [hc0, hq]
  · rw [hc0, hq]
    rfl
  · rw [hc0]
  · rw [hc0]
  · rw [hc0]
  · rw [hc0]
  · rw [hc0]
  · rw [hc0]
  · refine (Nat.le_add_left 1 c0.nextFreeze).trans (nextFreeze_takeReached hruns ?_ ?_ ?_ hn)
    · rw [hc0]
      exact Nat.sub_le _ _
    · rw [hc0]
      show 0 < (p.height + x.bandHeight - 1) / x.bandHeight - 0
      exact Nat.div_pos (by have : 0 < x.bandHeight := hband; omega) hband
    · rw [hbl, hc0]
      show start + BitVec.ofNat 48 (0 * x.bandHeight) - BitVec.ofNat 48 x.bandLead = s.press.lineCount
      rw [hstart, Nat.zero_mul]
      generalize BitVec.ofNat 48 x.bandLead = lead
      generalize s.press.lineCount = line
      bv_omega
  · rw [hoff.only]
    exact hbl
  · rw [hoff.only, hbeq]
  · rw [hoff.only, hbeq]
    show (joinedState [q] p (supersede l s)).store = _
    rw [joinedState_only]
    exact supersede_store l s
  · rw [hoff.only, hbeq]
    show (joinedState [q] p (supersede l s)).intake.trains = _
    rw [joinedState_only]
    show (supersede l s).intake.trains = _
    rw [supersede_intake]
  · have hsch : t.scheduler = (takeReached (bandCount p.height x.bandHeight) b).scheduler := by
      unfold Concluded at hc
      rw [hc]
      rfl
    unfold running
    rw [hsch, hn]
    rfl
  · rw [hq, htag', hcop]

end Sys2Proof.Machine
end

section
/-!
WITHDRAW ORDER: its refusals, the mark on an order being printed, and the removal of any other (chapter 4.5).
-/

namespace Sys2Proof.Machine

theorem withdrawOrderRule_badArgument {p : List Byte} (h : be16 p 0 = 0) (s : State) :
    withdrawOrderRule p s = .refuse .badArgument := if_pos (ofNat_be16_eq_zero.2 h)

theorem withdrawOrderRule_noSuch {p : List Byte} (h : be16 p 0 ≠ 0) {s : State}
    (hn : ∀ o ∈ s.scheduler.queue, o.tag ≠ BitVec.ofNat 16 (be16 p 0)) : withdrawOrderRule p s = .refuse .noSuch := by
  have ho : orderOfTag s (BitVec.ofNat 16 (be16 p 0)) = none := List.find?_eq_none.2 (by simpa using hn)
  unfold withdrawOrderRule
  dsimp only
  rw [if_neg fun h0 => h (ofNat_be16_eq_zero.1 h0), ho]

theorem withdrawOrderRule_taken {p : List Byte} (h : be16 p 0 ≠ 0) {s : State} {o : Order}
    (ho : o ∈ s.scheduler.queue) (ht : o.tag = BitVec.ofNat 16 (be16 p 0))
    (hu : ∀ x ∈ s.scheduler.queue, x.tag = BitVec.ofNat 16 (be16 p 0) → x = o) :
    withdrawOrderRule p s = .take (withdraw o s) [] false := by
  unfold withdrawOrderRule
  dsimp only
  rw [if_neg fun h0 => h (ofNat_be16_eq_zero.1 h0)]
  cases hf : orderOfTag s (BitVec.ofNat 16 (be16 p 0)) with
  | none =>
    have := List.find?_eq_none.1 hf o ho
    exact absurd ht (by simpa using this)
  | some x =>
    obtain ⟨hx, hxt⟩ := orderOfTag_eq_some hf
    rw [hu x hx hxt]

theorem withdraw_active {o : Order} (h : o.state = .active) (s : State) : withdraw o s =
    { s with
      scheduler.queue := s.scheduler.queue.map fun x => if x.tag = o.tag then { x with state := .ending } else x } := by
  unfold withdraw
  rw [h]

theorem withdraw_ending {o : Order} (h : o.state = .ending) (s : State) : withdraw o s = s := by
  unfold withdraw
  rw [h]

theorem withdraw_waiting {o : Order} (h : o.state = .queued ∨ o.state = .suspended) (s : State) :
    withdraw o s = lowWaterTest (removedState o s) := by
  rw [← removeOrder_eq]
  unfold withdraw
  rcases h with h | h <;> rw [h]

/-- The low-water test latches no kind but STORE_LOW. -/
theorem other_lowWaterTest {k : NoticeKind} (h : k ≠ .storeLow) (s : State) :
    holdsKind (lowWaterTest s).notices.latched k = holdsKind s.notices.latched k := by
  have hr : (reclaim s.tables.settings.lowWater s).notices = s.notices := by rw [reclaim_only]
  unfold lowWaterTest latchStoreLow
  split
  · split
    · rw [latchKind_other h, hr]
    · rw [hr]
  · rfl

/-- Settles O51, one lemma about `withdraw` for each state of the order. -/
theorem withdrawnOrderLeavesOrEnds : Obligations.WithdrawnOrderLeavesOrEnds := by
  intro s l w h tag
  have hq := supersede_scheduler l s
  refine ⟨fun h0 => control_refused h (withdrawOrderRule_badArgument h0 _),
    fun h0 hn => control_refused h (withdrawOrderRule_noSuch h0 (by rw [hq]; exact hn)), fun o h0 ho ht hu => ?_⟩
  have hrule : controlRule .withdrawOrder l w.payload (supersede l s) = .take (withdraw o (supersede l s)) [] false :=
    withdrawOrderRule_taken h0 (by rw [hq]; exact ho) ht (by rw [hq]; exact hu)
  obtain ⟨t, hexec, hc⟩ := control_taken h hrule
  refine ⟨fun hs => ⟨t, hexec, ?_⟩, fun hs => ⟨t, hexec, ?_⟩, fun p hs hp => ⟨_, t, hexec, hc, ?_⟩⟩
  · have hw : withdraw o (supersede l s) =
        { supersede l s with
          scheduler.queue :=
            s.scheduler.queue.map fun x => if x.tag = tag then { x with state := .ending } else x } := by
      rw [withdraw_active hs, ht, show (supersede l s).scheduler.queue = s.scheduler.queue by rw [hq]]
    rw [hw] at hc
    exact hc
  · rw [withdraw_ending hs] at hc
    exact hc
  · have hp' : planOf (supersede l s) o.plan = some p := by rw [planOf_supersede]; exact hp
    rw [withdraw_waiting hs]
    have hrec : ∀ i, recordOf (lowWaterTest (removedState o (supersede l s))) i =
        recordOf (removedState o (supersede l s)) i := fun i => by
      rw [lowWaterTest_only]
      rfl
    refine ⟨?_, fun i => ?_, ?_, ?_, ?_, ?_, ?_, ?_, fun hn => ⟨_, removedState_removed hp' hn, rfl⟩⟩
    · rw [lowWaterTest_only, removedState_only, ht, hq]
    · rw [hrec, recordOf_removedState, recordOf_detachedState hp', recordOf_supersede]
    · rw [lowWaterTest_only, removedState_only, ht, supersede_seats]
    · rw [other_lowWaterTest (k := .orderDone) nofun, removedState_only, supersede_notices]
    · rw [lowWaterTest_only, removedState_only, supersede_press]
    · rw [lowWaterTest_only, removedState_only, supersede_renderer]
    · rw [lowWaterTest_only, removedState_only, supersede_intake]
    · rw [lowWaterTest_only, removedState_only, supersede_store]

end Sys2Proof.Machine
end

section
/-!
The reads: the lengths of their data, consecutive records of a log, and what each read answers (chapter 10.7).
-/

namespace Sys2Proof.Machine

/-! ## Lengths -/

theorem length_bytesBE (k v : Nat) : (bytesBE k v).length = k := by
  induction k with
  | zero => rfl
  | succ k ih => exact congrArg Nat.succ ih

theorem length_zeroBytes (n : Nat) : (zeroBytes n).length = n := List.length_replicate

theorem length_padTo (n : Nat) (bs : List Byte) : (padTo n bs).length = n := by
  unfold padTo
  rw [List.length_take, List.length_append, length_zeroBytes]
  omega

theorem length_markBytes (m : Option Mark) : (markBytes m).length = 4 := by
  cases m with
  | none => rfl
  | some m => exact length_bytesBE 4 _

theorem length_versionBytes (state lock : Nat) (v : Version) : (versionBytes state lock v).length = 146 := by
  unfold versionBytes
  simp only [List.length_append, length_bytesBE, length_markBytes, length_padTo, List.length_cons, List.length_nil]

theorem length_heldBytes (h : Option Held) : (heldBytes h).length = 146 := by
  obtain _ | ⟨v, _ | _, n⟩ := h
  · exact length_zeroBytes 146
  · exact length_versionBytes 1 n v
  · exact length_versionBytes 2 n v

theorem length_incomingBytes (x : Option Incoming) : (incomingBytes x).length = 146 := by
  obtain _ | ⟨v, _ | _⟩ := x
  · exact length_zeroBytes 146
  · exact length_versionBytes 3 0 v
  · exact length_versionBytes 4 0 v

theorem length_directoryData (s : State) (i : RosterIndex) : (directoryData s i).length = 298 := by
  unfold directoryData
  simp only [List.length_append, length_bytesBE, length_heldBytes, length_incomingBytes]

theorem length_queueData (s : State) : (queueData s).length = 240 := length_padTo 240 _

/-! ## Consecutive records -/

/-- The records read are those that stand at consecutive sequence numbers, as many as asked for or up to the first that
does not exist. -/
theorem recordsFrom_eq {α : Type} {at_ : BitVec 32 → Option α} {n : Nat} {q : BitVec 32} {rs : List α}
    (hlen : rs.length ≤ n) (hat : ∀ (j : Nat) (r : α), rs[j]? = some r → at_ (q + BitVec.ofNat 32 j) = some r)
    (hend : rs.length < n → at_ (q + BitVec.ofNat 32 rs.length) = none) : recordsFrom at_ n q = rs := by
  induction rs generalizing n q with
  | nil =>
    cases n with
    | zero => rfl
    | succ n =>
      have h0 : at_ q = none := by simpa using hend (Nat.succ_pos n)
      unfold recordsFrom
      rw [h0]
  | cons r rs ih =>
    cases n with
    | zero => exact absurd hlen (Nat.not_succ_le_zero _)
    | succ n =>
      have h0 : at_ q = some r := by simpa using hat 0 r rfl
      have hnext : ∀ j, q + 1 + BitVec.ofNat 32 j = q + BitVec.ofNat 32 (j + 1) := fun j => by
        rw [BitVec.ofNat_add, BitVec.add_assoc, BitVec.add_comm (BitVec.ofNat 32 j)]
        rfl
      unfold recordsFrom
      rw [h0]
      refine congrArg (r :: ·) (ih (Nat.le_of_succ_le_succ hlen) (fun j r' hr => ?_) fun hlt => ?_)
      · rw [hnext]
        exact hat (j + 1) r' hr
      · rw [hnext]
        exact hend (Nat.succ_lt_succ hlt)

theorem recordsFrom_none {α : Type} {at_ : BitVec 32 → Option α} {n : Nat} {q : BitVec 32} (h : at_ q = none) :
    recordsFrom at_ n q = [] :=
  recordsFrom_eq (Nat.zero_le n) nofun fun _ => by simpa using h

theorem deliveryAt_eq_some (s : State) (q : BitVec 32) (r : DeliveryRecord) :
    deliveryAt s q = some r ↔ s.intake.log[Fin.ofNat 256 q.toNat] = some r ∧ r.sequence = q := by
  unfold deliveryAt logSlot
  cases s.intake.log[Fin.ofNat 256 q.toNat] with
  | none => simp
  | some x =>
    by_cases hx : x.sequence = q
    · simp only [hx, if_true, Option.some.injEq]
      exact ⟨fun h => ⟨h, h ▸ hx⟩, fun h => h.1⟩
    · simp only [hx, if_false, Option.some.injEq, reduceCtorEq, false_iff]
      rintro ⟨rfl, h⟩
      exact hx h

theorem pageAt_eq_some (s : State) (q : BitVec 32) (r : PageRecord) :
    pageAt s q = some r ↔ s.scheduler.log[Fin.ofNat 64 q.toNat] = some r ∧ r.sequence = q := by
  unfold pageAt pageSlot
  cases s.scheduler.log[Fin.ofNat 64 q.toNat] with
  | none => simp
  | some x =>
    by_cases hx : x.sequence = q
    · simp only [hx, if_true, Option.some.injEq]
      exact ⟨fun h => ⟨h, h ▸ hx⟩, fun h => h.1⟩
    · simp only [hx, if_false, Option.some.injEq, reduceCtorEq, false_iff]
      rintro ⟨rfl, h⟩
      exact hx h

/-! ## The rules -/

theorem indexArgument_of_le {p : List Byte} (h : 1024 ≤ be16 p 0) : indexArgument p = none := dif_neg (by omega)

theorem indexArgument_of_eq {p : List Byte} {i : RosterIndex} (h : be16 p 0 = i.val) : indexArgument p = some i := by
  have hlt : be16 p 0 < 1024 := h ▸ i.isLt
  unfold indexArgument
  rw [dif_pos hlt]
  exact congrArg some (Fin.ext h)

section
variable {p : List Byte} {s : State}

theorem readDirectoryRule_badArgument (h : 1024 ≤ be16 p 0) : readDirectoryRule p s = .refuse .badArgument := by
  unfold readDirectoryRule
  rw [indexArgument_of_le h]

theorem readDirectoryRule_listed {i : RosterIndex} (h : be16 p 0 = i.val) (hl : (recordOf s i).listed = true) :
    readDirectoryRule p s = .take s (directoryData s i) false := by
  unfold readDirectoryRule
  rw [indexArgument_of_eq h]
  exact if_pos hl

theorem readDirectoryRule_empty {i : RosterIndex} (h : be16 p 0 = i.val) (hl : (recordOf s i).listed = false) :
    readDirectoryRule p s = .take s (zeroBytes 298) true := by
  unfold readDirectoryRule
  rw [indexArgument_of_eq h]
  exact if_neg (by rw [hl]; nofun)

theorem readDeliveryLogRule_badArgument (h : byteAt p 4 < 1 ∨ 8 < byteAt p 4) :
    readDeliveryLogRule p s = .refuse .badArgument := if_pos h

theorem readDeliveryLogRule_none (h : ¬(byteAt p 4 < 1 ∨ 8 < byteAt p 4))
    (hr : recordsFrom (deliveryAt s) (byteAt p 4) (BitVec.ofNat 32 (be32 p 0)) = []) :
    readDeliveryLogRule p s = .take s (zeroBytes 193) true := by
  unfold readDeliveryLogRule
  dsimp only
  rw [if_neg h, hr]

theorem readDeliveryLogRule_some (h : ¬(byteAt p 4 < 1 ∨ 8 < byteAt p 4)) {rs : List DeliveryRecord} (hne : rs ≠ [])
    (hr : recordsFrom (deliveryAt s) (byteAt p 4) (BitVec.ofNat 32 (be32 p 0)) = rs) :
    readDeliveryLogRule p s = .take s (deliveryData rs) false := by
  obtain ⟨r, rs, rfl⟩ := List.exists_cons_of_ne_nil hne
  unfold readDeliveryLogRule
  dsimp only
  rw [if_neg h, hr]

theorem readPageLogRule_badArgument (h : byteAt p 4 < 1 ∨ 4 < byteAt p 4) :
    readPageLogRule p s = .refuse .badArgument := if_pos h

theorem readPageLogRule_none (h : ¬(byteAt p 4 < 1 ∨ 4 < byteAt p 4))
    (hr : recordsFrom (pageAt s) (byteAt p 4) (BitVec.ofNat 32 (be32 p 0)) = []) :
    readPageLogRule p s = .take s (zeroBytes 185) true := by
  unfold readPageLogRule
  dsimp only
  rw [if_neg h, hr]

theorem readPageLogRule_some (h : ¬(byteAt p 4 < 1 ∨ 4 < byteAt p 4)) {rs : List PageRecord} (hne : rs ≠ [])
    (hr : recordsFrom (pageAt s) (byteAt p 4) (BitVec.ofNat 32 (be32 p 0)) = rs) :
    readPageLogRule p s = .take s (pageData rs) false := by
  obtain ⟨r, rs, rfl⟩ := List.exists_cons_of_ne_nil hne
  unfold readPageLogRule
  dsimp only
  rw [if_neg h, hr]

end

/-- Settles O52: the rule of each read, on the state with the staged train superseded, which has the same records. -/
theorem readsReturnTheirData : Obligations.ReadsReturnTheirData := by
  intro s l w concludes first count delivered printed
  have hdelivered : ∀ q r, deliveryAt (supersede l s) q = some r ↔ delivered q r := fun q r => by
    rw [deliveryAt_eq_some, supersede_intake]
  have hprinted : ∀ q r, pageAt (supersede l s) q = some r ↔ printed q r := fun q r => by
    rw [pageAt_eq_some, supersede_scheduler]
  refine ⟨fun h => ⟨?_, length_queueData s⟩, fun h => ⟨fun hbig => control_refused h (readDirectoryRule_badArgument hbig),
    fun i hi => ⟨fun hl => ?_, fun hl => ?_, length_directoryData s i⟩⟩,
    fun h => ⟨fun hbad => control_refused h (readDeliveryLogRule_badArgument hbad), fun hc => ⟨fun hn => ?_,
      fun rs hne hlen hat hend => ?_⟩⟩,
    fun h => ⟨fun hbad => control_refused h (readPageLogRule_badArgument hbad), fun hc => ⟨fun hn => ?_,
      fun rs hne hlen hat hend => ?_⟩⟩⟩
  · have hq : queueData (supersede l s) = queueData s := by
      unfold queueData
      rw [supersede_scheduler]
    rw [← hq]
    exact control_taken h rfl
  · have hd : directoryData (supersede l s) i = directoryData s i := by
      unfold directoryData
      rw [recordOf_supersede, entryOf_supersede]
    rw [← hd]
    exact control_taken h (readDirectoryRule_listed hi (by rw [recordOf_supersede]; exact hl))
  · exact control_taken h (readDirectoryRule_empty hi (by rw [recordOf_supersede]; exact hl))
  · refine control_taken h (readDeliveryLogRule_none (by omega) (recordsFrom_none ?_))
    exact Option.eq_none_iff_forall_ne_some.2 fun r hr => hn r ((hdelivered _ r).1 hr)
  · refine control_taken h (readDeliveryLogRule_some (by omega) hne (recordsFrom_eq hlen (fun j r hr => ?_) fun hlt => ?_))
    · exact (hdelivered _ r).2 (hat j r hr)
    · exact Option.eq_none_iff_forall_ne_some.2 fun r hr => hend hlt r ((hdelivered _ r).1 hr)
  · refine control_taken h (readPageLogRule_none (by omega) (recordsFrom_none ?_))
    exact Option.eq_none_iff_forall_ne_some.2 fun r hr => hn r ((hprinted _ r).1 hr)
  · refine control_taken h (readPageLogRule_some (by omega) hne (recordsFrom_eq hlen (fun j r hr => ?_) fun hlt => ?_))
    · exact (hprinted _ r).2 (hat j r hr)
    · exact Option.eq_none_iff_forall_ne_some.2 fun r hr => hend hlt r ((hprinted _ r).1 hr)

end Sys2Proof.Machine
end

section
/-!
Versions that are freed by control: WITHHOLD, RELEASE, DROP TILE and PURGE STORE (chapters 1.3, 2.4 and 2.6).
-/

namespace Sys2Proof.Machine

/-! ## Blocks that return -/

theorem blocksMove_freeIncoming (i : RosterIndex) (s : State) : BlocksMove s (freeIncoming i s) := by
  unfold freeIncoming
  split
  · exact .refl s
  · next v hv =>
    refine blocksMove_setEntry (i := i) (e := { entryOf s i with incoming := none }) (bs := v.version.blocks) rfl rfl rfl ?_
    rw [hv]
    simp only [incomingBlocks, List.append_nil]
    exact List.perm_append_comm

theorem blocksMove_voidTrain (l : Link) (o : Option Delivery) (s : State) : BlocksMove s (voidTrain l o s) := by
  cases hx : trainOf s l with
  | none =>
    rw [voidTrain_of_idle hx]
    exact .refl s
  | some x =>
    refine (blocksMove_freeIncoming x.index s).trans (.same ?_ ?_ ?_) <;>
      rw [voidTrain_some hx, latchKind_only, changeRecord_only] <;> rfl

theorem blocksMove_voidTrainIf (i : RosterIndex) (o : Delivery) (l : Link) (s : State) :
    BlocksMove s (voidTrainIf i o l s) := by
  unfold voidTrainIf
  split
  · split
    · exact blocksMove_voidTrain _ _ s
    · exact .refl s
  · exact .refl s

theorem blocksMove_dropIncoming (i : RosterIndex) (o : Delivery) (s : State) : BlocksMove s (dropIncoming i o s) :=
  ((blocksMove_voidTrainIf i o .a s).trans (blocksMove_voidTrainIf i o .b _)).trans (blocksMove_freeIncoming i _)

theorem directory_eq_setEntry {s t : State} {i : RosterIndex} (h : ∀ j, j ≠ i → entryOf t j = entryOf s j) :
    t.intake.directory = (setEntry i (entryOf t i) s).intake.directory := by
  refine Vector.ext fun j hj => ?_
  show _ = (s.intake.directory.set i (entryOf t i))[j]
  rw [Vector.getElem_set]
  split
  · next he =>
    subst he
    rfl
  · next he => exact h ⟨j, hj⟩ fun e => he (congrArg Fin.val e).symm

/-- Where one entry alone changes, the blocks that it no longer lists have returned. -/
theorem BlocksMove.returns {s t : State} {i : RosterIndex} {bs : List Nat} (h : BlocksMove s t)
    (hj : ∀ j, j ≠ i → entryOf t j = entryOf s j)
    (hb : (entryBlocks (entryOf s i)).Perm (bs ++ entryBlocks (entryOf t i))) : BlocksReturn bs s t := by
  have hl := listedBlocks_congr (directory_eq_setEntry hj)
  have hp := listed_setEntry i (entryOf t i) s
  rw [← hl] at hp
  refine ⟨?_, fun b => ?_⟩
  · have h1 := h.1
    have h2 := hp.length_eq
    have h3 := hb.length_eq
    simp only [List.length_append] at h2 h3
    omega
  · have h1 := h.2 b
    have h2 := hp.count_eq b
    have h3 := hb.count_eq b
    simp only [List.count_append] at h2 h3
    omega

/-! ## Trains of one index -/

theorem trainOf_voidTrainIf (i : RosterIndex) (o : Delivery) (l m : Link) (s : State) :
    trainOf (voidTrainIf i o l s) m =
      if m = l then (trainOf s m).filter fun x => decide (x.index ≠ i) else trainOf s m := by
  cases hx : trainOf s l with
  | none =>
    rw [voidTrainIf_of_apart fun x h => by rw [hx] at h; cases h]
    split
    · next h => rw [h, hx]; rfl
    · rfl
  | some x =>
    by_cases hi : x.index = i
    · rw [voidTrainIf_of_index hx hi, trainOf_voidTrain]
      split
      · next h => rw [h, hx, Option.filter_some, if_neg (by simpa using hi)]
      · rfl
    · rw [voidTrainIf_of_apart fun y h => by rw [hx] at h; cases h; exact hi]
      split
      · next h => rw [h, hx, Option.filter_some, if_pos (by simpa using hi)]
      · rfl

theorem trainOf_voidTrainOf (i : RosterIndex) (o : Delivery) (m : Link) (s : State) :
    trainOf (voidTrainOf i o s) m = (trainOf s m).filter fun x => decide (x.index ≠ i) := by
  unfold voidTrainOf
  rw [trainOf_voidTrainIf, trainOf_voidTrainIf]
  cases m <;> rfl

theorem latched_voidTrainIf (i : RosterIndex) (o : Delivery) (l : Link) {s : State} {k : NoticeKind}
    (h : holdsKind s.notices.latched k = true) : holdsKind (voidTrainIf i o l s).notices.latched k = true := by
  unfold voidTrainIf
  split
  · split
    · exact latched_voidTrain _ _ h
    · exact h
  · exact h

theorem fault_voidTrainOf {i : RosterIndex} {s : State} (o : Delivery)
    (h : ∃ (m : Link) (x : Train), trainOf s m = some x ∧ x.index = i) :
    holdsKind (voidTrainOf i o s).notices.latched .trainFault = true := by
  obtain ⟨m, x, hx, hi⟩ := h
  unfold voidTrainOf
  cases m with
  | a =>
    refine latched_voidTrainIf i o .b ?_
    rw [voidTrainIf_of_index hx hi]
    exact fault_voidTrain hx _
  | b =>
    have hx' : trainOf (voidTrainIf i o .a s) .b = some x := by
      rw [trainOf_voidTrainIf]
      exact hx
    rw [voidTrainIf_of_index hx' hi]
    exact fault_voidTrain hx' _

theorem voidTrainOf_only (i : RosterIndex) (o : Delivery) (s : State) : voidTrainOf i o s =
    { s with
      intake := (voidTrainOf i o s).intake
      store := { (voidTrainOf i o s).store with bytes := s.store.bytes, arrival := s.store.arrival }
      ports := (voidTrainOf i o s).ports
      notices := (voidTrainOf i o s).notices } := by
  have h1 := voidTrainIf_only i o .a s
  have h2 := voidTrainIf_only i o .b (voidTrainIf i o .a s)
  unfold voidTrainOf
  generalize voidTrainIf i o .b (voidTrainIf i o .a s) = u at h2 ⊢
  generalize voidTrainIf i o .a s = v at h1 h2
  rw [h2, h1]

theorem tileOnly_freeIncoming (i : RosterIndex) (s : State) : TileOnly s (freeIncoming i s) := by
  unfold freeIncoming
  split <;> rfl

theorem tileOnly_dropIncoming (i : RosterIndex) (o : Delivery) (s : State) :
    TileOnly (voidTrainOf i o s) (dropIncoming i o s) := tileOnly_freeIncoming i _

theorem arrival_dropIncoming (i : RosterIndex) (o : Delivery) (s : State) :
    (dropIncoming i o s).store.arrival = s.store.arrival := by
  unfold dropIncoming
  rw [freeIncoming_only, voidTrainOf_only]

/-! ## A held version that is not locked -/

/-- The held version of an entry is freed where no lock is on it. -/
def freeUnlocked (i : RosterIndex) (s : State) : State :=
  if (entryOf s i).held.any fun h => decide (h.lock = 0) then freeHeld i s else s

/-- Both versions of an entry leave, but a locked held one stays. -/
theorem withholdEntry_eq (i : RosterIndex) (s : State) :
    withholdEntry i s = freeUnlocked i (dropIncoming i .withheld s) := by
  unfold withholdEntry freeUnlocked
  dsimp only
  cases (entryOf (dropIncoming i .withheld s) i).held with
  | none => rfl
  | some h => simp only [Option.any_some, decide_eq_true_eq]

theorem purgeEntry_eq (i : RosterIndex) (s : State) : purgeEntry i s = freeUnlocked i (freeIncoming i s) := by
  unfold purgeEntry freeUnlocked
  dsimp only
  cases (entryOf (freeIncoming i s) i).held with
  | none => rfl
  | some h => simp only [Option.any_some, decide_eq_true_eq]

theorem tileOnly_freeUnlocked (i : RosterIndex) (s : State) : TileOnly s (freeUnlocked i s) := by
  unfold freeUnlocked
  split
  · exact tileOnly_freeHeld i s
  · exact .refl s

theorem blocksMove_freeUnlocked (i : RosterIndex) (s : State) : BlocksMove s (freeUnlocked i s) := by
  unfold freeUnlocked
  split
  · exact blocksMove_freeHeld i s
  · exact .refl s

theorem arrival_freeUnlocked (i : RosterIndex) (s : State) : (freeUnlocked i s).store.arrival =
    s.store.arrival.filter fun j =>
      !(decide (j = i) && (entryOf s i).held.any fun h => decide (h.lock = 0)) := by
  unfold freeUnlocked
  split
  · next h =>
    have hs : (entryOf s i).held.isSome = true := by
      cases hh : (entryOf s i).held with
      | none => rw [hh] at h; cases h
      | some x => rfl
    rw [arrival_freeHeld, hs, h]
  · next h =>
    rw [Bool.not_eq_true] at h
    rw [h]
    simp

theorem entryOf_freeUnlocked (i j : RosterIndex) (s : State) : entryOf (freeUnlocked i s) j =
    if j = i then { entryOf s i with held := (entryOf s i).held.filter fun h => decide (h.lock ≠ 0) }
    else entryOf s j := by
  have hsame : { entryOf s i with held := (entryOf s i).held } = entryOf s i := rfl
  unfold freeUnlocked
  cases hh : (entryOf s i).held with
  | none =>
    rw [Option.filter_none, ← hh, hsame, hh, if_neg (by simp)]
    split
    · next h => rw [h]
    · rfl
  | some x =>
    by_cases hx : x.lock = 0
    · have hf : (some x).filter (fun h => decide (h.lock ≠ 0)) = none := by simp [hx]
      rw [hf, if_pos (by simpa using hx), (freeHeld_frame i j s).2]
    · have hf : (some x).filter (fun h => decide (h.lock ≠ 0)) = some x := by simp [hx]
      rw [hf, if_neg (by simpa using hx), ← hh, hsame]
      split
      · next h => rw [h]
      · rfl

end Sys2Proof.Machine
end

section
/-!
WITHHOLD and RELEASE: the student's flag, what leaves the store, and the mark on the impression in progress (chapter 1.3).
-/

namespace Sys2Proof.Machine

/-! ## The mark on the impression -/

theorem markWithheldPending_only (i : RosterIndex) (s : State) : markWithheldPending i s =
    { s with scheduler := (markWithheldPending i s).scheduler } := by
  unfold markWithheldPending
  split
  · rfl
  · split <;> rfl

/-- The order that prints has decided the student's seat: the impression is marked where the seat is PLACED. -/
theorem scheduler_markWithheldPending {i : RosterIndex} {s : State} {c : Impression} {o : Order} {rest : List Order}
    {p : Plan} {n : Nat} {x : Seat} {e : SeatEntry} (hc : s.scheduler.impression = some c)
    (hq : s.scheduler.queue = o :: rest) (ho : o.state = .active ∨ o.state = .ending) (hp : planOf s o.plan = some p)
    (hx : p.seats[n]? = some x) (hi : x.index = i)
    (hu : ∀ (m : Nat) (y : Seat), p.seats[m]? = some y → y.index = i → m = n) (he : o.decisions[n]? = some e) :
    (markWithheldPending i s).scheduler =
      if e.decision = .placed then { s.scheduler with impression := some { c with withholdPending := true } }
      else s.scheduler := by
  have hprint : printingOrder s = some o := by
    unfold printingOrder
    rw [hq]
    exact if_pos ho
  have hseat : seatOfIndex p i = some n :=
    (seatOfIndex_iff p i n).2 ⟨x, hx, hi, fun m y hm hy hyi => absurd (hu m y hy hyi) hm.ne⟩
  have hdec : decisionFor s o i = some (n, e.decision) := by
    unfold decisionFor
    rw [hp]
    dsimp only
    rw [hseat]
    dsimp only
    rw [he]
    rfl
  unfold markWithheldPending
  rw [hprint]
  dsimp only
  rw [hdec]
  cases e.decision
  case placed =>
    rw [if_pos rfl]
    unfold modImpression
    dsimp only
    rw [hc]
    rfl
  all_goals rfl

/-! ## What leaves the store -/

theorem blocks_withheld (e : DirEntry) : (entryBlocks e).Perm
    (entryBlocks { held := e.held.filter fun h => decide (h.lock = 0), incoming := e.incoming }
      ++ entryBlocks (withheldEntry e)) := by
  obtain ⟨_ | h, v⟩ := e
  · simp [entryBlocks, withheldEntry]
  · unfold withheldEntry entryBlocks
    dsimp only
    by_cases hl : h.lock = 0
    · have hfree : (some h).filter (fun h => decide (h.lock = 0)) = some h := by simp [hl]
      have hkept : (some h).filter (fun h => decide (h.lock ≠ 0)) = none := by simp [hl]
      rw [hfree, hkept]
      simp
    · have hfree : (some h).filter (fun h => decide (h.lock = 0)) = none := by simp [hl]
      have hkept : (some h).filter (fun h => decide (h.lock ≠ 0)) = some h := by simp [hl]
      rw [hfree, hkept]
      simpa using List.perm_append_comm

theorem tileOnly_withholdEntry (i : RosterIndex) (s : State) :
    TileOnly (voidTrainOf i .withheld s) (withholdEntry i s) := by
  rw [withholdEntry_eq]
  exact (tileOnly_dropIncoming i .withheld s).trans (tileOnly_freeUnlocked i _)

theorem blocksMove_withholdEntry (i : RosterIndex) (s : State) : BlocksMove s (withholdEntry i s) := by
  rw [withholdEntry_eq]
  exact (blocksMove_dropIncoming i .withheld s).trans (blocksMove_freeUnlocked i _)

theorem arrival_withholdEntry (i : RosterIndex) (s : State) : (withholdEntry i s).store.arrival =
    s.store.arrival.filter fun j => !(decide (j = i) && (entryOf s i).held.any fun h => decide (h.lock = 0)) := by
  have hh : (entryOf (dropIncoming i .withheld s) i).held = (entryOf s i).held := by
    rw [(dropIncoming_frame i i .withheld s).2, if_pos rfl]
  rw [withholdEntry_eq, arrival_freeUnlocked, arrival_dropIncoming, hh]

/-- The free blocks are not in the flag that stands in the roster. -/
theorem blocksReturn_withholdEntry (i : RosterIndex) (s : State) :
    BlocksReturn
      (entryBlocks
        { held := (entryOf s i).held.filter fun h => decide (h.lock = 0), incoming := (entryOf s i).incoming })
      s (withholdEntry i s) := by
  refine (blocksMove_withholdEntry i s).returns (i := i) (fun j hj => ?_) ?_
  · rw [(withholdEntry_frame i j s).2, if_neg hj]
  · rw [(withholdEntry_frame i i s).2, if_pos rfl]
    exact blocks_withheld _

/-! ## The obligation -/

theorem withhold_taken {s : State} {l : Link} {w : Wire} {i : RosterIndex} (h : Asked s l .withhold w)
    (hi : be16 w.payload 0 = i.val) :
    ∃ t, exec (.withhold l w) s = .next t
      ∧ Concluded l 17 w .taken [] false (withholdIndex i (supersede l s)) t := by
  refine control_taken h ?_
  show withholdRule w.payload _ = _
  unfold withholdRule
  rw [indexArgument_of_eq hi]

theorem index_refused {s : State} {l : Link} {c : Control} {w : Wire} (h : Asked s l c w)
    (hi : 1024 ≤ be16 w.payload 0) (hc : c = .withhold ∨ c = .release ∨ c = .dropTile) :
    ∃ t, exec (controlCommand c l w) s = .next t
      ∧ Concluded l (controlCode c) w .badArgument [] false (supersede l s) t := by
  have hn := indexArgument_of_le hi
  rcases hc with rfl | rfl | rfl
  · refine control_refused h ?_
    show withholdRule w.payload _ = _
    unfold withholdRule
    rw [hn]
  · refine control_refused h ?_
    show releaseRule w.payload _ = _
    unfold releaseRule
    rw [hn]
  · refine control_refused h ?_
    show dropTileRule w.payload _ = _
    unfold dropTileRule
    rw [hn]

/-- Settles O54: `withholdEntry` on the state with the flag set, then the mark; RELEASE by its rule. -/
theorem withholdAndReleaseAct : Obligations.WithholdAndReleaseAct := by
  intro s l w
  refine ⟨fun h => ⟨fun hbig => index_refused h hbig (.inl rfl), fun i hi => ?_⟩,
    fun h => ⟨fun hbig => index_refused h hbig (.inr (.inl rfl)), fun i hi => ?_⟩⟩
  · obtain ⟨t, ht, hc⟩ := withhold_taken h hi
    obtain ⟨f, hf⟩ : ∃ f, f = flagged true i (supersede l s) := ⟨_, rfl⟩
    obtain ⟨u, hu⟩ : ∃ u, u = withholdEntry i f := ⟨_, rfl⟩
    have hwi : withholdIndex i (supersede l s) = markWithheldPending i u := by rw [hu, hf]; rfl
    rw [hwi] at hc
    have hset : setRecord i { recordOf s i with withheld := true } (supersede l s) = f := by
      rw [hf]
      unfold flagged
      rw [recordOf_supersede]
    have hfent : ∀ j, entryOf f j = entryOf s j := fun j => by
      rw [hf]
      exact entryOf_supersede l j s
    have hfrec : ∀ j, recordOf f j = if j = i then { recordOf s i with withheld := true } else recordOf s j := fun j => by
      rw [hf, recordOf_flagged, recordOf_supersede, recordOf_supersede]
    have hfstore : f.store = s.store := by rw [hf]; exact supersede_store l s
    have hftrain : ∀ m, trainOf f m = trainOf s m := fun m => by rw [hf]; exact trainOf_supersede l m s
    have hvoid := voidTrainOf_only i .withheld f
    have htile := tileOnly_withholdEntry i f
    rw [← hu] at htile
    have hmark := markWithheldPending_only i u
    have huent : ∀ j, entryOf (markWithheldPending i u) j = if j = i then withheldEntry (entryOf s i) else entryOf s j :=
      fun j => by
        rw [hmark, ← hfent i, ← hfent j, hu]
        exact (withholdEntry_frame i j f).2
    have hurec : ∀ j, recordOf (markWithheldPending i u) j =
        if j = i then { recordOf s i with withheld := true } else recordOf s j := fun j => by
      rw [hmark, ← hfrec j, hu]
      exact (withholdEntry_frame i j f).1
    have hutrain : ∀ m, trainOf (markWithheldPending i u) m = (trainOf s m).filter fun x => decide (x.index ≠ i) :=
      fun m => by
        rw [hmark, ← hftrain m, ← trainOf_voidTrainOf i .withheld m f]
        show trainOf u m = _
        rw [htile]
        rfl
    have huarr : (markWithheldPending i u).store.arrival = s.store.arrival.filter fun j =>
        !(decide (j = i) && (entryOf s i).held.any fun h => decide (h.lock = 0)) := by
      rw [hmark, ← hfstore, ← hfent i, hu]
      exact arrival_withholdEntry i f
    have hblocks := blocksReturn_withholdEntry i f
    rw [← hu, hfent] at hblocks
    refine ⟨voidTrainIf i .withheld .a f, voidTrainOf i .withheld f, _, t, ht, hc, ?_, voidTrainIf_gone i .withheld .b _,
      ?_, ?_, ?_, fun j hj => ⟨?_, ?_⟩, ?_, fun hn => ⟨?_, ?_⟩, fun x hx => ⟨?_, ?_⟩, fun m x hx => ?_, fun hx => ?_,
      fun c o rest p n x e hc' hq ho hp hx hxi huniq he => ?_, ?_, ?_, ?_, ?_, ?_⟩
    · rw [hset]
      exact voidTrainIf_gone i .withheld .a f
    · unfold BlocksReturn at hblocks ⊢
      rw [hmark, ← hfstore]
      exact hblocks
    · have hbytes : (voidTrainOf i .withheld f).store.bytes = s.store.bytes := by rw [hvoid, hfstore]
      rw [hmark]
      generalize (markWithheldPending i u).scheduler = marked
      unfold TileOnly at htile
      conv_lhs => rw [htile]
      rw [hbytes]
    · rw [hurec, if_pos rfl]
    · rw [hurec, if_neg hj]
    · rw [huent, if_neg hj]
    · rw [huent, if_pos rfl]
      rfl
    · rw [huent, if_pos rfl, withheldEntry, hn]
      rfl
    · rw [huarr, hn]
      simp
    · rw [huent, if_pos rfl, withheldEntry, hx, Option.filter_some]
      by_cases hl : x.lock = 0 <;> simp [hl]
    · rw [huarr, hx, Option.any_some]
      by_cases hl : x.lock = 0 <;> simp [hl]
    · rw [hutrain, hx, Option.filter_some]
      by_cases hi : x.index = i <;> simp [hi]
    · rw [hmark]
      show holdsKind u.notices.latched .trainFault = true
      rw [htile]
      refine fault_voidTrainOf .withheld ?_
      obtain ⟨m, x, hm, hxi⟩ := hx
      exact ⟨m, x, by rw [hftrain]; exact hm, hxi⟩
    · have husch : u.scheduler = s.scheduler := by
        rw [htile, hvoid, hf]
        exact supersede_scheduler l s
      have huplan : planOf u o.plan = some p := by
        have hplans : u.tables.plans = s.tables.plans := by
          rw [htile, hvoid, hf]
          show (supersede l s).tables.plans = _
          rw [supersede_tables]
        rw [← hp]
        unfold planOf
        rw [hplans]
      rw [scheduler_markWithheldPending (by rw [husch]; exact hc') (by rw [husch]; exact hq) ho huplan hx hxi huniq he,
        husch]
    · rw [hmark]
      show u.store.bytes = _
      rw [htile, hvoid, hfstore]
    · rw [hmark]
      show u.press = _
      rw [htile, hvoid, hf]
      exact supersede_press l s
    · rw [hmark]
      show u.renderer = _
      rw [htile, hvoid, hf]
      exact supersede_renderer l s
    · rw [hmark]
      show u.seats = _
      rw [htile, hvoid, hf]
      exact supersede_seats l s
    · rw [hmark]
      show u.tables = { s.tables with roster := u.tables.roster }
      rw [htile, hvoid, hf, ← supersede_tables l s]
      rfl
  · refine control_taken h ?_
    show releaseRule w.payload _ = _
    unfold releaseRule
    rw [indexArgument_of_eq hi]
    dsimp only
    unfold releaseIndex
    rw [recordOf_supersede]

end Sys2Proof.Machine
end

section
/-!
DROP TILE and PURGE STORE: the versions that leave the directory with their trains (chapter 2.6).
-/

namespace Sys2Proof.Machine

/-! ## One entry cleared -/

theorem tileOnly_clearEntry (i : RosterIndex) (s : State) :
    TileOnly (voidTrainOf i .abandoned s) (clearEntry i s) :=
  (tileOnly_dropIncoming i .abandoned s).trans (tileOnly_freeHeld i _)

theorem blocksReturn_clearEntry (i : RosterIndex) (s : State) :
    BlocksReturn (entryBlocks (entryOf s i)) s (clearEntry i s) := by
  have hmove : BlocksMove s (clearEntry i s) :=
    (blocksMove_dropIncoming i .abandoned s).trans (blocksMove_freeHeld i _)
  refine hmove.returns (i := i) (fun j hj => ?_) ?_
  · rw [(clearEntry_frame i j s).2, if_neg hj]
  · rw [(clearEntry_frame i i s).2, if_pos rfl]
    simp [entryBlocks]

theorem arrival_clearEntry (i : RosterIndex) (s : State) : (clearEntry i s).store.arrival =
    if (entryOf s i).held = none then s.store.arrival else s.store.arrival.filter fun j => decide (j ≠ i) := by
  have hh : (entryOf (dropIncoming i .abandoned s) i).held = (entryOf s i).held := by
    rw [(dropIncoming_frame i i .abandoned s).2, if_pos rfl]
  unfold clearEntry
  rw [arrival_freeHeld, arrival_dropIncoming, hh]
  cases (entryOf s i).held <;> simp

theorem isLocked_iff (i : RosterIndex) (s : State) :
    isLocked i s = true ↔ ∃ h, (entryOf s i).held = some h ∧ 0 < h.lock := by
  unfold isLocked
  cases (entryOf s i).held <;> simp

/-! ## Every entry purged -/

theorem entryOf_purgeEntry (i j : RosterIndex) (s : State) :
    entryOf (purgeEntry i s) j = if j = i then withheldEntry (entryOf s i) else entryOf s j := by
  rw [purgeEntry_eq, entryOf_freeUnlocked, (freeIncoming_frame i i s).2, (freeIncoming_frame i j s).2, if_pos rfl]
  split <;> rfl

theorem arrival_purgeEntry (i : RosterIndex) (s : State) : (purgeEntry i s).store.arrival =
    s.store.arrival.filter fun j => !(decide (j = i) && (entryOf s i).held.any fun h => decide (h.lock = 0)) := by
  rw [purgeEntry_eq, arrival_freeUnlocked, (freeIncoming_frame i i s).2, if_pos rfl, freeIncoming_only]

theorem tileOnly_purgeEntry (i : RosterIndex) (s : State) : TileOnly s (purgeEntry i s) := by
  rw [purgeEntry_eq]
  exact (tileOnly_freeIncoming i s).trans (tileOnly_freeUnlocked i _)

theorem blocksMove_purgeEntry (i : RosterIndex) (s : State) : BlocksMove s (purgeEntry i s) := by
  rw [purgeEntry_eq]
  exact (blocksMove_freeIncoming i s).trans (blocksMove_freeUnlocked i _)

theorem withheldEntry_withheldEntry (e : DirEntry) : withheldEntry (withheldEntry e) = withheldEntry e := by
  simp [withheldEntry, Option.filter_filter]

theorem any_held_withheldEntry (e : DirEntry) :
    ((withheldEntry e).held.any fun h => decide (h.lock = 0)) = false := by
  simp [withheldEntry, Option.any_filter]

theorem entryOf_purgeEntries (j : RosterIndex) : ∀ (is : List RosterIndex) (s : State),
    entryOf (is.foldl (fun s i => purgeEntry i s) s) j =
      if j ∈ is then withheldEntry (entryOf s j) else entryOf s j
  | [], s => by simp
  | i :: is, s => by
    rw [List.foldl_cons, entryOf_purgeEntries j is, entryOf_purgeEntry]
    by_cases hj : j = i
    · subst hj
      simp [withheldEntry_withheldEntry]
    · simp [hj]

theorem arrival_purgeEntries : ∀ (is : List RosterIndex) (s : State),
    (is.foldl (fun s i => purgeEntry i s) s).store.arrival = s.store.arrival.filter fun j =>
      !(decide (j ∈ is) && (entryOf s j).held.any fun h => decide (h.lock = 0))
  | [], s => by simp
  | i :: is, s => by
    rw [List.foldl_cons, arrival_purgeEntries is, arrival_purgeEntry, List.filter_filter]
    refine List.filter_congr fun j _ => ?_
    rw [entryOf_purgeEntry]
    by_cases hj : j = i
    · subst hj
      simp [any_held_withheldEntry]
    · simp [hj]

theorem held_voidTrain (l : Link) (o : Option Delivery) (i : RosterIndex) (s : State) :
    (entryOf (voidTrain l o s) i).held = (entryOf s i).held := by
  cases hx : trainOf s l with
  | none => rw [voidTrain_of_idle hx]
  | some x =>
    rw [entryOf_voidTrain hx]
    split <;> rfl

/-! ## The obligation -/

/-- Settles O55: `clearEntry` for the one entry, and PURGE STORE as the fold of `purgeEntry` behind the voided trains. -/
theorem dropAndPurgeFreeVersions : Obligations.DropAndPurgeFreeVersions := by
  intro s l w
  refine ⟨fun h => ⟨fun hbig => index_refused h hbig (.inr (.inr rfl)), fun i hi => ⟨fun x hx hlock => ?_, fun hun => ?_⟩⟩,
    fun h => ?_⟩
  · refine control_refused h ?_
    show dropTileRule w.payload _ = _
    unfold dropTileRule
    rw [indexArgument_of_eq hi]
    exact if_pos ((isLocked_iff i _).2 ⟨x, by rw [entryOf_supersede]; exact hx, hlock⟩)
  · have hrule : dropTileRule w.payload (supersede l s) = .take (clearEntry i (supersede l s)) [] false := by
      unfold dropTileRule
      rw [indexArgument_of_eq hi]
      refine if_neg fun hl => ?_
      obtain ⟨x, hx, hlock⟩ := (isLocked_iff i _).1 hl
      rw [entryOf_supersede] at hx
      exact hlock.ne' (hun x hx)
    obtain ⟨t, ht, hc⟩ := control_taken h (show controlRule .dropTile l w.payload _ = _ from hrule)
    obtain ⟨f, hf⟩ : ∃ f, f = supersede l s := ⟨_, rfl⟩
    obtain ⟨u, hu⟩ : ∃ u, u = clearEntry i f := ⟨_, rfl⟩
    have hfent : ∀ j, entryOf f j = entryOf s j := fun j => by rw [hf]; exact entryOf_supersede l j s
    have hfstore : f.store = s.store := by rw [hf]; exact supersede_store l s
    have hftrain : ∀ m, trainOf f m = trainOf s m := fun m => by rw [hf]; exact trainOf_supersede l m s
    rw [← hf, ← hu] at hc
    have hvoid := voidTrainOf_only i .abandoned f
    have htile := tileOnly_clearEntry i f
    rw [← hu] at htile
    unfold TileOnly at htile
    have hbytes : (voidTrainOf i .abandoned f).store.bytes = s.store.bytes := by rw [hvoid, hfstore]
    have huent := fun j => (clearEntry_frame i j f).2
    rw [← hu] at huent
    have hblocks := blocksReturn_clearEntry i f
    rw [← hu, hfent] at hblocks
    have harr := arrival_clearEntry i f
    rw [← hu, hfent, hfstore] at harr
    have hutrain : ∀ m, trainOf u m = (trainOf s m).filter fun x => decide (x.index ≠ i) := fun m => by
      rw [← hftrain m, ← trainOf_voidTrainOf i .abandoned m f, htile]
      rfl
    refine ⟨voidTrainIf i .abandoned .a f, voidTrainOf i .abandoned f, u, t, ht, hc, ?_, voidTrainIf_gone i .abandoned .b _,
      ?_, harr, ?_, ?_, fun j hj => ?_, fun m x hx => ?_, fun hx => ?_, ?_, ?_, ?_, ?_, ?_, ?_⟩
    · rw [← hf]
      exact voidTrainIf_gone i .abandoned .a f
    · unfold BlocksReturn at hblocks ⊢
      rw [← hfstore]
      exact hblocks
    · rw [← hbytes]
      exact htile
    · rw [huent, if_pos rfl]
    · rw [huent, if_neg hj, hfent]
    · rw [hutrain, hx, Option.filter_some]
      by_cases hi : x.index = i <;> simp [hi]
    · rw [htile]
      refine fault_voidTrainOf .abandoned ?_
      obtain ⟨m, x, hm, hxi⟩ := hx
      exact ⟨m, x, by rw [hftrain]; exact hm, hxi⟩
    · rw [htile, hvoid, hf]
      exact supersede_tables l s
    · rw [htile, hvoid, hf]
      exact supersede_scheduler l s
    · rw [htile, hvoid, hfstore]
    · rw [htile, hvoid, hf]
      exact supersede_press l s
    · rw [htile, hvoid, hf]
      exact supersede_renderer l s
    · rw [htile, hvoid, hf]
      exact supersede_seats l s
  · obtain ⟨t, ht, hc⟩ := control_taken h (show controlRule .purgeStore l w.payload _ = .take (purgeStore (supersede l s)) [] false from rfl)
    obtain ⟨f, hf⟩ : ∃ f, f = supersede l s := ⟨_, rfl⟩
    obtain ⟨a, ha⟩ : ∃ a, a = voidTrain .a (some .abandoned) f := ⟨_, rfl⟩
    obtain ⟨b, hb⟩ : ∃ b, b = voidTrain .b (some .abandoned) a := ⟨_, rfl⟩
    obtain ⟨u, hu⟩ : ∃ u, u = (List.finRange 1024).foldl (fun s i => purgeEntry i s) b := ⟨_, rfl⟩
    have hpurge : purgeStore (supersede l s) = u := by rw [hu, hb, ha, hf]; rfl
    rw [hpurge] at hc
    have hfent : ∀ j, entryOf f j = entryOf s j := fun j => by rw [hf]; exact entryOf_supersede l j s
    have hfstore : f.store = s.store := by rw [hf]; exact supersede_store l s
    have hftrain : ∀ m, trainOf f m = trainOf s m := fun m => by rw [hf]; exact trainOf_supersede l m s
    have haonly := voidTrain_only .a (some .abandoned) f
    rw [← ha] at haonly
    have hbonly := voidTrain_only .b (some .abandoned) a
    rw [← hb] at hbonly
    have htile : TileOnly b u := by
      rw [hu]
      exact TileOnly.foldl (fun s i => tileOnly_purgeEntry i s) _ b
    unfold TileOnly at htile
    have hbytes : b.store.bytes = s.store.bytes := by rw [hbonly, haonly, hfstore]
    have hheld : ∀ i, (entryOf b i).held = (entryOf s i).held := fun i => by
      rw [hb, held_voidTrain, ha, held_voidTrain, hfent]
    have hent : ∀ i, entryOf u i = withheldEntry (entryOf b i) := fun i => by
      rw [hu, entryOf_purgeEntries, if_pos (List.mem_finRange i)]
    have hmove : BlocksMove f u := by
      refine ((blocksMove_voidTrain .a (some .abandoned) f).trans
        (blocksMove_voidTrain .b (some .abandoned) _)).trans ?_
      rw [← ha, ← hb, hu]
      exact BlocksMove.foldl (fun s i => blocksMove_purgeEntry i s) _ b
    refine ⟨a, b, u, t, ht, hc, ?_, ?_, ?_, ?_, ?_, fun i => ⟨?_, fun hn => ?_, fun x hx => ?_⟩, fun m => ?_, fun hx => ?_,
      ?_, ?_, ?_, ?_, ?_, ?_⟩
    · rw [ha, hf]
      exact voidTrain_gone .abandoned .a _
    · rw [hb]
      exact voidTrain_gone .abandoned .b a
    · refine BlocksMove.trans (.same ?_ ?_ ?_) hmove
      · rw [hf, supersede_intake]
      · rw [hfstore]
      · rw [hfstore]
    · have harr : b.store.arrival = s.store.arrival := by rw [hbonly, haonly, hfstore]
      rw [hu, arrival_purgeEntries, harr]
      refine List.filter_congr fun i _ => ?_
      rw [hheld]
      cases (entryOf s i).held with
      | none => simp
      | some x => simp [Nat.pos_iff_ne_zero]
    · rw [← hbytes]
      exact htile
    · rw [hent]
      rfl
    · rw [hent, withheldEntry, hheld, hn]
      rfl
    · rw [hent, withheldEntry, hheld, hx, Option.filter_some]
      by_cases hl : x.lock = 0 <;> simp [hl]
    · have hgone : trainOf b m = none := by
        rw [hb, trainOf_voidTrain, ha, trainOf_voidTrain]
        cases m <;> rfl
      rw [htile]
      exact hgone
    · rw [htile]
      show holdsKind b.notices.latched .trainFault = true
      obtain ⟨m, x, hx⟩ := hx
      rw [← hftrain] at hx
      cases m with
      | a =>
        rw [hb]
        refine latched_voidTrain _ _ ?_
        rw [ha]
        exact fault_voidTrain hx _
      | b =>
        rw [hb]
        refine fault_voidTrain (x := x) ?_ _
        rw [ha, trainOf_voidTrain]
        exact hx
    · rw [htile, hbonly, haonly, hf]
      exact supersede_tables l s
    · rw [htile, hbonly, haonly, hf]
      exact supersede_scheduler l s
    · rw [htile, hbonly, haonly, hfstore]
    · rw [htile, hbonly, haonly, hf]
      exact supersede_press l s
    · rw [htile, hbonly, haonly, hf]
      exact supersede_renderer l s
    · rw [htile, hbonly, haonly, hf]
      exact supersede_seats l s

end Sys2Proof.Machine
end

section
/-!
The table-loading controls open the staging of their link (chapters 1.2 to 1.4, 7.1 and 10.5).
-/

namespace Sys2Proof.Machine

theorem trainOnSession_iff (s : State) (n : Fin 16) (l : Link) : trainOnSession s n l = true ↔
    ∃ (x : Train) (v : Incoming), trainOf s l = some x ∧ (entryOf s x.index).incoming = some v
      ∧ v.version.session = n := by
  unfold trainOnSession
  cases trainOf s l with
  | none => simp
  | some x => cases hv : (entryOf s x.index).incoming <;> simp [hv]

theorem sessionBusy_iff (s : State) (n : Fin 16) : sessionBusy s n = true ↔
    ∃ (m : Link) (x : Train) (v : Incoming), trainOf s m = some x ∧ (entryOf s x.index).incoming = some v
      ∧ v.version.session = n := by
  unfold sessionBusy
  rw [Bool.or_eq_true, trainOnSession_iff, trainOnSession_iff]
  refine ⟨fun h => h.elim (fun h => ⟨.a, h⟩) fun h => ⟨.b, h⟩, ?_⟩
  rintro ⟨_ | _, h⟩
  · exact .inl h
  · exact .inr h

theorem sessionBusy_supersede (l : Link) (s : State) (n : Fin 16) : sessionBusy (supersede l s) n = sessionBusy s n := by
  unfold sessionBusy trainOnSession
  simp only [trainOf_supersede, entryOf_supersede]

theorem planPinned_supersede (l : Link) (s : State) (id : Fin 8) : planPinned (supersede l s) id = planPinned s id := by
  unfold planPinned
  rw [supersede_scheduler]

theorem loadPlanRule_some {p : List Byte} {id : Fin 8} (s : State) (h : byteAt p 0 = id.val) :
    loadPlanRule p s = if planPinned s id then .refuse .pinned else .stage (.plan id) := by
  unfold loadPlanRule
  rw [planArgument_eq_some h]

theorem loadPlanRule_none {p : List Byte} (s : State) (h : 7 < byteAt p 0) :
    loadPlanRule p s = .refuse .badArgument := by
  unfold loadPlanRule
  rw [planArgument_eq_none h]

theorem loadToneRule_some {p : List Byte} {n : Fin 16} (s : State) (h : byteAt p 0 = n.val) :
    loadToneRule p s = if sessionBusy s n then .refuse .busySession else .stage (.tone n) := by
  unfold loadToneRule
  rw [sessionNumber_of_eq h]

theorem loadToneRule_none {p : List Byte} (s : State) (h : 15 < byteAt p 0) :
    loadToneRule p s = .refuse .badArgument := by
  unfold loadToneRule
  rw [sessionNumber_of_le h]

/-- Settles O57: each loading control's rule, refused or staged. -/
theorem loadsOpenStaging : Obligations.LoadsOpenStaging := by
  intro s l w opens refused
  refine ⟨fun h => ⟨fun hbig => ?_, fun id hid => ⟨fun hpin => ?_, fun hfree => ?_⟩⟩,
    fun h => ⟨fun hbad => ?_, fun hok => ?_⟩,
    fun h => ⟨fun hbig => ?_, fun n hn => ⟨fun hbusy => ?_, fun hfree => ?_⟩⟩, fun h => ?_⟩
  · exact control_refused h (loadPlanRule_none _ hbig)
  · refine control_refused h ((loadPlanRule_some _ hid).trans (if_pos ?_))
    rw [planPinned_supersede]
    exact (planPinned_iff s id).2 hpin
  · refine control_staged h ((loadPlanRule_some _ hid).trans (if_neg ?_))
    rw [planPinned_supersede, planPinned_iff]
    rintro ⟨o, ho, hp⟩
    exact hfree o ho hp
  · exact control_refused h (if_pos hbad)
  · refine control_staged h (if_neg ?_)
    rintro (h1 | h1 | h1 | h1) <;> omega
  · exact control_refused h (loadToneRule_none _ hbig)
  · refine control_refused h ((loadToneRule_some _ hn).trans (if_pos ?_))
    rw [sessionBusy_supersede]
    exact (sessionBusy_iff s n).2 hbusy
  · refine control_staged h ((loadToneRule_some _ hn).trans (if_neg ?_))
    rw [sessionBusy_supersede, sessionBusy_iff]
    exact hfree
  · exact control_staged h rfl

end Sys2Proof.Machine
end

section
/-!
What a roster load does to the trains: which trains are lost, their records, and the latch (chapters 1.3, 2.4 and 2.7).
-/

namespace Sys2Proof.Machine

/-! ## Trains that are lost -/

/-- A record whose train was voided ABANDONED (R38, R50). -/
def abandonedRecord (m : Mark) (rows : Nat) (r : DeliveryRecord) : DeliveryRecord :=
  { r with
    closed := true, closeMark := some m, rows := rows, outcome := some .abandoned, late := false, called := false }

/-- Between two states the open trains that `p` names are lost, voided ABANDONED, and no other train, record or kind
changes. -/
structure Loses (p : Link → RosterIndex → Bool) (s t : State) : Prop where
  train : ∀ m, trainOf t m = (trainOf s m).filter fun x => !p m x.index
  fault : ∀ m x, trainOf s m = some x → p m x.index = true → holdsKind t.notices.latched .trainFault = true
  keepsFault : holdsKind s.notices.latched .trainFault = true → holdsKind t.notices.latched .trainFault = true
  kinds : ∀ k, k ≠ .trainFault → holdsKind t.notices.latched k = holdsKind s.notices.latched k
  port : ∀ m, portOf t m = { portOf s m with notice := (portOf t m).notice }
  calm : (∀ m x, trainOf s m = some x → p m x.index = false) → t.notices = s.notices ∧ t.ports = s.ports
  log : ∀ q : Fin 256,
    (∀ m x, trainOf s m = some x → p m x.index = true →
      logSlot x.record ≠ q ∨ ∀ r, s.intake.log[q] = some r → r.sequence ≠ x.record) →
    t.intake.log[q] = s.intake.log[q]
  record : ∀ m x v r, trainOf s m = some x → p m x.index = true → (entryOf s x.index).incoming = some v →
    s.intake.log[logSlot x.record] = some r → r.sequence = x.record →
    (∀ y, trainOf s m.other = some y → y.index ≠ x.index ∧ y.record ≠ x.record) →
    t.intake.log[logSlot x.record] = some (abandonedRecord s.timeMark v.version.rows r)
  timeMark : t.timeMark = s.timeMark

theorem Loses.same {s t : State} (hi : t.intake.trains = s.intake.trains) (hl : t.intake.log = s.intake.log)
    (hn : t.notices = s.notices) (hp : t.ports = s.ports) (hm : t.timeMark = s.timeMark) :
    Loses (fun _ _ => false) s t where
  train m := by
    unfold trainOf
    rw [hi]
    cases s.intake.trains.get m <;> rfl
  fault _ _ _ h := nomatch h
  keepsFault h := by rwa [hn]
  kinds _ _ := by rw [hn]
  port m := by
    unfold portOf
    rw [hp]
  calm _ := ⟨hn, hp⟩
  log q _ := by rw [hl]
  record _ _ _ _ _ h := nomatch h
  timeMark := hm

theorem eq_other_of_ne {n m : Link} (h : n ≠ m) : n = m.other := by
  cases n <;> cases m
  · exact absurd rfl h
  · rfl
  · rfl
  · exact absurd rfl h

theorem Loses.trans {p q : Link → RosterIndex → Bool} {s t u : State} (h : Loses p s t) (k : Loses q t u)
    (hin : ∀ m x, trainOf s m = some x → p m x.index = false → q m x.index = true →
      (∀ y, trainOf s m.other = some y → y.index ≠ x.index) →
      (entryOf t x.index).incoming = (entryOf s x.index).incoming) :
    Loses (fun m i => p m i || q m i) s u := by
  have hkept : ∀ {m x}, trainOf s m = some x → p m x.index = false → trainOf t m = some x := fun {m x} hx hp => by
    rw [h.train, hx]
    exact if_pos (by simp [hp])
  have hback : ∀ {m x}, trainOf t m = some x → trainOf s m = some x ∧ p m x.index = false := fun {m x} hx => by
    rw [h.train, Option.filter_eq_some_iff] at hx
    simpa using hx
  refine ⟨fun m => ?_, fun m x hx hpq => ?_, fun hf => k.keepsFault (h.keepsFault hf),
    fun c hc => (k.kinds c hc).trans (h.kinds c hc), fun m => ?_, fun hno => ?_, fun n hq => ?_,
    fun m x v r hx hpq hv hr hseq hother => ?_, k.timeMark.trans h.timeMark⟩
  · rw [k.train, h.train, Option.filter_filter]
    simp
  · cases hp : p m x.index with
    | true => exact k.keepsFault (h.fault m x hx hp)
    | false =>
      rw [hp, Bool.false_or] at hpq
      exact k.fault m x (hkept hx hp) hpq
  · rw [k.port, h.port]
  · have hno' : ∀ m x, trainOf s m = some x → p m x.index = false ∧ q m x.index = false := fun m x hx => by
      simpa using hno m x hx
    obtain ⟨hn, hp⟩ := h.calm fun m x hx => (hno' m x hx).1
    obtain ⟨hn', hp'⟩ := k.calm fun m x hx => (hno' m x (hback hx).1).2
    exact ⟨hn'.trans hn, hp'.trans hp⟩
  · have hfirst := h.log n fun m x hx hp => hq m x hx (by rw [hp]; rfl)
    rw [k.log n fun m x hx hq' => ?_, hfirst]
    rw [hfirst]
    exact hq m x (hback hx).1 (by rw [hq', Bool.or_true])
  · cases hp : p m x.index with
    | true =>
      have hdone := h.record m x v r hx hp hv hr hseq hother
      rw [k.log _ fun n y hy _ => .inr fun r' hr' => ?_, hdone]
      rw [hdone, Option.some.injEq] at hr'
      subst hr'
      have hne : n ≠ m := by
        rintro rfl
        rw [h.train, hx, Option.filter_some, if_neg (by simp [hp])] at hy
        cases hy
      have hnm := eq_other_of_ne hne
      subst hnm
      exact fun he => (hother y (hback hy).1).2 (he.symm.trans hseq)
    | false =>
      have hx' := hkept hx hp
      rw [hp, Bool.false_or] at hpq
      have hlog : t.intake.log[logSlot x.record] = s.intake.log[logSlot x.record] := by
        refine h.log _ fun n y hy hyp => .inr fun r' hr' => ?_
        rw [hr, Option.some.injEq] at hr'
        subst hr'
        have hne : n ≠ m := by
          rintro rfl
          rw [hx, Option.some.injEq] at hy
          subst hy
          rw [hp] at hyp
          cases hyp
        have hnm := eq_other_of_ne hne
        subst hnm
        exact fun he => (hother y hy).2 (he.symm.trans hseq)
      rw [k.record m x v r hx' hpq ((hin m x hx hp hpq fun y hy => (hother y hy).1).trans hv) (hlog.trans hr) hseq
        fun y hy => hother y (hback hy).1, h.timeMark]

/-! ## One entry -/

theorem notices_latchKind (k : NoticeKind) (s : State) :
    (latchKind k s).notices = { s.notices with latched := (latchKind k s).notices.latched } := by
  unfold latchKind
  split
  · rfl
  · dsimp only
    split
    · unfold sendNotice
      rw [modPort_notices]
    · rfl

theorem incomingRows_some {s : State} {i : RosterIndex} {v : Incoming} (h : (entryOf s i).incoming = some v) :
    incomingRows s i = v.version.rows := by
  unfold incomingRows
  rw [h]

theorem changeRecord_of_ne {n : BitVec 32} {s : State} (f : DeliveryRecord → DeliveryRecord) {q : Fin 256}
    (h : logSlot n ≠ q ∨ ∀ r, s.intake.log[q] = some r → r.sequence ≠ n) :
    (changeRecord n f s).intake.log[q] = s.intake.log[q] := by
  unfold changeRecord
  split
  · next r hr =>
    split
    · next hn =>
      have hne : logSlot n ≠ q := h.elim id fun h he => by
        subst he
        exact absurd hn (h r hr)
      exact Vector.getElem_set_ne (logSlot n).isLt q.isLt fun he => hne (Fin.ext he)
    · rfl
  · rfl

theorem loses_voidTrainIf (i : RosterIndex) (l : Link) (s : State) :
    Loses (fun m j => decide (m = l ∧ j = i)) s (voidTrainIf i .abandoned l s) := by
  by_cases ht : ∃ x, trainOf s l = some x ∧ x.index = i
  · obtain ⟨x, hx, rfl⟩ := ht
    rw [voidTrainIf_of_index hx rfl]
    have hother : ∀ {k}, k ≠ .trainFault → holdsKind (voidTrain l (some .abandoned) s).notices.latched k =
        holdsKind s.notices.latched k := fun hk => by
      rw [voidTrain_some hx, latchKind_other hk, changeRecord_only, setTrain_notices, freeIncoming_only]
    have hlog : ∀ q : Fin 256, (logSlot x.record ≠ q ∨ ∀ r, s.intake.log[q] = some r → r.sequence ≠ x.record) →
        (voidTrain l (some .abandoned) s).intake.log[q] = s.intake.log[q] := fun q hq => by
      have hbase : (setTrain l none (freeIncoming x.index s)).intake.log = s.intake.log := by
        rw [setTrain_intake_log, freeIncoming_only]
      rw [voidTrain_some hx, latchKind_only]
      rw [changeRecord_of_ne _ (by rwa [hbase]), hbase]
    refine ⟨fun m => ?_, fun _ _ _ _ => fault_voidTrain hx _, latched_voidTrain _ _, fun k hk => hother hk,
      fun m => portOf_voidTrain l m _ s, fun hno => ?_, fun q hq => hlog q (hq l x hx (by simp)),
      fun m y v r hy hp hv hr hseq _ => ?_, by rw [voidTrain_only]⟩
    · rw [trainOf_voidTrain]
      by_cases hm : m = l
      · subst hm
        rw [if_pos rfl, hx, Option.filter_some, if_neg (by simp)]
      · rw [if_neg hm]
        cases trainOf s m with
        | none => rfl
        | some y => rw [Option.filter_some, if_pos (by simp [hm])]
    · have := hno l x hx
      simp at this
    · obtain ⟨rfl, -⟩ := of_decide_eq_true hp
      rw [hx, Option.some.injEq] at hy
      subst hy
      rw [voidTrain_some hx, latchKind_only, incomingRows_some hv]
      refine changeRecord_some _ ?_ hseq
      rw [setTrain_intake_log, freeIncoming_only]
      exact hr
  · have hnone : ∀ m x, trainOf s m = some x → decide (m = l ∧ x.index = i) = false := fun m x hx => by
      refine decide_eq_false fun ⟨hm, hi⟩ => ht ⟨x, ?_, hi⟩
      rw [← hm]
      exact hx
    rw [voidTrainIf_of_apart fun x hx he => ht ⟨x, hx, he⟩]
    refine ⟨fun m => ?_, fun m x hx hp => ?_, id, fun _ _ => rfl, fun _ => rfl, fun _ => ⟨rfl, rfl⟩, fun _ _ => rfl,
      fun m x _ _ hx hp => ?_, rfl⟩
    · cases hx : trainOf s m with
      | none => rfl
      | some x => rw [Option.filter_some, hnone m x hx]; rfl
    · rw [hnone m x hx] at hp
      cases hp
    · rw [hnone m x hx] at hp
      cases hp

theorem loses_clearEntry (i : RosterIndex) (s : State) : Loses (fun _ j => decide (j = i)) s (clearEntry i s) := by
  have hvoid := (loses_voidTrainIf i .a s).trans (loses_voidTrainIf i .b _) fun m x hx hp hq hother => by
    obtain ⟨rfl, hi⟩ := of_decide_eq_true hq
    rw [voidTrainIf_of_apart fun y hy => hi ▸ hother y hy]
  have hrest : Loses (fun _ _ => false) (voidTrainOf i .abandoned s) (clearEntry i s) := by
    have ht := tileOnly_clearEntry i s
    unfold TileOnly at ht
    refine .same ?_ ?_ ?_ ?_ ?_ <;> rw [ht]
  have hall := Loses.trans hvoid hrest fun m x _ _ hq => nomatch hq
  have hp : (fun (m : Link) (j : RosterIndex) => (decide (m = .a ∧ j = i) || decide (m = .b ∧ j = i)) || false) =
      fun _ j => decide (j = i) := by
    funext m j
    cases m <;> simp
  rwa [hp] at hall

end Sys2Proof.Machine
end

section
/-!
A roster load as a whole: the entries it clears, and what it leaves (chapter 1.3).
-/

namespace Sys2Proof.Machine

/-! ## The frame of a roster load -/

/-- Nothing differs but the roster, the directory and the trains with their records, the free list with its count, the
Arrival List, the ports and the latch. -/
def RosterOnly (s t : State) : Prop :=
  t =
    { s with
      tables.roster := t.tables.roster
      intake := { t.intake with nextSequence := s.intake.nextSequence }
      store := { t.store with bytes := s.store.bytes }
      ports := t.ports
      notices.latched := t.notices.latched }

theorem RosterOnly.refl (s : State) : RosterOnly s s := by rfl

theorem RosterOnly.trans {s t u : State} (h : RosterOnly s t) (k : RosterOnly t u) : RosterOnly s u := by
  unfold RosterOnly at h k ⊢
  refine k.trans ?_
  rw [h]

theorem TileOnly.rosterOnly {s t : State} (h : TileOnly s t) : RosterOnly s t := by
  unfold TileOnly at h
  unfold RosterOnly
  generalize t.intake.directory = d at h
  rw [h]

theorem rosterOnly_voidTrain (l : Link) (o : Option Delivery) (s : State) : RosterOnly s (voidTrain l o s) := by
  cases hx : trainOf s l with
  | none =>
    rw [voidTrain_of_idle hx]
    exact .refl s
  | some x =>
    have hfree : RosterOnly s (setTrain l none (freeIncoming x.index s)) :=
      (tileOnly_freeIncoming x.index s).rosterOnly.trans (by rfl)
    have hrecord : ∀ q f t, RosterOnly t (changeRecord q f t) := fun q f t => by
      unfold RosterOnly
      rw [changeRecord_only]
    have hlatch : ∀ k t, RosterOnly t (latchKind k t) := fun k t => by
      unfold RosterOnly
      rw [latchKind_only, notices_latchKind]
    rw [voidTrain_some hx]
    exact (hfree.trans (hrecord _ _ _)).trans (hlatch _ _)

theorem rosterOnly_voidTrainIf (i : RosterIndex) (o : Delivery) (l : Link) (s : State) :
    RosterOnly s (voidTrainIf i o l s) := by
  unfold voidTrainIf
  split
  · split
    · exact rosterOnly_voidTrain _ _ s
    · exact .refl s
  · exact .refl s

theorem rosterOnly_clearEntry (i : RosterIndex) (s : State) : RosterOnly s (clearEntry i s) :=
  ((rosterOnly_voidTrainIf i .abandoned .a s).trans (rosterOnly_voidTrainIf i .abandoned .b _)).trans
    (tileOnly_clearEntry i s).rosterOnly

/-! ## One record -/

theorem applyEntry_eq (i : RosterIndex) (e : RosterEntry) (s : State) : applyEntry i e s =
    if e.studentId ≠ (recordOf s i).studentId then clearEntry i (setRecord i (appliedRecord e (recordOf s i)) s)
    else setRecord i (appliedRecord e (recordOf s i)) s := by
  have hrec : (if e.studentId = 0 then { recordOf s i with listed := false, studentId := 0, caption := [] }
      else { recordOf s i with listed := true, studentId := e.studentId, caption := e.caption }) =
      appliedRecord e (recordOf s i) := by
    unfold appliedRecord
    by_cases h : e.studentId = 0
    · rw [if_pos h, if_pos h, decide_eq_false (not_not.2 h), h]
    · rw [if_neg h, if_neg h, decide_eq_true h]
  unfold applyEntry
  dsimp only
  rw [hrec, ite_not]
  exact if_congr eq_comm rfl rfl

theorem rosterOnly_applyEntry (i : RosterIndex) (e : RosterEntry) (s : State) : RosterOnly s (applyEntry i e s) := by
  have hset : ∀ r, RosterOnly s (setRecord i r s) := fun r => by rfl
  rw [applyEntry_eq]
  split
  · exact (hset _).trans (rosterOnly_clearEntry i _)
  · exact hset _

theorem blocksMove_applyEntry (i : RosterIndex) (e : RosterEntry) (s : State) : BlocksMove s (applyEntry i e s) := by
  have hset : ∀ r, BlocksMove s (setRecord i r s) := fun r => .same rfl rfl rfl
  rw [applyEntry_eq]
  split
  · exact (hset _).trans ((blocksMove_dropIncoming i .abandoned _).trans (blocksMove_freeHeld i _))
  · exact hset _

/-- The entry brings another student to the record. -/
def changesId (e : RosterEntry) (r : RosterRecord) : Bool := decide (e.studentId ≠ r.studentId)

theorem arrival_applyEntry (i : RosterIndex) (e : RosterEntry) (s : State) : (applyEntry i e s).store.arrival =
    s.store.arrival.filter fun j =>
      !(decide (j = i) && changesId e (recordOf s i) && (entryOf s j).held.isSome) := by
  rw [applyEntry_eq]
  by_cases h : e.studentId ≠ (recordOf s i).studentId
  · have hc : changesId e (recordOf s i) = true := decide_eq_true h
    rw [if_pos h, arrival_clearEntry, hc]
    show (if (entryOf s i).held = none then _ else _) = _
    split
    · next hn =>
      refine (List.filter_eq_self.2 fun j _ => ?_).symm
      by_cases hj : j = i
      · subst hj
        simp [hn]
      · simp [hj]
    · next hs =>
      refine List.filter_congr fun j _ => ?_
      by_cases hj : j = i
      · subst hj
        simp [Option.isSome_iff_ne_none.2 hs]
      · simp [hj]
  · have hc : changesId e (recordOf s i) = false := decide_eq_false h
    rw [if_neg h, hc]
    simp

theorem loses_applyEntry (i : RosterIndex) (e : RosterEntry) (s : State) :
    Loses (fun _ j => decide (j = i) && changesId e (recordOf s i)) s (applyEntry i e s) := by
  have hset : ∀ r, Loses (fun _ _ => false) s (setRecord i r s) := fun r => .same rfl rfl rfl rfl rfl
  rw [applyEntry_eq]
  by_cases h : e.studentId ≠ (recordOf s i).studentId
  · have hc : changesId e (recordOf s i) = true := decide_eq_true h
    rw [if_pos h, hc]
    simpa only [Bool.false_or, Bool.and_true] using
      (hset (appliedRecord e (recordOf s i))).trans (loses_clearEntry i _) fun _ _ _ _ _ _ => rfl
  · have hc : changesId e (recordOf s i) = false := decide_eq_false h
    rw [if_neg h, hc]
    simpa only [Bool.and_false] using hset _

/-! ## The range -/

/-- A load from record `first` on clears the entry of a record. -/
def clearedBy (first : Nat) (es : List RosterEntry) (s : State) (i : RosterIndex) : Bool :=
  (stagedFor first es i).any fun e => changesId e (recordOf s i)

theorem clearedBy_nil (first : Nat) (s : State) (i : RosterIndex) : clearedBy first [] s i = false := by
  unfold clearedBy stagedFor
  split <;> rfl

theorem clearedBy_cons {first : Nat} {e : RosterEntry} {es : List RosterEntry} (h : first < 1024) (s : State)
    (i : RosterIndex) : clearedBy first (e :: es) s i =
      (decide (i = Fin.ofNat 1024 first) && changesId e (recordOf s (Fin.ofNat 1024 first))
        || clearedBy (first + 1) es (applyEntry (Fin.ofNat 1024 first) e s) i) := by
  have hv := val_ofNat h
  unfold clearedBy stagedFor
  by_cases hi : i = Fin.ofNat 1024 first
  · subst hi
    rw [if_pos (by omega), hv, Nat.sub_self, if_neg (by omega)]
    simp
  · have hne : i.val ≠ first := fun he => hi (Fin.ext (he.trans hv.symm))
    rw [(applyEntry_frame _ i e s).1, if_neg hi, decide_eq_false hi, Bool.false_and, Bool.false_or]
    by_cases hlt : first + 1 ≤ i.val
    · rw [if_pos (by omega), if_pos hlt, show i.val - first = i.val - (first + 1) + 1 by omega]
      rfl
    · rw [if_neg (by omega), if_neg hlt]

theorem rosterOnly_applyRoster : ∀ (es : List RosterEntry) (first : Nat) (s : State),
    RosterOnly s (applyRoster first es s)
  | [], _, s => .refl s
  | e :: es, first, s => (rosterOnly_applyEntry _ e s).trans (rosterOnly_applyRoster es (first + 1) _)

theorem blocksMove_applyRoster : ∀ (es : List RosterEntry) (first : Nat) (s : State),
    BlocksMove s (applyRoster first es s)
  | [], _, s => .refl s
  | e :: es, first, s => (blocksMove_applyEntry _ e s).trans (blocksMove_applyRoster es (first + 1) _)

theorem arrival_applyRoster : ∀ (es : List RosterEntry) (first : Nat) (s : State), first + es.length ≤ 1024 →
    (applyRoster first es s).store.arrival =
      s.store.arrival.filter fun i => !(clearedBy first es s i && (entryOf s i).held.isSome)
  | [], first, s, _ => by
    refine (List.filter_eq_self.2 fun i _ => ?_).symm
    rw [clearedBy_nil]
    rfl
  | e :: es, first, s, h => by
    rw [List.length_cons] at h
    show (applyRoster (first + 1) es (applyEntry _ e s)).store.arrival = _
    rw [arrival_applyRoster es (first + 1) _ (by omega), arrival_applyEntry, List.filter_filter]
    refine List.filter_congr fun i _ => ?_
    rw [clearedBy_cons (by omega), (applyEntry_frame _ i e s).2]
    generalize clearedBy (first + 1) es _ i = later
    generalize Fin.ofNat 1024 first = k
    by_cases hc : i = k ∧ e.studentId ≠ (recordOf s k).studentId
    · have hk : (decide (i = k) && changesId e (recordOf s k)) = true :=
        Bool.and_eq_true_iff.2 ⟨decide_eq_true hc.1, decide_eq_true hc.2⟩
      rw [if_pos hc, hk]
      simp
    · have hk : (decide (i = k) && changesId e (recordOf s k)) = false := by
        rw [← Bool.not_eq_true, Bool.and_eq_true_iff]
        exact fun h => hc ⟨of_decide_eq_true h.1, of_decide_eq_true h.2⟩
      rw [if_neg hc, hk]
      simp

theorem loses_applyRoster : ∀ (es : List RosterEntry) (first : Nat) (s : State), first + es.length ≤ 1024 →
    Loses (fun _ i => clearedBy first es s i) s (applyRoster first es s)
  | [], first, s, _ => by
    simp only [clearedBy_nil]
    exact .same rfl rfl rfl rfl rfl
  | e :: es, first, s, h => by
    rw [List.length_cons] at h
    have hrest := loses_applyRoster es (first + 1) (applyEntry (Fin.ofNat 1024 first) e s) (by omega)
    have hall := (loses_applyEntry (Fin.ofNat 1024 first) e s).trans hrest fun m x _ hp hq _ => by
      rw [(applyEntry_frame _ x.index e s).2, if_neg]
      rintro ⟨hi, hc⟩
      rw [decide_eq_true hi, Bool.true_and] at hp
      exact of_decide_eq_false hp hc
    simp only [← clearedBy_cons (show first < 1024 by omega)] at hall
    exact hall

end Sys2Proof.Machine
end

section
/-!
TABLE_BODY parcels: the staging they fill, and the load that the LAST one concludes (chapter 10.5).
-/

namespace Sys2Proof.Machine

theorem exec_tableBody {s : State} {l : Link} {code : Byte} {w : Wire} (h : Passes s l 4 code w) :
    exec (.tableBody l code w) s = .next (takeTableBody l w s) :=
  congrArg Host.Outcome.next (arrive_of_passes h (by decide) nofun _)

section
variable {s : State} {l : Link} {w : Wire}

theorem takeTableBody_hall (h : w.address = 15) : takeTableBody l w s = s := by
  unfold takeTableBody toHall
  exact if_pos (decide_eq_true h)

theorem toHall_of_ne (h : w.address ≠ 15) : toHall w = false := decide_eq_false h

theorem takeTableBody_stray (h : w.address ≠ 15) (hg : (slotOf s l).staging = none) :
    takeTableBody l w s = countReceive l .stray s := by
  unfold takeTableBody
  rw [toHall_of_ne h, if_neg Bool.false_ne_true, hg]

theorem takeTableBody_staged {g : Staging} (h : w.address ≠ 15) (hg : (slotOf s l).staging = some g)
    (hl : w.last = false) : takeTableBody l w s =
      setSlot l { slotOf s l with staging := some (appendBody g w.payload) } s := by
  unfold takeTableBody
  rw [toHall_of_ne h, if_neg Bool.false_ne_true, hg]
  dsimp only
  rw [hl, if_neg Bool.false_ne_true]

theorem takeTableBody_last {g : Staging} (h : w.address ≠ 15) (hg : (slotOf s l).staging = some g)
    (hl : w.last = true) : takeTableBody l w s = closeTable l (appendBody g w.payload) s := by
  unfold takeTableBody
  rw [toHall_of_ne h, if_neg Bool.false_ne_true, hg]
  dsimp only
  rw [hl, if_pos rfl]

theorem tableCode_ne (t : TableTarget) : tableCode t ≠ 1 ∧ tableCode t ≠ 2 := by
  cases t <;> exact ⟨fun h => absurd (congrArg BitVec.toNat h) (by simp [tableCode, controlCode]),
    fun h => absurd (congrArg BitVec.toNat h) (by simp [tableCode, controlCode])⟩

/-- The conclusion of a load: its cause on the tables as they stand then. -/
theorem closeTable_concluded (h : w.address ≠ 15) (g : Staging) : Concluded l (tableCode g.target)
    { w with tag := g.tag } (checkTable g s) [] false
    (discardStaging l (if checkTable g s = .taken then applyTable g s else s)) (closeTable l g s) := by
  have hc := conclude_concluded (tableCode_ne g.target).1 (tableCode_ne g.target).2 l { w with tag := g.tag }
    (checkTable g s) [] false (discardStaging l (if checkTable g s = .taken then applyTable g s else s))
  have hh : toHall { w with tag := g.tag } = false := toHall_of_ne (w := { w with tag := g.tag }) h
  rwa [hh] at hc

theorem exec_lastBody {code : Byte} {g : Staging} (hp : Passes s l 4 code w) (h : w.address ≠ 15)
    (hg : (slotOf s l).staging = some g) (hl : w.last = true) :
    ∃ t, exec (.tableBody l code w) s = .next t
      ∧ Concluded l (tableCode g.target) { w with tag := g.tag } (checkTable (appendBody g w.payload) s) [] false
          (discardStaging l
            (if checkTable (appendBody g w.payload) s = .taken then applyTable (appendBody g w.payload) s else s)) t := by
  refine ⟨_, exec_tableBody hp, ?_⟩
  rw [takeTableBody_last h hg hl]
  exact closeTable_concluded h (appendBody g w.payload)

end

/-! ## What a taken table replaces -/

theorem setPlan_eq (id : Fin 8) (p : Plan) (s : State) : setPlan id (some p) s =
    { s with
      tables.plans := s.tables.plans.set id (some p)
      tables.planRows := s.tables.planRows - slotRows (planOf s id) + p.rows.length
      tables.planSeats := s.tables.planSeats - slotSeats (planOf s id) + p.seats.length } := by
  unfold setPlan
  rw [slotTotals_eq]

theorem applyTable_plan {g : Staging} {id : Fin 8} (h : g.target = .plan id) (s : State) :
    applyTable g s = setPlan id (some (planFrom (readPlan g.bytes))) s := by
  unfold applyTable
  rw [h]

theorem applyTable_glyphs {g : Staging} (h : g.target = .glyphs) (s : State) :
    applyTable g s = { startRender s with tables.glyphs := some (glyphsFrom g.bytes) } := by
  unfold applyTable
  rw [h]

theorem applyTable_tone {g : Staging} {n : Fin 16} (h : g.target = .tone n) (s : State) :
    applyTable g s = { s with tables.tones := s.tables.tones.set n (some (readTone g.bytes)) } := by
  unfold applyTable
  rw [h]

theorem applyTable_roster {g : Staging} {first count : Nat} {es : List RosterEntry} {more : List Byte}
    (h : g.target = .roster first count) (hr : readRoster count g.bytes = some (es, more)) (s : State) :
    applyTable g s = applyRoster first es s := by
  unfold applyTable
  rw [h]
  dsimp only
  rw [hr]

theorem checkTable_tone {g : Staging} {n : Fin 16} (h : g.target = .tone n) (s : State) :
    checkTable g s = checkTone n g.bytes g.overflow s := by
  unfold checkTable
  rw [h]

theorem clearedBy_of_range (first : Nat) (es : List RosterEntry) (s : State) (i : RosterIndex) :
    clearedBy first es s i = (decide (first ≤ i.val)
      && (es[i.val - first]?).any fun e => decide (e.studentId ≠ (recordOf s i).studentId)) := by
  unfold clearedBy stagedFor changesId
  split
  · next h => rw [decide_eq_true h, Bool.true_and]
  · next h => rw [decide_eq_false h]; rfl

theorem stagedFor_eq_none {first : Nat} {es : List RosterEntry} {i : RosterIndex}
    (h : i.val < first ∨ first + es.length ≤ i.val) : stagedFor first es i = none := by
  unfold stagedFor
  split
  · exact List.getElem?_eq_none (by omega)
  · rfl

theorem stagedFor_eq_some {first j : Nat} {es : List RosterEntry} {e : RosterEntry} {i : RosterIndex}
    (he : es[j]? = some e) (hi : i.val = first + j) : stagedFor first es i = some e := by
  unfold stagedFor
  rw [if_pos (by omega), hi, Nat.add_sub_cancel_left]
  exact he

theorem applyRoster_outside {first : Nat} {es : List RosterEntry} {i : RosterIndex} (s : State)
    (h : first + es.length ≤ 1024) (hi : i.val < first ∨ first + es.length ≤ i.val) :
    recordOf (applyRoster first es s) i = recordOf s i ∧ entryOf (applyRoster first es s) i = entryOf s i := by
  have hf := applyRoster_frame es first s h i
  rw [stagedFor_eq_none hi] at hf
  exact hf

theorem applyRoster_inside {first j : Nat} {es : List RosterEntry} {e : RosterEntry} {i : RosterIndex} (s : State)
    (h : first + es.length ≤ 1024) (he : es[j]? = some e) (hi : i.val = first + j) :
    recordOf (applyRoster first es s) i = appliedRecord e (recordOf s i)
      ∧ entryOf (applyRoster first es s) i =
        if e.studentId = (recordOf s i).studentId then entryOf s i else { held := none, incoming := none } := by
  have hf := applyRoster_frame es first s h i
  rw [stagedFor_eq_some he hi] at hf
  refine ⟨hf.1, hf.2.trans ?_⟩
  dsimp only
  rw [ite_not]

/-! ## The obligation -/

/-- Settles O33: the staging by `appendBody`, a taken table by `applyTable`, the roster by `Loses` and its frame. -/
theorem tableBodyIsStagedAndApplied : Obligations.TableBodyIsStagedAndApplied := by
  refine ⟨fun s l code w hp h => ?_, ?_⟩
  · rw [exec_tableBody hp, takeTableBody_hall h]
  intro s l code w hp h emptied room appended
  have happ : ∀ g, appended g = appendBody g w.payload := fun ⟨target, _, _, _, _⟩ => by cases target <;> rfl
  refine ⟨fun hg => ?_, fun g hg hl => ?_, fun g hg hl => ?_, fun g n hg ht hl hov hbusy => ?_⟩
  · rw [exec_tableBody hp, takeTableBody_stray h hg]
  · rw [exec_tableBody hp, takeTableBody_staged h hg hl, happ]
  · obtain ⟨t, hexec, hc⟩ := exec_lastBody hp h hg hl
    intro whole concludes
    have hwhole : whole = appendBody g w.payload := happ g
    have htarget : whole.target = g.target := by rw [hwhole]; rfl
    rw [← hwhole] at hc
    refine ⟨fun hbad => ?_, fun htaken => ⟨applyTable whole s, ?_, fun id ht => ?_, fun ht => ?_, ?_⟩⟩
    · rw [if_neg hbad] at hc
      exact ⟨t, hexec, hc⟩
    · rw [htaken, if_pos rfl] at hc
      exact ⟨t, hexec, hc⟩
    · rw [applyTable_plan (htarget.trans ht), setPlan_eq]
    · rw [applyTable_glyphs (htarget.trans ht), startRender_only]
    · intro first count es more ht hrange hread cleared
      have hlen := readRoster_length _ _ _ _ hread
      rw [applyTable_roster (htarget.trans ht) hread]
      have hfit : first + es.length ≤ 1024 := by omega
      have hcleared : ∀ i, clearedBy first es s i = cleared i := clearedBy_of_range first es s
      have hloses := loses_applyRoster es first s hfit
      simp only [hcleared] at hloses
      have harrival := arrival_applyRoster es first s hfit
      simp only [hcleared] at harrival
      refine ⟨rosterOnly_applyRoster es first s, blocksMove_applyRoster es first s, harrival, hloses.port,
        fun m hm => ?_, fun m x hx => ⟨fun hcl => ?_, fun hcl => ⟨?_, hloses.fault m x hx hcl, ?_⟩⟩, fun q hq => ?_,
        hloses.kinds, hloses.calm, fun i hi => ?_, fun j e i he hi => ?_⟩
      · rw [hloses.train, hm, Option.filter_none]
      · rw [hloses.train, hx, Option.filter_some, hcl]
        rfl
      · rw [hloses.train, hx, Option.filter_some, hcl]
        rfl
      · exact fun v r hv hr hseq hother => hloses.record m x v r hx hcl hv hr hseq hother
      · exact hloses.log q fun m x hx hcl => .inl (hq m x hx hcl)
      · exact applyRoster_outside s hfit (by rwa [hlen])
      · exact applyRoster_inside s hfit he hi
  · obtain ⟨t, hexec, hc⟩ := exec_lastBody hp h hg hl
    have hcode : tableCode g.target = 27 := by rw [ht]; rfl
    rw [hcode] at hc
    have hlimit : stagingLimit g.target = 768 := by rw [ht]; rfl
    intro bytes
    have hlength : bytes.length = g.bytes.length + w.payload.length := List.length_append
    have hwhole : bytes.length ≤ 768 →
        appendBody g w.payload = { g with bytes := bytes, gapTimer := 0 } := fun hle =>
      appendBody_fits (by omega)
    refine ⟨fun hfull => ?_, fun hshort => ?_⟩
    · rw [hwhole hfull.le] at hc
      have htaken : checkTable { g with bytes := bytes, gapTimer := 0 } s = .taken := by
        rw [checkTable_tone (g := { g with bytes := bytes, gapTimer := 0 }) ht]
        unfold checkTone
        dsimp only
        rw [hfull, hov, hbusy]
        rfl
      rw [htaken, if_pos rfl, applyTable_tone (g := { g with bytes := bytes, gapTimer := 0 }) ht] at hc
      exact ⟨t, readTone bytes, hexec, hc, fun k => ⟨by simp [readTone, toneTable], by simp [readTone, toneTable],
        by simp [readTone, toneTable]⟩⟩
    · rw [hwhole hshort.le] at hc
      have hcheck : checkTable { g with bytes := bytes, gapTimer := 0 } s = .short := by
        rw [checkTable_tone (g := { g with bytes := bytes, gapTimer := 0 }) ht]
        exact if_pos hshort
      rw [hcheck, if_neg (by decide)] at hc
      exact ⟨t, hexec, hc⟩

end Sys2Proof.Machine
end

section
/-!
The checks of a staged plan, from its bytes (chapters 1.2 and 12.4).
-/

namespace Sys2Proof.Machine

/-! ## Checks in order -/

/-- One `if` of a check is one test of the order that a statement lists. -/
theorem firstToFail_ite {P c : Prop} [Decidable c] {x y : ControlOutcome} {rest : List (Prop × ControlOutcome)}
    (h : P ↔ c) (hr : ¬c → FirstToFail y rest) : FirstToFail (if c then x else y) ((P, x) :: rest) := by
  refine ⟨fun hp => if_pos (h.1 hp), fun hp => ?_⟩
  have hc : ¬c := fun hc => hp (h.2 hc)
  rw [if_neg hc]
  exact hr hc

/-! ## A run of records -/

theorem not_all_range {α : Type} (n : Nat) (f : Nat → α) (ok : α → Bool) :
    (!((List.range n).map f).all ok) = true ↔ ∃ i < n, ¬ok (f i) = true := by
  simp

theorem not_noPair_range {α : Type} (n : Nat) (f : Nat → α) (rel : α → α → Bool) :
    (!noPair rel ((List.range n).map f)) = true ↔ ∃ j k : Nat, j < k ∧ k < n ∧ rel (f j) (f k) = true := by
  rw [Bool.not_eq_true', ← Bool.not_eq_true, noPair_iff, List.pairwise_iff_getElem]
  simp only [List.length_map, List.length_range, List.getElem_map, List.getElem_range]
  push Not
  constructor
  · rintro ⟨j, k, _, hk, hlt, h⟩
    exact ⟨j, k, hlt, hk, by simpa using h⟩
  · rintro ⟨j, k, hlt, hk, h⟩
    exact ⟨j, k, by omega, hk, hlt, by simpa using h⟩

/-! ## Rows and seats of a staged plan -/

theorem readPlan_rows (b : List Byte) :
    (readPlan b).rows = (List.range (byteAt b 7)).map fun i => rowAt b (10 + 27 * i) := by
  unfold readPlan
  simp only [Nat.mul_comm 27]

theorem readPlan_seats (b : List Byte) :
    (readPlan b).seats = (List.range (be16 b 8)).map fun j => seatAt b (10 + 27 * byteAt b 7 + 7 * j) := by
  unfold readPlan
  simp only [Nat.mul_comm 27, Nat.mul_comm 7]

theorem rowInRange_rowAt (b : List Byte) (n height : Nat) : rowInRange height (rowAt b n) = true ↔
    be16 b n ≤ 8191 ∧ 32 ≤ be16 b (n + 2) ∧ be16 b (n + 2) ≤ 2048 ∧ byteAt b (n + 4) ≤ 128
      ∧ 16 ≤ be16 b (n + 5) ∧ be16 b (n + 5) ≤ 2047 ∧ be16 b (n + 7) < be16 b (n + 2)
      ∧ 256 ≤ be16 b (n + 9) ∧ be16 b (n + 9) ≤ be16 b (n + 11) ∧ byteAt b (n + 25) ≤ 8
      ∧ byteAt b (n + 26) ≤ 32 ∧ be16 b n + be16 b (n + 2) + byteAt b (n + 4) ≤ height := by
  have hmax : be16 b (n + 11) ≤ 65535 := by
    have := be16_lt b (n + 11)
    omega
  unfold rowInRange rowAt
  rw [decide_eq_true_iff]
  simp [hmax]

theorem rowsInOrder_iff : ∀ rs : List Row, rowsInOrder rs = true ↔
    ∀ (i : Nat) (r q : Row), rs[i]? = some r → rs[i + 1]? = some q → r.top + r.cellHeight + r.captionHeight ≤ q.top
  | [] => by simp [rowsInOrder]
  | [_] => by simp [rowsInOrder]
  | r :: q :: rest => by
    unfold rowsInOrder
    rw [Bool.and_eq_true, rowsInOrder_iff (q :: rest), decide_eq_true_iff]
    constructor
    · rintro ⟨hfirst, hrest⟩ (_ | i) x y hx hy
      · simp only [List.getElem?_cons_zero, List.getElem?_cons_succ, Option.some.injEq] at hx hy
        rw [← hx, ← hy]
        exact hfirst
      · exact hrest i x y hx hy
    · exact fun h => ⟨h 0 r q rfl rfl, fun i x y hx hy => h (i + 1) x y hx hy⟩

theorem not_rowsInOrder_range (n : Nat) (f : Nat → Row) : (!rowsInOrder ((List.range n).map f)) = true ↔
    ∃ i, i + 1 < n ∧ (f (i + 1)).top < (f i).top + (f i).cellHeight + (f i).captionHeight := by
  have hget : ∀ i r, ((List.range n).map f)[i]? = some r ↔ i < n ∧ f i = r := fun i r => by
    rw [List.getElem?_map, Option.map_eq_some_iff]
    constructor
    · rintro ⟨j, hj, he⟩
      obtain ⟨hlt, hji⟩ := List.getElem?_eq_some_iff.1 hj
      rw [List.getElem_range] at hji
      subst hji
      exact ⟨by simpa using hlt, he⟩
    · rintro ⟨hlt, he⟩
      exact ⟨i, List.getElem?_range hlt, he⟩
  rw [Bool.not_eq_true', ← Bool.not_eq_true, rowsInOrder_iff]
  push Not
  constructor
  · rintro ⟨i, r, q, hr, hq, h⟩
    obtain ⟨hlt, rfl⟩ := (hget _ _).1 hr
    obtain ⟨hlt', rfl⟩ := (hget _ _).1 hq
    exact ⟨i, hlt', h⟩
  · rintro ⟨i, hlt, h⟩
    exact ⟨i, f i, f (i + 1), (hget _ _).2 ⟨by omega, rfl⟩, (hget _ _).2 ⟨hlt, rfl⟩, h⟩

theorem seatInRange_seatAt (b : List Byte) (n : Nat) : seatInRange (readPlan b) (seatAt b n) = true ↔
    byteAt b n < byteAt b 7 ∧ 32 ≤ be16 b (n + 3) ∧ be16 b (n + 3) ≤ 1024
      ∧ be16 b (n + 1) + be16 b (n + 3) ≤ be16 b 0 ∧ be16 b (n + 5) ≤ 1023
      ∧ 2 * byteAt b (10 + 27 * byteAt b n + 26) < be16 b (n + 3) := by
  unfold seatInRange
  rw [readPlan_rows]
  by_cases h : byteAt b n < byteAt b 7
  · have hrow : ((List.range (byteAt b 7)).map fun i => rowAt b (10 + 27 * i))[(seatAt b n).row]? =
        some (rowAt b (10 + 27 * byteAt b n)) := by
      rw [List.getElem?_map, show (seatAt b n).row = byteAt b n from rfl, List.getElem?_range h]
      rfl
    rw [hrow]
    dsimp only
    rw [decide_eq_true_iff]
    exact ⟨fun hok => ⟨h, hok⟩, fun hok => hok.2⟩
  · have hrow : ((List.range (byteAt b 7)).map fun i => rowAt b (10 + 27 * i))[(seatAt b n).row]? = none := by
      rw [List.getElem?_eq_none_iff, List.length_map, List.length_range]
      exact Nat.le_of_not_lt h
    rw [hrow]
    exact ⟨nofun, fun hok => absurd hok.1 h⟩

theorem seatsOverlap_seatAt (b : List Byte) (m n : Nat) : seatsOverlap (seatAt b m) (seatAt b n) = true ↔
    byteAt b m = byteAt b n ∧ be16 b (m + 1) < be16 b (n + 1) + be16 b (n + 3)
      ∧ be16 b (n + 1) < be16 b (m + 1) + be16 b (m + 3) := by
  unfold seatsOverlap
  rw [decide_eq_true_iff]
  rfl

/-! ## The totals -/

theorem plans_toList (s : State) : s.tables.plans.toList = (List.finRange 8).map (planOf s) := by
  refine List.ext_getElem (by simp) fun n h1 h2 => ?_
  simp [planOf]

/-- The plans of the other slots, summed. -/
theorem sum_other_plans (f : Option Plan → Nat) (id : Fin 8) (s : State) :
    (((List.finRange 8).filter fun k => decide (k ≠ id)).map fun k => f (planOf s k)).sum =
      (s.tables.plans.toList.map f).sum - f (planOf s id) := by
  have herase : ((List.finRange 8).filter fun k => decide (k ≠ id)) = (List.finRange 8).erase id := by
    rw [(List.nodup_finRange 8).erase_eq_filter]
    refine List.filter_congr fun k _ => ?_
    simp [bne, BEq.beq]
  have hsum := List.sum_map_erase (fun k => f (planOf s k)) (List.mem_finRange id)
  rw [herase, plans_toList, List.map_map]
  show _ = ((List.finRange 8).map fun k => f (planOf s k)).sum - _
  omega

/-! ## The checks -/

theorem checkPlan_firstToFail (s : State) (b : List Byte) (overflow : Bool) (id : Fin 8) (h : TotalsLaw s) :
    FirstToFail (checkPlan id b overflow s)
      [(∃ o ∈ s.scheduler.queue, o.plan = id, .pinned),
        (b.length < 10 ∨ b.length < 10 + 27 * byteAt b 7 + 7 * be16 b 8, .short),
        (10 + 27 * byteAt b 7 + 7 * be16 b 8 < b.length ∨ overflow = true, .long),
        (be16 b 0 < 256 ∨ 4096 < be16 b 0 ∨ be16 b 2 < 256 ∨ 8192 < be16 b 2, .pageRange),
        (byteAt b 7 < 1 ∨ 16 < byteAt b 7
          ∨ ∃ i < byteAt b 7, ¬rowInRange (be16 b 2) (rowAt b (10 + 27 * i)) = true, .rowRange),
        (∃ i, i + 1 < byteAt b 7 ∧ (rowAt b (10 + 27 * (i + 1))).top < (rowAt b (10 + 27 * i)).top
          + (rowAt b (10 + 27 * i)).cellHeight + (rowAt b (10 + 27 * i)).captionHeight, .rowOrder),
        (be16 b 8 < 1 ∨ 256 < be16 b 8
          ∨ ∃ j < be16 b 8, ¬seatInRange (readPlan b) (seatAt b (10 + 27 * byteAt b 7 + 7 * j)) = true, .seatRange),
        (∃ j k : Nat, j < k ∧ k < be16 b 8 ∧ seatsOverlap (seatAt b (10 + 27 * byteAt b 7 + 7 * j))
          (seatAt b (10 + 27 * byteAt b 7 + 7 * k)) = true, .seatOverlap),
        (∃ j k : Nat, j < k ∧ k < be16 b 8 ∧ decide ((seatAt b (10 + 27 * byteAt b 7 + 7 * j)).index
          = (seatAt b (10 + 27 * byteAt b 7 + 7 * k)).index) = true, .duplicateStudent),
        (64 < (((List.finRange 8).filter fun k => decide (k ≠ id)).map fun k => slotRows (planOf s k)).sum + byteAt b 7
          ∨ 1024 < (((List.finRange 8).filter fun k => decide (k ≠ id)).map fun k => slotSeats (planOf s k)).sum
            + be16 b 8, .planSpace)] := by
  obtain ⟨hrows, hseats⟩ := h
  have hneed : planLength (byteAt b 7) (be16 b 8) = 10 + 27 * byteAt b 7 + 7 * be16 b 8 := by
    unfold planLength
    omega
  unfold checkPlan
  refine firstToFail_ite (planPinned_iff s id).symm fun _ => firstToFail_ite ?_ fun _ => firstToFail_ite ?_ fun _ =>
    firstToFail_ite Iff.rfl fun _ => firstToFail_ite ?_ fun _ => firstToFail_ite ?_ fun _ => firstToFail_ite ?_ fun _ =>
    firstToFail_ite ?_ fun _ => firstToFail_ite ?_ fun _ => firstToFail_ite ?_ fun _ => rfl
  · show _ ↔ _ ∨ b.length < planLength (byteAt b 7) (be16 b 8)
    rw [hneed]
  · show _ ↔ planLength (byteAt b 7) (be16 b 8) < b.length ∨ _
    rw [hneed]
  · rw [readPlan_rows, not_all_range]
    rfl
  · rw [readPlan_rows, not_rowsInOrder_range]
  · rw [readPlan_seats, not_all_range]
    rfl
  · rw [readPlan_seats, not_noPair_range]
  · rw [readPlan_seats, not_noPair_range]
  · rw [sum_other_plans, sum_other_plans, slotTotals_eq, hrows, hseats]
    rfl

theorem seats_planFrom {b : List Byte} {j : Nat} {i : RosterIndex} (hj : j < be16 b 8)
    (hi : be16 b (10 + 27 * byteAt b 7 + 7 * j + 5) = i.val) : (planFrom (readPlan b)).seats[j]? =
      some
        { row := byteAt b (10 + 27 * byteAt b 7 + 7 * j), left := be16 b (10 + 27 * byteAt b 7 + 7 * j + 1)
          width := be16 b (10 + 27 * byteAt b 7 + 7 * j + 3), index := i } := by
  have hindex : Fin.ofNat 1024 (seatAt b (10 + 27 * byteAt b 7 + 7 * j)).index = i := by
    show Fin.ofNat 1024 (be16 b _) = i
    rw [hi]
    exact Fin.ext (Nat.mod_eq_of_lt i.isLt)
  unfold planFrom
  rw [readPlan_seats, List.map_map, List.getElem?_map, List.getElem?_range hj]
  exact congrArg some (by rw [Function.comp_apply, hindex]; rfl)

theorem rows_planFrom {b : List Byte} {i : Nat} (hi : i < byteAt b 7) :
    (planFrom (readPlan b)).rows[i]? = some (rowAt b (10 + 27 * i)) := by
  show (readPlan b).rows[i]? = _
  rw [readPlan_rows, List.getElem?_map, List.getElem?_range hi]
  rfl

end Sys2Proof.Machine
end

section
/-!
The checks of a staged roster, from its bytes (chapters 1.3 and 12.4).
-/

namespace Sys2Proof.Machine

/-! ## Entries in their bytes -/

/-- The staged bytes of one roster entry (section 12.4). -/
def entryBytes (e : RosterEntry) : List Byte :=
  [e.studentId.extractLsb' 24 8, e.studentId.extractLsb' 16 8, e.studentId.extractLsb' 8 8,
    e.studentId.extractLsb' 0 8, BitVec.ofNat 8 e.caption.length] ++ e.caption

theorem rosterBytes_cons (e : RosterEntry) (es : List RosterEntry) :
    rosterBytes (e :: es) = entryBytes e ++ rosterBytes es := List.flatMap_cons

theorem be32_extracts (v : BitVec 32) (rest : List Byte) :
    BitVec.ofNat 32 (be32 ([v.extractLsb' 24 8, v.extractLsb' 16 8, v.extractLsb' 8 8, v.extractLsb' 0 8] ++ rest) 0)
      = v := by
  refine BitVec.eq_of_toNat_eq ?_
  have hlt := v.isLt
  simp [be32, be16, byteAt, BitVec.extractLsb'_toNat, Nat.shiftRight_eq_div_pow]
  omega

theorem extracts_be32 (a b c d : Byte) (rest : List Byte) :
    [(BitVec.ofNat 32 (be32 (a :: b :: c :: d :: rest) 0)).extractLsb' 24 8,
      (BitVec.ofNat 32 (be32 (a :: b :: c :: d :: rest) 0)).extractLsb' 16 8,
      (BitVec.ofNat 32 (be32 (a :: b :: c :: d :: rest) 0)).extractLsb' 8 8,
      (BitVec.ofNat 32 (be32 (a :: b :: c :: d :: rest) 0)).extractLsb' 0 8] = [a, b, c, d] := by
  have ha := a.isLt
  have hb := b.isLt
  have hc := c.isLt
  have hd := d.isLt
  have hval : (BitVec.ofNat 32 (be32 (a :: b :: c :: d :: rest) 0)).toNat =
      a.toNat * 16777216 + b.toNat * 65536 + c.toNat * 256 + d.toNat := by
    simp [be32, be16, byteAt]
    omega
  simp only [List.cons.injEq, and_true]
  refine ⟨?_, ?_, ?_, ?_⟩ <;> refine BitVec.eq_of_toNat_eq ?_ <;>
    rw [BitVec.extractLsb'_toNat, hval, Nat.shiftRight_eq_div_pow] <;> omega

theorem readRoster_entryBytes {e : RosterEntry} (he : e.caption.length ≤ 255) (n : Nat) (more : List Byte) :
    readRoster (n + 1) (entryBytes e ++ more) = (readRoster n more).map fun (es, rest) => (e :: es, rest) := by
  have hlen : byteAt (entryBytes e ++ more) 4 = e.caption.length := by
    show (BitVec.ofNat 8 e.caption.length).toNat = _
    rw [BitVec.toNat_ofNat]
    omega
  have hsize : (entryBytes e).length = 5 + e.caption.length := by
    simp [entryBytes]
    omega
  have hid : BitVec.ofNat 32 (be32 (entryBytes e ++ more) 0) = e.studentId := by
    unfold entryBytes
    exact be32_extracts e.studentId ([BitVec.ofNat 8 e.caption.length] ++ e.caption ++ more)
  have hdrop : (entryBytes e ++ more).drop 5 = e.caption ++ more := by rfl
  have hrest : (entryBytes e ++ more).drop (5 + e.caption.length) = more := by
    rw [← hsize, List.drop_left]
  rw [readRoster]
  dsimp only
  rw [hlen, hid, hdrop, hrest, List.take_left, if_neg]
  rw [List.length_append, hsize]
  omega

theorem readRoster_rosterBytes : ∀ (es : List RosterEntry) (more : List Byte), (∀ e ∈ es, e.caption.length ≤ 255) →
    readRoster es.length (rosterBytes es ++ more) = some (es, more)
  | [], _, _ => rfl
  | e :: es, more, h => by
    rw [rosterBytes_cons, List.append_assoc, List.length_cons, readRoster_entryBytes (h e List.mem_cons_self),
      readRoster_rosterBytes es more fun x hx => h x (List.mem_cons_of_mem _ hx)]
    rfl

theorem exists_five_of_length {α : Type} {b : List α} (h : 5 ≤ b.length) :
    ∃ x0 x1 x2 x3 x4 rest, b = x0 :: x1 :: x2 :: x3 :: x4 :: rest := by
  rcases b with _ | ⟨x0, _ | ⟨x1, _ | ⟨x2, _ | ⟨x3, _ | ⟨x4, rest⟩⟩⟩⟩⟩
  case cons.cons.cons.cons.cons => exact ⟨x0, x1, x2, x3, x4, rest, rfl⟩
  all_goals simp at h

/-- What a roster's entries are read from are their bytes. -/
theorem readRoster_spells : ∀ (n : Nat) (b : List Byte) (es : List RosterEntry) (more : List Byte),
    readRoster n b = some (es, more) →
    b = rosterBytes es ++ more ∧ es.length = n ∧ ∀ e ∈ es, e.caption.length ≤ 255
  | 0, b, es, more, h => by
    unfold readRoster at h
    cases h
    exact ⟨rfl, rfl, nofun⟩
  | n + 1, b, es, more, h => by
    unfold readRoster at h
    dsimp only at h
    split at h
    · cases h
    · next hsize =>
      obtain ⟨⟨es', more'⟩, hread, he⟩ := Option.map_eq_some_iff.1 h
      cases he
      obtain ⟨hb, hlen, hcaps⟩ := readRoster_spells n _ _ _ hread
      have hbyte : byteAt b 4 < 256 := (b.getD 4 0).isLt
      refine ⟨?_, by rw [List.length_cons, hlen], ?_⟩
      · obtain ⟨x0, x1, x2, x3, x4, rest, rfl⟩ := exists_five_of_length (b := b) (by omega)
        have h4 : byteAt (x0 :: x1 :: x2 :: x3 :: x4 :: rest) 4 = x4.toNat := rfl
        rw [h4] at hb hsize hread ⊢
        have hdrop : ∀ k, (x0 :: x1 :: x2 :: x3 :: x4 :: rest).drop (5 + k) = rest.drop k := fun k => by
          rw [← List.drop_drop]
          rfl
        rw [hdrop] at hb
        have htake : (rest.take x4.toNat).length = x4.toNat := by
          rw [List.length_take]
          simp only [List.length_cons] at hsize
          omega
        rw [rosterBytes_cons, entryBytes, List.append_assoc, ← hb]
        show _ = [_, _, _, _] ++ (BitVec.ofNat 8 (rest.take x4.toNat).length :: (rest.take x4.toNat ++ rest.drop x4.toNat))
        rw [extracts_be32, htake, BitVec.ofNat_toNat, BitVec.setWidth_eq, List.take_append_drop]
        rfl
      · intro e he
        rcases List.mem_cons.1 he with rfl | he
        · dsimp only
          rw [List.length_take]
          omega
        · exact hcaps e he

/-! ## The checks -/

theorem any_entryBad (es : List RosterEntry) : es.any entryBad = true ↔
    ∃ e ∈ es, 40 < e.caption.length ∨ ∃ c ∈ e.caption, c.toNat < 32 := by
  simp [entryBad]

theorem mem_recordsIn {s : State} {first count : Nat} {r : RosterRecord} (h : r ∈ recordsIn s first count) :
    ∃ i : RosterIndex, (first ≤ i.val ∧ i.val < first + count) ∧ recordOf s i = r := by
  unfold recordsIn at h
  rw [List.mem_take_iff_getElem] at h
  obtain ⟨n, hn, rfl⟩ := h
  have hlt : n < count ∧ first + n < 1024 := by
    simp at hn
    omega
  refine ⟨⟨first + n, hlt.2⟩, ⟨Nat.le_add_right _ _, by dsimp only; omega⟩, ?_⟩
  rw [recordOf_eq_getElem, List.getElem_drop]

theorem any_used_recordsIn (s : State) (first count : Nat) :
    ((recordsIn s first count).any fun r => decide (0 < r.uses)) = true ↔
      ∃ i : RosterIndex, (first ≤ i.val ∧ i.val < first + count) ∧ 0 < (recordOf s i).uses := by
  rw [List.any_eq_true]
  constructor
  · rintro ⟨r, hr, hu⟩
    obtain ⟨i, hi, rfl⟩ := mem_recordsIn hr
    exact ⟨i, hi, of_decide_eq_true hu⟩
  · rintro ⟨i, hi, hu⟩
    exact ⟨_, getElem_recordsIn hi.1 hi.2, decide_eq_true hu⟩

/-- The student id that a record holds after the load, where it is LISTED then (R14). -/
theorem listed_applyRoster {first count : Nat} {es : List RosterEntry} (s : State) (hlen : es.length = count)
    (hfit : first + count ≤ 1024) (i : RosterIndex) (id : BitVec 32) :
    ((recordOf (applyRoster first es s) i).listed = true ∧ (recordOf (applyRoster first es s) i).studentId = id) ↔
      ((first ≤ i.val ∧ i.val < first + count) ∧ id ≠ 0
          ∧ ∃ e : RosterEntry, es[i.val - first]? = some e ∧ e.studentId = id)
        ∨ (¬(first ≤ i.val ∧ i.val < first + count) ∧ (recordOf s i).listed = true
          ∧ (recordOf s i).studentId = id) := by
  have hfit' : first + es.length ≤ 1024 := by omega
  by_cases hin : first ≤ i.val ∧ i.val < first + count
  · obtain ⟨e, he⟩ : ∃ e, es[i.val - first]? = some e := ⟨_, List.getElem?_eq_getElem (by omega)⟩
    have happ := (applyRoster_inside s hfit' he (by omega : i.val = first + (i.val - first))).1
    rw [happ, he]
    simp only [appliedRecord, decide_eq_true_eq, hin, true_and, not_true_eq_false, and_self, false_and, or_false,
      Option.some.injEq, exists_eq_left']
    constructor
    · rintro ⟨h0, rfl⟩
      exact ⟨h0, rfl⟩
    · rintro ⟨h0, rfl⟩
      exact ⟨h0, rfl⟩
  · rw [(applyRoster_outside s hfit' (by omega : i.val < first ∨ first + es.length ≤ i.val)).1]
    exact ⟨fun h => .inr ⟨hin, h⟩, fun h => h.elim (fun h => absurd h.1 hin) fun h => h.2⟩

theorem not_noPair_idsAfter {first count : Nat} {es : List RosterEntry} (s : State) (hlen : es.length = count)
    (hfit : first + count ≤ 1024) : (!noPair (fun x y => decide (x = y)) (idsAfter s first es)) = true ↔
      ∃ (i j : RosterIndex) (id : BitVec 32), i ≠ j
        ∧ ((recordOf (applyRoster first es s) i).listed = true ∧ (recordOf (applyRoster first es s) i).studentId = id)
        ∧ ((recordOf (applyRoster first es s) j).listed = true
          ∧ (recordOf (applyRoster first es s) j).studentId = id) := by
  have hpair : noPair (fun x y => decide (x = y)) (idsAfter s first es) = true ↔ (idsAfter s first es).Nodup := by
    rw [noPair_iff]
    simp only [decide_eq_false_iff_not]
    rfl
  rw [Bool.not_eq_true', ← Bool.not_eq_true, hpair, ← listedIds_applyRoster (by omega), ← uniqueIds_iff,
    ← unique_iff_uniqueIds]
  push Not
  constructor
  · rintro ⟨i, j, hi, hj, he, hne⟩
    exact ⟨i, j, _, hne, ⟨hi, rfl⟩, hj, he.symm⟩
  · rintro ⟨i, j, id, hne, ⟨hi, rfl⟩, hj, he⟩
    exact ⟨i, j, hi, hj, he.symm, hne⟩

theorem checkRoster_of_none {first count : Nat} {b : List Byte} (overflow : Bool) (s : State)
    (h : readRoster count b = none) : checkRoster first count b overflow s = .short := by
  unfold checkRoster
  rw [h]

theorem checkRoster_firstToFail {first count : Nat} {b more : List Byte} {es : List RosterEntry} (overflow : Bool)
    (s : State) (hr : readRoster count b = some (es, more)) (hfit : first + count ≤ 1024) :
    FirstToFail (checkRoster first count b overflow s)
      [(more ≠ [] ∨ overflow = true, .long),
        (∃ e ∈ es, 40 < e.caption.length ∨ ∃ c ∈ e.caption, c.toNat < 32, .badArgument),
        (∃ i : RosterIndex, (first ≤ i.val ∧ i.val < first + count) ∧ 0 < (recordOf s i).uses, .pinned),
        (∃ (i j : RosterIndex) (id : BitVec 32), i ≠ j
          ∧ (((first ≤ i.val ∧ i.val < first + count) ∧ id ≠ 0
              ∧ ∃ e : RosterEntry, es[i.val - first]? = some e ∧ e.studentId = id)
            ∨ (¬(first ≤ i.val ∧ i.val < first + count) ∧ (recordOf s i).listed = true
              ∧ (recordOf s i).studentId = id))
          ∧ (((first ≤ j.val ∧ j.val < first + count) ∧ id ≠ 0
              ∧ ∃ e : RosterEntry, es[j.val - first]? = some e ∧ e.studentId = id)
            ∨ (¬(first ≤ j.val ∧ j.val < first + count) ∧ (recordOf s j).listed = true
              ∧ (recordOf s j).studentId = id)), .duplicateId)] := by
  have hlen := readRoster_length _ _ _ _ hr
  unfold checkRoster
  rw [hr]
  refine firstToFail_ite Iff.rfl fun _ => firstToFail_ite (any_entryBad es).symm fun _ =>
    firstToFail_ite (any_used_recordsIn s first count).symm fun _ => firstToFail_ite ?_ fun _ => rfl
  rw [not_noPair_idsAfter s hlen hfit]
  simp only [listed_applyRoster s hlen hfit]

end Sys2Proof.Machine
end

section
/-!
The checks of a staged Glyph Set, from its bytes (chapters 7.1 and 12.4), and of every staged table.
-/

namespace Sys2Proof.Machine

/-! ## Glyphs in their bytes -/

/-- The glyph that a code, an advance and the bytes of a bitmap spell. -/
def spelledGlyph (height : Nat) (e : Byte × Byte × List Byte) : GlyphEntry :=
  { code := e.1.toNat, glyph := { advance := e.2.1.toNat, bitmap := coverage e.2.2 height e.2.1.toNat } }

/-- The staged bytes of glyph entries (section 12.4). -/
def glyphBytes (es : List (Byte × Byte × List Byte)) : List Byte := es.flatMap fun e => e.1 :: e.2.1 :: e.2.2

theorem glyphBytes_cons (e : Byte × Byte × List Byte) (es : List (Byte × Byte × List Byte)) :
    glyphBytes (e :: es) = e.1 :: e.2.1 :: (e.2.2 ++ glyphBytes es) := List.flatMap_cons

theorem byteAt_drop (b : List Byte) (m n : Nat) : byteAt (b.drop m) n = byteAt b (m + n) := by
  unfold byteAt
  rw [List.getD_eq_getElem?_getD, List.getElem?_drop, ← List.getD_eq_getElem?_getD]

theorem byteAt_append_left {b : List Byte} {n : Nat} (more : List Byte) (h : n < b.length) :
    byteAt (b ++ more) n = byteAt b n := by
  unfold byteAt
  rw [List.getD_append _ _ _ _ h]

/-- A column's byte of a bitmap line lies within the bitmap. -/
theorem coverage_byte_lt {height advance line col : Nat} (hl : line < height) (hc : col < advance) :
    line * lineBytes advance + col / 8 < height * lineBytes advance := by
  have hcol : col / 8 < lineBytes advance := by
    unfold lineBytes
    omega
  calc line * lineBytes advance + col / 8 < line * lineBytes advance + lineBytes advance := by omega
    _ = (line + 1) * lineBytes advance := by ring
    _ ≤ height * lineBytes advance := Nat.mul_le_mul_right _ hl

theorem coverage_append {bits : List Byte} {height advance : Nat} (h : bits.length = height * lineBytes advance)
    (more : List Byte) : coverage (bits ++ more) height advance = coverage bits height advance := by
  unfold coverage coverageLine
  refine List.map_congr_left fun line hl => List.map_congr_left fun col hc => ?_
  rw [byteAt_drop, byteAt_drop, byteAt_append_left]
  rw [h]
  exact coverage_byte_lt (List.mem_range.1 hl) (List.mem_range.1 hc)

theorem readGlyphs_glyphBytes (height : Nat) : ∀ (es : List (Byte × Byte × List Byte)) (more : List Byte),
    (∀ e ∈ es, e.2.2.length = height * lineBytes e.2.1.toNat) →
    readGlyphs height es.length (glyphBytes es ++ more) = some (es.map (spelledGlyph height), more)
  | [], _, _ => rfl
  | e :: es, more, h => by
    have he := h e List.mem_cons_self
    have hadv : byteAt (e.1 :: e.2.1 :: (e.2.2 ++ glyphBytes es ++ more)) 1 = e.2.1.toNat := rfl
    have hcode : byteAt (e.1 :: e.2.1 :: (e.2.2 ++ glyphBytes es ++ more)) 0 = e.1.toNat := rfl
    have hbits : (e.1 :: e.2.1 :: (e.2.2 ++ glyphBytes es ++ more)).drop 2 = e.2.2 ++ (glyphBytes es ++ more) := by
      rw [← List.append_assoc]
      rfl
    have hrest : (e.1 :: e.2.1 :: (e.2.2 ++ glyphBytes es ++ more)).drop (2 + height * lineBytes e.2.1.toNat) =
        glyphBytes es ++ more := by
      rw [← List.drop_drop, hbits, ← he, List.drop_left]
    rw [glyphBytes_cons, List.cons_append, List.cons_append, List.length_cons, readGlyphs]
    dsimp only
    rw [hadv, hcode, hbits, hrest, coverage_append he, readGlyphs_glyphBytes height es more
      fun x hx => h x (List.mem_cons_of_mem _ hx), if_neg]
    · rfl
    · simp only [List.length_cons, List.length_append]
      omega

/-- What a set's entries are read from are their bytes. -/
theorem readGlyphs_spells (height : Nat) : ∀ (n : Nat) (b : List Byte) (gs : List GlyphEntry) (more : List Byte),
    readGlyphs height n b = some (gs, more) →
    ∃ es : List (Byte × Byte × List Byte), b = glyphBytes es ++ more ∧ es.length = n
      ∧ ∀ e ∈ es, e.2.2.length = height * lineBytes e.2.1.toNat
  | 0, b, gs, more, h => by
    unfold readGlyphs at h
    cases h
    exact ⟨[], rfl, rfl, nofun⟩
  | n + 1, b, gs, more, h => by
    rw [readGlyphs] at h
    dsimp only at h
    split at h
    · cases h
    · next hsize =>
      obtain ⟨⟨gs', more'⟩, hread, he⟩ := Option.map_eq_some_iff.1 h
      cases he
      obtain ⟨es, hb, hlen, hbits⟩ := readGlyphs_spells height n _ _ _ hread
      obtain ⟨code, advance, rest, rfl⟩ : ∃ code advance rest, b = code :: advance :: rest := by
        rcases b with _ | ⟨code, _ | ⟨advance, rest⟩⟩
        · simp at hsize
        · simp at hsize
        · exact ⟨code, advance, rest, rfl⟩
      have hadv : byteAt (code :: advance :: rest) 1 = advance.toNat := rfl
      rw [hadv] at hb hsize
      rw [← List.drop_drop] at hb
      have hdrop : rest.drop (height * lineBytes advance.toNat) = glyphBytes es ++ _ := hb
      refine ⟨(code, advance, rest.take (height * lineBytes advance.toNat)) :: es, ?_, by rw [List.length_cons, hlen], ?_⟩
      · rw [glyphBytes_cons, List.cons_append, List.cons_append, List.append_assoc, ← hdrop, List.take_append_drop]
      · intro e he
        rcases List.mem_cons.1 he with rfl | he
        · simp only [List.length_cons, List.length_take] at hsize ⊢
          omega
        · exact hbits e he

/-! ## The checks -/

theorem any_glyphBad (height : Nat) (es : List (Byte × Byte × List Byte)) :
    (es.map (spelledGlyph height)).any glyphBad = true ↔
      ∃ e ∈ es, e.1.toNat < 32 ∨ e.2.1.toNat < 1 ∨ 32 < e.2.1.toNat := by
  have hbad : ∀ e, glyphBad (spelledGlyph height e) = true ↔
      e.1.toNat < 32 ∨ e.2.1.toNat < 1 ∨ 32 < e.2.1.toNat := fun e => by
    have hlt := e.1.isLt
    unfold glyphBad spelledGlyph
    rw [decide_eq_true_iff]
    dsimp only
    omega
  rw [List.any_map, List.any_eq_true]
  simp only [Function.comp_apply, hbad]

theorem not_noPair_codes (height : Nat) (es : List (Byte × Byte × List Byte)) :
    (!noPair (fun x y => decide (x.code = y.code)) (es.map (spelledGlyph height))) = true ↔
      ∃ (j k : Nat) (d e : Byte × Byte × List Byte), j < k ∧ es[j]? = some d ∧ es[k]? = some e ∧ d.1 = e.1 := by
  rw [Bool.not_eq_true', ← Bool.not_eq_true, noPair_iff, List.pairwise_iff_getElem]
  simp only [List.length_map, List.getElem_map, decide_eq_false_iff_not]
  push Not
  constructor
  · rintro ⟨j, k, hj, hk, hlt, he⟩
    exact ⟨j, k, es[j], es[k], hlt, List.getElem?_eq_getElem hj, List.getElem?_eq_getElem hk,
      BitVec.eq_of_toNat_eq he⟩
  · rintro ⟨j, k, d, e, hlt, hd, he, hcode⟩
    obtain ⟨hj, rfl⟩ := List.getElem?_eq_some_iff.1 hd
    obtain ⟨hk, rfl⟩ := List.getElem?_eq_some_iff.1 he
    exact ⟨j, k, hj, hk, hlt, congrArg BitVec.toNat hcode⟩

theorem checkGlyphs_of_lt {b : List Byte} (overflow : Bool) (h : b.length < 2) : checkGlyphs b overflow = .short :=
  if_pos h

theorem checkGlyphs_of_none {b : List Byte} (overflow : Bool)
    (h : readGlyphs (byteAt b 0) (byteAt b 1) (b.drop 2) = none) : checkGlyphs b overflow = .short := by
  unfold checkGlyphs
  rw [h]
  exact ite_self _

theorem checkGlyphs_firstToFail {b more : List Byte} {es : List (Byte × Byte × List Byte)} (overflow : Bool)
    (h : 2 ≤ b.length)
    (hr : readGlyphs (byteAt b 0) (byteAt b 1) (b.drop 2) = some (es.map (spelledGlyph (byteAt b 0)), more)) :
    FirstToFail (checkGlyphs b overflow)
      [(more ≠ [] ∨ overflow = true, .long),
        (byteAt b 0 < 8 ∨ 48 < byteAt b 0 ∨ byteAt b 1 < 1 ∨ 224 < byteAt b 1
          ∨ (∃ e ∈ es, e.1.toNat < 32 ∨ e.2.1.toNat < 1 ∨ 32 < e.2.1.toNat)
          ∨ ∃ (j k : Nat) (d e : Byte × Byte × List Byte), j < k ∧ es[j]? = some d ∧ es[k]? = some e ∧ d.1 = e.1,
          .badArgument)] := by
  unfold checkGlyphs
  rw [if_neg (by omega), hr]
  refine firstToFail_ite Iff.rfl fun _ => firstToFail_ite ?_ fun _ => rfl
  rw [any_glyphBad, not_noPair_codes]

theorem glyphs_glyphsFrom {b more : List Byte} {gs : List GlyphEntry}
    (hr : readGlyphs (byteAt b 0) (byteAt b 1) (b.drop 2) = some (gs, more)) :
    (glyphsFrom b).glyphs = gs.map fun e => (e.code, e.glyph) := by
  unfold glyphsFrom
  rw [hr]

theorem coverage_line {bits : List Byte} {height advance line : Nat} (hl : line < height) :
    (coverage bits height advance)[line]? =
      some (coverageLine (bits.drop (line * lineBytes advance)) advance) := by
  unfold coverage
  rw [List.getElem?_map, List.getElem?_range hl]
  rfl

theorem coverageLine_col {bits : List Byte} {advance n col : Nat} (hc : col < advance) :
    (coverageLine (bits.drop n) advance)[col]? = some ((byteAt bits (n + col / 8)).testBit (7 - col % 8)) := by
  unfold coverageLine
  rw [List.getElem?_map, List.getElem?_range hc, ← byteAt_drop]
  rfl

theorem checkTone_firstToFail (n : Fin 16) (b : List Byte) (overflow : Bool) (s : State) :
    FirstToFail (checkTone n b overflow s)
      [(b.length < 768, .short), (overflow = true, .long),
        (∃ (m : Link) (x : Train) (v : Incoming), trainOf s m = some x ∧ (entryOf s x.index).incoming = some v
          ∧ v.version.session = n, .busySession)] := by
  unfold checkTone
  exact firstToFail_ite Iff.rfl fun _ => firstToFail_ite Iff.rfl fun _ =>
    firstToFail_ite (sessionBusy_iff s n).symm fun _ => rfl

/-! ## The obligation -/

/-- Settles O34: each table's own checks in order, and what its reader spells. -/
theorem tableChecksFailInOrder : Obligations.TableChecksFailInOrder := by
  intro s g b colour
  refine ⟨fun id ht htotals => ?_, fun first count ht hfit => ?_, fun n ht => ?_, fun ht => ?_⟩
  · have hcheck : checkTable g s = checkPlan id b g.overflow s := by
      unfold checkTable
      rw [ht]
    rw [hcheck]
    refine ⟨?_, rfl, rfl, rfl, ?_, ?_, fun i hi => rows_planFrom hi, fun j i hj hi => seats_planFrom hj hi⟩
    · have h := checkPlan_firstToFail s b g.overflow id htotals
      simp only [rowInRange_rowAt, seatInRange_seatAt, seatsOverlap_seatAt, decide_eq_true_eq] at h
      exact h
    · show (readPlan b).rows.length = _
      rw [readPlan_rows, List.length_map, List.length_range]
    · show ((readPlan b).seats.map _).length = _
      rw [readPlan_seats, List.length_map, List.length_map, List.length_range]
  · have hcheck : checkTable g s = checkRoster first count b g.overflow s := by
      unfold checkTable
      rw [ht]
    rw [hcheck]
    refine ⟨fun hnone => checkRoster_of_none _ s ?_, fun es more hholds => ?_⟩
    · by_contra hsome
      obtain ⟨⟨es, more⟩, hr⟩ := Option.ne_none_iff_exists'.1 hsome
      exact hnone es more (readRoster_spells _ _ _ _ hr)
    · obtain ⟨hb, hlen, hcaps⟩ := hholds
      have hr : readRoster count b = some (es, more) := by
        rw [hb, ← hlen]
        exact readRoster_rosterBytes es more hcaps
      exact ⟨hr, checkRoster_firstToFail g.overflow s hr hfit⟩
  · rw [checkTable_tone ht]
    exact checkTone_firstToFail n b g.overflow s
  · have hcheck : checkTable g s = checkGlyphs b g.overflow := by
      unfold checkTable
      rw [ht]
    rw [hcheck]
    refine ⟨fun hnone => ?_, fun es more hholds => ?_⟩
    · by_cases hlen : b.length < 2
      · exact checkGlyphs_of_lt _ hlen
      · refine checkGlyphs_of_none _ ?_
        by_contra hsome
        obtain ⟨⟨gs, more⟩, hr⟩ := Option.ne_none_iff_exists'.1 hsome
        obtain ⟨es, hes⟩ := readGlyphs_spells _ _ _ _ _ hr
        exact hnone es more ⟨by omega, hes⟩
    · obtain ⟨hlen, hb, hcount, hbits⟩ := hholds
      have hr : readGlyphs (byteAt b 0) (byteAt b 1) (b.drop 2) =
          some (es.map (spelledGlyph (byteAt b 0)), more) := by
        rw [hb, ← hcount]
        exact readGlyphs_glyphBytes _ es more hbits
      refine ⟨checkGlyphs_firstToFail g.overflow hlen hr, rfl, ?_, fun k e he =>
        ⟨(spelledGlyph (byteAt b 0) e).glyph, ?_, rfl, ?_, fun line hl => ⟨_, coverage_line hl, ?_, fun col hc =>
          coverageLine_col hc⟩⟩⟩
      · rw [glyphs_glyphsFrom hr, List.length_map, List.length_map]
      · rw [glyphs_glyphsFrom hr, List.map_map, List.getElem?_map, he]
        rfl
      · exact (List.length_map _).trans List.length_range
      · exact (List.length_map _).trans List.length_range

end Sys2Proof.Machine
end

section
/-!
Fields in their bytes: what a field reads where its bytes stand, and records within longer data (chapter 12).
-/

namespace Sys2Proof.Machine

/-! ## One field -/

theorem byteAt_zero_of_drop {d rest : List Byte} {n : Nat} {x : Byte} (h : d.drop n = x :: rest) :
    byteAt d n = x.toNat := by
  have hn := byteAt_drop d n 0
  rw [h] at hn
  exact hn.symm

theorem be16_drop (d : List Byte) (m n : Nat) : be16 (d.drop m) n = be16 d (m + n) := by
  unfold be16
  rw [byteAt_drop, byteAt_drop]
  rfl

theorem be32_drop (d : List Byte) (m n : Nat) : be32 (d.drop m) n = be32 d (m + n) := by
  unfold be32
  rw [be16_drop, be16_drop]
  rfl

theorem be48_drop (d : List Byte) (m n : Nat) : be48 (d.drop m) n = be48 d (m + n) := by
  unfold be48
  rw [be16_drop, be32_drop]
  rfl

theorem be16_bytesBE (v : Nat) (rest : List Byte) : be16 (bytesBE 2 v ++ rest) 0 = v % 65536 := by
  simp [be16, byteAt, bytesBE]
  omega

theorem be32_bytesBE (v : Nat) (rest : List Byte) : be32 (bytesBE 4 v ++ rest) 0 = v % 4294967296 := by
  simp [be32, be16, byteAt, bytesBE]
  omega

theorem be48_bytesBE (v : Nat) (rest : List Byte) : be48 (bytesBE 6 v ++ rest) 0 = v % 281474976710656 := by
  simp [be48, be32, be16, byteAt, bytesBE]
  omega

theorem be16_at {d rest : List Byte} {n v : Nat} (h : d.drop n = bytesBE 2 v ++ rest) : be16 d n = v % 65536 := by
  have hn := be16_drop d n 0
  rw [h, be16_bytesBE] at hn
  exact hn.symm

theorem be32_at {d rest : List Byte} {n v : Nat} (h : d.drop n = bytesBE 4 v ++ rest) : be32 d n = v % 4294967296 := by
  have hn := be32_drop d n 0
  rw [h, be32_bytesBE] at hn
  exact hn.symm

theorem be48_at {d rest : List Byte} {n v : Nat} (h : d.drop n = bytesBE 6 v ++ rest) :
    be48 d n = v % 281474976710656 := by
  have hn := be48_drop d n 0
  rw [h, be48_bytesBE] at hn
  exact hn.symm

theorem word_at {d rest : List Byte} {n : Nat} {v : BitVec 16} (h : d.drop n = bytesBE 2 v.toNat ++ rest) :
    be16 d n = v.toNat := (be16_at h).trans (Nat.mod_eq_of_lt v.isLt)

theorem long_at {d rest : List Byte} {n : Nat} {v : BitVec 32} (h : d.drop n = bytesBE 4 v.toNat ++ rest) :
    be32 d n = v.toNat := (be32_at h).trans (Nat.mod_eq_of_lt v.isLt)

theorem line_at {d rest : List Byte} {n : Nat} {v : BitVec 48} (h : d.drop n = bytesBE 6 v.toNat ++ rest) :
    be48 d n = v.toNat := (be48_at h).trans (Nat.mod_eq_of_lt v.isLt)

theorem toNat_byteOf (n : Nat) : (byteOf n).toNat = n % 256 := BitVec.toNat_ofNat ..

theorem toNat_byteOf_of_lt {n : Nat} (h : n < 256) : (byteOf n).toNat = n :=
  (toNat_byteOf n).trans (Nat.mod_eq_of_lt h)

theorem byteAt_of_le {d : List Byte} {n : Nat} (h : d.length ≤ n) : byteAt d n = 0 := by
  unfold byteAt
  rw [List.getD_eq_getElem?_getD, List.getElem?_eq_none h]
  rfl

/-! ## Records within longer data -/

/-- The bytes of a record stand in some data from a place on. -/
def StandsAt (d : List Byte) (a : Nat) (x : List Byte) : Prop := ∀ k < x.length, byteAt d (a + k) = byteAt x k

section
variable {d x : List Byte} {a : Nat}

theorem StandsAt.be16 (h : StandsAt d a x) (n : Nat) (hn : n + 2 ≤ x.length) : be16 d (a + n) = be16 x n := by
  unfold Sys2Proof.be16
  rw [h n (by omega), Nat.add_assoc, h (n + 1) (by omega)]

theorem StandsAt.be32 (h : StandsAt d a x) (n : Nat) (hn : n + 4 ≤ x.length) : be32 d (a + n) = be32 x n := by
  unfold Sys2Proof.be32
  rw [h.be16 n (by omega), Nat.add_assoc, h.be16 (n + 2) (by omega)]

theorem StandsAt.be48 (h : StandsAt d a x) (n : Nat) (hn : n + 6 ≤ x.length) : be48 d (a + n) = be48 x n := by
  unfold Machine.be48
  rw [h.be16 n (by omega), Nat.add_assoc, h.be32 (n + 2) (by omega)]

theorem standsAt_append (pre x post : List Byte) : StandsAt (pre ++ x ++ post) pre.length x := by
  intro k hk
  unfold byteAt
  rw [List.append_assoc, List.getD_append_right _ _ _ _ (Nat.le_add_right _ _), Nat.add_sub_cancel_left,
    List.getD_append _ _ _ _ hk]

theorem StandsAt.trans {y : List Byte} {b : Nat} (h : StandsAt d a x) (k : StandsAt x b y)
    (hb : b + y.length ≤ x.length) : StandsAt d (a + b) y := fun n hn => by
  rw [Nat.add_assoc, h (b + n) (by omega), k n hn]

end

theorem byteAt_zeroBytes (n k : Nat) : byteAt (zeroBytes n) k = 0 := by
  unfold byteAt zeroBytes
  rw [List.getD_eq_getElem?_getD, List.getElem?_replicate]
  split <;> rfl

/-- Making data up with zeros changes no byte of it, and reads as 0 behind it. -/
theorem byteAt_padTo {n : Nat} {d : List Byte} (h : d.length ≤ n) (k : Nat) : byteAt (padTo n d) k = byteAt d k := by
  by_cases hk : n ≤ k
  · rw [byteAt_of_le (by rw [length_padTo]; exact hk), byteAt_of_le (by omega)]
  · have htake : byteAt (padTo n d) k = byteAt (d ++ zeroBytes n) k := by
      unfold padTo byteAt
      rw [List.getD_eq_getElem?_getD, List.getElem?_take_of_lt (by omega), ← List.getD_eq_getElem?_getD]
    rw [htake]
    by_cases hd : k < d.length
    · exact byteAt_append_left _ hd
    · rw [byteAt_of_le (d := d) (by omega)]
      unfold byteAt
      rw [List.getD_append_right _ _ _ _ (by omega)]
      exact byteAt_zeroBytes n _

theorem length_flatMap_const {α : Type} {f : α → List Byte} {c : Nat} (hf : ∀ x, (f x).length = c) (xs : List α) :
    (xs.flatMap f).length = c * xs.length := by
  induction xs with
  | nil => rfl
  | cons x xs ih =>
    rw [List.flatMap_cons, List.length_append, hf, ih, List.length_cons, Nat.mul_succ, Nat.add_comm]

/-- Records of one length stand one behind another. -/
theorem standsAt_flatMap {α : Type} {f : α → List Byte} {c : Nat} (hf : ∀ x, (f x).length = c) {xs : List α} {j : Nat}
    {x : α} (h : xs[j]? = some x) : StandsAt (xs.flatMap f) (c * j) (f x) := by
  obtain ⟨hj, rfl⟩ := List.getElem?_eq_some_iff.1 h
  have hsplit : xs.flatMap f = (xs.take j).flatMap f ++ f xs[j] ++ (xs.drop (j + 1)).flatMap f := by
    rw [← List.flatMap_singleton f, ← List.flatMap_append, ← List.flatMap_append]
    congr 1
    rw [List.take_append_getElem, List.take_append_drop]
  have hlen : ((xs.take j).flatMap f).length = c * j := by
    rw [length_flatMap_const hf, List.length_take, Nat.min_eq_left (Nat.le_of_lt hj)]
  rw [hsplit, ← hlen]
  exact standsAt_append _ _ _

/-- Data that begins with some bytes and goes on with records of one length, made up with zeros. -/
theorem standsAt_padded {α : Type} {f : α → List Byte} {c n : Nat} (lead : List Byte) (hf : ∀ x, (f x).length = c)
    {xs : List α} (hn : lead.length + c * xs.length ≤ n) {j : Nat} {x : α} (h : xs[j]? = some x) :
    StandsAt (padTo n (lead ++ xs.flatMap f)) (lead.length + c * j) (f x) := by
  have hj := (List.getElem?_eq_some_iff.1 h).1
  have hfit : c * j + (f x).length ≤ (xs.flatMap f).length := by
    rw [hf, length_flatMap_const hf, ← Nat.mul_succ]
    exact Nat.mul_le_mul_left c hj
  intro k hk
  rw [byteAt_padTo (by rw [List.length_append, length_flatMap_const hf]; exact hn)]
  have hall := (standsAt_append lead (xs.flatMap f) []).trans (standsAt_flatMap hf h) hfit
  rw [List.append_nil] at hall
  exact hall k hk

theorem byteAt_padded_behind {α : Type} {f : α → List Byte} {c n : Nat} (lead : List Byte)
    (hf : ∀ x, (f x).length = c) {xs : List α} (hn : lead.length + c * xs.length ≤ n) {k : Nat}
    (hk : lead.length + c * xs.length ≤ k) : byteAt (padTo n (lead ++ xs.flatMap f)) k = 0 := by
  have hlen : (lead ++ xs.flatMap f).length = lead.length + c * xs.length := by
    rw [List.length_append, length_flatMap_const hf]
  rw [byteAt_padTo (by omega), byteAt_of_le (by omega)]

end Sys2Proof.Machine
end

section
/-!
The data of the reads, byte by byte (section 12.5).
-/

namespace Sys2Proof.Machine

/-! ## The Unit Status -/

theorem statusBits (a b c d e f g h : Bool) :
    let x : Byte := BitVec.ofNat 8 (a.toNat + b.toNat * 2 + c.toNat * 4 + d.toNat * 8 + e.toNat * 16 + f.toNat * 32
      + g.toNat * 64 + h.toNat * 128)
    x.getLsbD 0 = a ∧ x.getLsbD 1 = b ∧ x.getLsbD 2 = c ∧ x.getLsbD 3 = d ∧ x.getLsbD 4 = e ∧ x.getLsbD 5 = f
      ∧ x.getLsbD 6 = g ∧ x.getLsbD 7 = h := by
  revert a b c d e f g h
  decide

theorem holdsKind_and (x y : BitVec 9) (k : NoticeKind) :
    holdsKind (x &&& y) k = (holdsKind x k && holdsKind y k) := by
  rw [holdsKind_eq_getLsbD, holdsKind_eq_getLsbD, holdsKind_eq_getLsbD, BitVec.getLsbD_and]

theorem exists_kindPlace {n : Nat} (h : n < 9) : ∃ k, kindPlace k = n := by
  have hall : ∀ n : Fin 9, ∃ k ∈ [NoticeKind.orderDone, .pageDeficient, .tileLate, .trainFault, .storeLow, .underrun,
      .callDropped, .linkChange, .linkErrors], kindPlace k = n.val := by decide
  obtain ⟨k, -, hk⟩ := hall ⟨n, h⟩
  exact ⟨k, hk⟩

theorem ne_zero_iff_holdsKind (x : BitVec 9) : (x != 0) = true ↔ ∃ k, holdsKind x k = true := by
  rw [bne_iff_ne]
  constructor
  · intro hx
    by_contra hno
    push Not at hno
    refine hx (BitVec.eq_of_getLsbD_eq fun n hn => ?_)
    obtain ⟨k, rfl⟩ := exists_kindPlace hn
    have := hno k
    rw [holdsKind_eq_getLsbD] at this
    simpa using this
  · rintro ⟨k, hk⟩ rfl
    rw [holdsKind_eq_getLsbD] at hk
    simp at hk

theorem attention_iff (s : State) : attention s = true ↔ s.notices.inhibit = false
    ∧ ∃ k, holdsKind s.notices.latched k = true ∧ holdsKind s.notices.enabled k = true := by
  unfold attention
  rw [Bool.and_eq_true, ne_zero_iff_holdsKind, Bool.not_eq_true', and_comm]
  simp only [holdsKind_and, Bool.and_eq_true]

theorem holding_iff (s : State) : holding s = true ↔ ∃ k n : Nat, s.press.hold = .holding k n := by
  unfold holding
  cases s.press.hold <;> simp

theorem running_iff (s : State) : running s = true ↔ s.scheduler.impression ≠ none := Option.isSome_iff_ne_none

/-! ## The counters -/

/-- The place of a link's fields in the counters. -/
def linkPlace (l : Link) : Nat := match l with
  | .a => 0
  | .b => 1

theorem toNat_linkByte (l : Link) : (linkByte l).toNat = linkPlace l := by cases l <;> rfl

/-! ## READ QUEUE -/

theorem length_orderEntry (o : Order) : (orderEntry o).length = 14 := rfl

/-- The bytes before the order entries of READ QUEUE. -/
def queueLead (s : State) : List Byte :=
  match s.scheduler.impression with
  | some c =>
    [1, byteOf s.scheduler.queue.length, byteOf c.copy, 0] ++ bytesBE 6 c.start.toNat ++ bytesBE 6 c.endLine.toNat
  | none => [0, byteOf s.scheduler.queue.length, 0, 0] ++ zeroBytes 12

theorem queueLead_none {s : State} (h : s.scheduler.impression = none) :
    queueLead s = [0, byteOf s.scheduler.queue.length, 0, 0] ++ zeroBytes 12 := by
  unfold queueLead
  rw [h]

theorem queueLead_some {s : State} {c : Impression} (h : s.scheduler.impression = some c) : queueLead s =
    [1, byteOf s.scheduler.queue.length, byteOf c.copy, 0] ++ bytesBE 6 c.start.toNat
      ++ bytesBE 6 c.endLine.toNat := by
  unfold queueLead
  rw [h]

theorem length_queueLead (s : State) : (queueLead s).length = 16 := by
  cases h : s.scheduler.impression with
  | none =>
    rw [queueLead_none h]
    rfl
  | some c =>
    rw [queueLead_some h]
    rfl

theorem queueData_eq (s : State) : queueData s = padTo 240 (queueLead s ++ s.scheduler.queue.flatMap orderEntry) := by
  unfold queueData queueLead
  rfl

theorem toNat_orderStateByte (o : Order) : (byteOf (orderStateCode o.state + o.rush.toNat * 16)).toNat =
    orderStateCode o.state + if o.rush then 16 else 0 := by
  cases o.state <;> cases o.rush <;> rfl

/-! ## READ DIRECTORY -/

theorem toNat_versionMarks (v : Version) :
    (byteOf (v.retake.toNat + v.late.toNat * 2 + v.poisonedSeen.toNat * 4)).toNat =
      (if v.retake then 1 else 0) + (if v.late then 2 else 0) + (if v.poisonedSeen then 4 else 0) := by
  cases v.retake <;> cases v.late <;> cases v.poisonedSeen <;> rfl

/-- A version's bytes in its place of the directory entry (R42). -/
structure VersionLaid (d : List Byte) (a state lock : Nat) (v : Version) : Prop where
  state : byteAt d a = state
  marks : byteAt d (a + 1) =
    (if v.retake then 1 else 0) + (if v.late then 2 else 0) + (if v.poisonedSeen then 4 else 0)
  lock : byteAt d (a + 2) = lock % 256
  session : byteAt d (a + 3) = v.session.val
  width : be16 d (a + 4) = v.width % 65536
  height : be16 d (a + 6) = v.height % 65536
  eyeRow : be16 d (a + 8) = v.eyeRow % 65536
  centreColumn : be16 d (a + 10) = v.centreColumn % 65536
  headHeight : be16 d (a + 12) = v.headHeight % 65536
  rows : be16 d (a + 14) = v.rows % 65536
  origin : byteAt d (a + 16) = linkPlace v.origin
  count : byteAt d (a + 17) = v.blocks.length % 256
  openMark : be32 d (a + 18) = v.openMark.toNat
  closeMark : be32 d (a + 22) = (v.closeMark.map BitVec.toNat).getD 0
  blocks : ∀ k < 60, be16 d (a + 26 + 2 * k) = v.blocks.getD k 0 % 65536

theorem be32_markBytes (m : Option Mark) (rest : List Byte) :
    be32 (markBytes m ++ rest) 0 = (m.map BitVec.toNat).getD 0 := by
  cases m with
  | none => simp [markBytes, zeroBytes, List.replicate, be32, be16, byteAt]
  | some m => exact (be32_bytesBE _ _).trans (Nat.mod_eq_of_lt m.isLt)

theorem mark_at {d rest : List Byte} {n : Nat} {m : Option Mark} (h : d.drop n = markBytes m ++ rest) :
    be32 d n = (m.map BitVec.toNat).getD 0 := by
  have hn := be32_drop d n 0
  rw [h, be32_markBytes] at hn
  exact hn.symm

theorem be16_blocks (bs : List Nat) {k : Nat} (hk : k < 60) :
    be16 (padTo 120 (bs.flatMap (bytesBE 2))) (2 * k) = bs.getD k 0 % 65536 := by
  have hpad : ∀ n < 120, byteAt (padTo 120 (bs.flatMap (bytesBE 2))) n = byteAt (bs.flatMap (bytesBE 2)) n :=
    fun n hn => by
      unfold padTo byteAt
      rw [List.getD_eq_getElem?_getD, List.getElem?_take_of_lt hn, ← List.getD_eq_getElem?_getD]
      by_cases hlt : n < (bs.flatMap (bytesBE 2)).length
      · rw [List.getD_append _ _ _ _ hlt]
      · rw [List.getD_append_right _ _ _ _ (by omega), List.getD_eq_getElem?_getD (l := bs.flatMap _),
          List.getElem?_eq_none (by omega)]
        exact byteAt_zeroBytes 120 _
  have hlen := length_flatMap_const (f := bytesBE 2) (c := 2) (fun _ => rfl) bs
  unfold be16
  rw [hpad _ (by omega), hpad _ (by omega)]
  cases h : bs[k]? with
  | none =>
    have hle : bs.length ≤ k := List.getElem?_eq_none_iff.1 h
    rw [byteAt_of_le (by omega), byteAt_of_le (by omega), List.getD_eq_getElem?_getD, h]
    rfl
  | some b =>
    have hat := standsAt_flatMap (f := bytesBE 2) (c := 2) (fun _ => rfl) h
    rw [hat 1 Nat.one_lt_two, List.getD_eq_getElem?_getD, h, show 2 * k = 2 * k + 0 from rfl, hat 0 Nat.two_pos]
    exact be16_bytesBE b []

/-- A version's bytes behind its marks are the block list. -/
theorem drop_versionBytes (state lock : Nat) (v : Version) :
    (versionBytes state lock v).drop 26 = padTo 120 (v.blocks.flatMap (bytesBE 2)) := by
  unfold versionBytes
  rw [List.drop_append_of_le_length]
  · rw [List.drop_eq_nil_of_le, List.nil_append]
    simp only [List.length_append, length_bytesBE, length_markBytes, List.length_cons, List.length_nil]
    decide
  · simp only [List.length_append, length_bytesBE, length_markBytes, List.length_cons, List.length_nil]
    decide

theorem versionLaid {d : List Byte} {a state lock : Nat} {v : Version} (hstate : state < 256)
    (h : StandsAt d a (versionBytes state lock v)) : VersionLaid d a state lock v := by
  have hlen : (versionBytes state lock v).length = 146 := length_versionBytes state lock v
  have hfit : ∀ n, n < 146 → n < (versionBytes state lock v).length := fun n hn => by omega
  refine ⟨(h 0 (hfit 0 (by decide))).trans (toNat_byteOf_of_lt hstate), (h 1 (hfit 1 (by decide))).trans (toNat_versionMarks v),
    (h 2 (hfit 2 (by decide))).trans (toNat_byteOf lock),
    (h 3 (hfit 3 (by decide))).trans (toNat_byteOf_of_lt (by omega)),
    (h.be16 4 (by omega)).trans (be16_at rfl), (h.be16 6 (by omega)).trans (be16_at rfl),
    (h.be16 8 (by omega)).trans (be16_at rfl), (h.be16 10 (by omega)).trans (be16_at rfl),
    (h.be16 12 (by omega)).trans (be16_at rfl), (h.be16 14 (by omega)).trans (be16_at rfl),
    (h 16 (hfit 16 (by decide))).trans (toNat_linkByte v.origin), (h 17 (hfit 17 (by decide))).trans (toNat_byteOf _),
    (h.be32 18 (by omega)).trans (long_at rfl), (h.be32 22 (by omega)).trans (mark_at rfl), fun k hk => ?_⟩
  rw [Nat.add_assoc, h.be16 (26 + 2 * k) (by omega), ← be16_drop, drop_versionBytes]
  exact be16_blocks v.blocks hk

end Sys2Proof.Machine
end

section
/-!
The records of the two logs, the check, and whole parcels, byte by byte (sections 12.1, 12.5 and 12.6).
-/

namespace Sys2Proof.Machine

/-! ## The Delivery Log -/

theorem length_deliveryBytes (r : DeliveryRecord) : (deliveryBytes r).length = 24 := by
  unfold deliveryBytes
  simp only [List.length_append, length_bytesBE, length_markBytes, List.length_cons, List.length_nil]

theorem toNat_deliveryMarks (r : DeliveryRecord) :
    (byteOf (r.opened.toNat + r.closed.toNat * 2 + r.late.toNat * 4 + r.called.toNat * 8)).toNat =
      (if r.opened then 1 else 0) + (if r.closed then 2 else 0) + (if r.late then 4 else 0)
        + (if r.called then 8 else 0) := by
  cases r.opened <;> cases r.closed <;> cases r.late <;> cases r.called <;> rfl

/-- A Delivery Log record's bytes in their place (section 12.5). -/
structure DeliveryLaid (d : List Byte) (a : Nat) (r : DeliveryRecord) : Prop where
  sequence : be32 d a = r.sequence.toNat
  index : be16 d (a + 4) = (r.index.map Fin.val).getD 65535
  studentId : be32 d (a + 6) = r.studentId.toNat
  link : byteAt d (a + 10) = linkPlace r.link
  marks : byteAt d (a + 11) = (if r.opened then 1 else 0) + (if r.closed then 2 else 0) + (if r.late then 4 else 0)
    + (if r.called then 8 else 0)
  openMark : be32 d (a + 12) = r.openMark.toNat
  closeMark : be32 d (a + 16) = (r.closeMark.map BitVec.toNat).getD 0
  rows : be16 d (a + 20) = r.rows % 65536
  outcome : byteAt d (a + 22) = (deliveryCode r.outcome).toNat
  reserved : byteAt d (a + 23) = 0

theorem be16_index (o : Option RosterIndex) (d : List Byte) (n : Nat) {rest : List Byte}
    (h : d.drop n = bytesBE 2 ((o.map Fin.val).getD 65535) ++ rest) : be16 d n = (o.map Fin.val).getD 65535 := by
  refine (be16_at h).trans (Nat.mod_eq_of_lt ?_)
  cases o with
  | none => decide
  | some i => exact i.isLt.trans (by decide)

/-- The bytes of a record behind its closing time mark. -/
theorem drop_deliveryBytes (r : DeliveryRecord) :
    (deliveryBytes r).drop 20 = bytesBE 2 r.rows ++ [deliveryCode r.outcome, 0] := by
  unfold deliveryBytes
  rw [List.append_assoc, List.drop_append_of_le_length, List.drop_eq_nil_of_le, List.nil_append]
  all_goals
    simp only [List.length_append, length_bytesBE, length_markBytes, List.length_cons, List.length_nil]
    decide

theorem deliveryLaid {d : List Byte} {a : Nat} {r : DeliveryRecord} (h : StandsAt d a (deliveryBytes r)) :
    DeliveryLaid d a r := by
  have hlen := length_deliveryBytes r
  have hclose : (deliveryBytes r).drop 16 =
      markBytes r.closeMark ++ (bytesBE 2 r.rows ++ [deliveryCode r.outcome, 0]) := by
    unfold deliveryBytes
    cases r.closeMark <;> rfl
  have hdrop : ∀ n, byteAt (deliveryBytes r) (20 + n) = byteAt (bytesBE 2 r.rows ++ [deliveryCode r.outcome, 0]) n :=
    fun n => by rw [← byteAt_drop, drop_deliveryBytes]
  refine ⟨(h.be32 0 (by omega)).trans (long_at rfl), (h.be16 4 (by omega)).trans ?_,
    (h.be32 6 (by omega)).trans (long_at rfl), (h 10 (by omega)).trans (toNat_linkByte r.link),
    (h 11 (by omega)).trans (toNat_deliveryMarks r), (h.be32 12 (by omega)).trans (long_at rfl),
    (h.be32 16 (by omega)).trans (mark_at hclose), (h.be16 20 (by omega)).trans (be16_at (drop_deliveryBytes r)),
    (h 22 (by omega)).trans (hdrop 2), (h 23 (by omega)).trans (hdrop 3)⟩
  refine be16_index r.index _ 4 (rest := (deliveryBytes r).drop 6) ?_
  unfold deliveryBytes
  cases r.index <;> rfl

/-! ## The Page Log -/

theorem length_pageBytes (r : PageRecord) : (pageBytes r).length = 46 := rfl

theorem toNat_byteOf_bool (b : Bool) : (byteOf b.toNat).toNat = if b then 1 else 0 := by cases b <;> rfl

/-! ## The check -/

theorem checkBit_eq (c : BitVec 16) : checkBit c = if c.getLsbD 15 then (c <<< 1) ^^^ 0x1021 else c <<< 1 := by
  unfold checkBit
  rw [BitVec.msb_eq_getLsbD_last]

theorem checkOf_append (bs : List Byte) (b : Byte) :
    checkOf (bs ++ [b]) = Nat.iterate checkBit 8 (checkOf bs ^^^ (b.setWidth 16 <<< 8)) := by
  unfold checkOf
  rw [List.foldl_append]
  rfl

/-- The check of the digits 1 to 9. -/
theorem checkOf_digits : checkOf [0x31, 0x32, 0x33, 0x34, 0x35, 0x36, 0x37, 0x38, 0x39] = 0x29B1 := by
  have h1 : checkByte 0xFFFF 0x31 = 0xC782 := by decide
  have h2 : checkByte 0xC782 0x32 = 0x3DBA := by decide
  have h3 : checkByte 0x3DBA 0x33 = 0x5BCE := by decide
  have h4 : checkByte 0x5BCE 0x34 = 0x5349 := by decide
  have h5 : checkByte 0x5349 0x35 = 0x4560 := by decide
  have h6 : checkByte 0x4560 0x36 = 0x2EF4 := by decide
  have h7 : checkByte 0x2EF4 0x37 = 0x7718 := by decide
  have h8 : checkByte 0x7718 0x38 = 0xA12B := by decide
  have h9 : checkByte 0xA12B 0x39 = 0x29B1 := by decide
  unfold checkOf
  simp only [List.foldl_cons, List.foldl_nil, h1, h2, h3, h4, h5, h6, h7, h8, h9]

/-! ## Parcels -/

theorem length_headerBytes (kind code : Byte) (w : Wire) : (headerBytes kind code w).length = 8 := rfl

theorem toNat_markers (w : Wire) :
    (BitVec.ofNat 8 (w.address.toNat * 16 + markerBits w.last w.response w.poisoned w.nocheck)).toNat =
      w.address.toNat * 16 + (if w.last then 8 else 0) + (if w.response then 4 else 0)
        + (if w.poisoned then 2 else 0) + (if w.nocheck then 1 else 0) := by
  rw [markers_split _ _ (markerBits_lt _ _ _ _)]
  unfold markerBits
  cases w.last <;> cases w.response <;> cases w.poisoned <;> cases w.nocheck <;> rfl

/-- A parcel that the unit sends: its header, its payload and its check in their places (section 12.1). -/
structure SentLaid (d : List Byte) (kind markers tag : Nat) (a : BitVec 4) (payload : List Byte) :
    Prop where
  length : d.length = 10 + payload.length
  kind : byteAt d 0 = kind
  markers : byteAt d 1 = a.toNat * 16 + markers
  reserved : be16 d 2 = 0
  tag : be16 d 4 = tag
  size : be16 d 6 = payload.length % 65536
  check : be16 d (8 + payload.length) = (checkOf (d.take (8 + payload.length))).toNat
  stands : StandsAt d 8 payload
  cut : (d.drop 8).take payload.length = payload

theorem sentLaid (kind : Byte) (a : BitVec 4) (response poisoned : Bool) (tag : BitVec 16) (payload : List Byte) :
    SentLaid (sentParcel kind a response poisoned tag payload) kind.toNat
      ((if response then 4 else 0) + (if poisoned then 2 else 0)) tag.toNat a payload := by
  obtain ⟨w, hw⟩ : ∃ w : Wire, w =
      { address := a, last := false, response := response, poisoned := poisoned, nocheck := false, reserved := 0,
        tag := tag, lengthField := BitVec.ofNat 16 payload.length, payload := payload, check := 0 } := ⟨_, rfl⟩
  have hd : sentParcel kind a response poisoned tag payload =
      headerBytes kind 0 w ++ payload ++ bytesBE 2 (properCheck kind 0 w).toNat := by rw [hw]; rfl
  have hcheck : properCheck kind 0 w = checkOf (headerBytes kind 0 w ++ payload) := by rw [hw]; rfl
  have hhead : StandsAt (headerBytes kind 0 w ++ payload ++ bytesBE 2 (properCheck kind 0 w).toNat) 0
      (headerBytes kind 0 w) := by
    have := standsAt_append [] (headerBytes kind 0 w) (payload ++ bytesBE 2 (properCheck kind 0 w).toNat)
    rwa [List.nil_append, ← List.append_assoc] at this
  have hlen := length_headerBytes kind 0 w
  have hfront : (headerBytes kind 0 w ++ payload).length = 8 + payload.length := by
    rw [List.length_append, hlen]
  have hmark := toNat_markers w
  have htake : (headerBytes kind 0 w ++ payload ++ bytesBE 2 (properCheck kind 0 w).toNat).take (8 + payload.length) =
      headerBytes kind 0 w ++ payload := by
    rw [← hfront, List.take_left]
  have hend : (headerBytes kind 0 w ++ payload ++ bytesBE 2 (properCheck kind 0 w).toNat).drop (8 + payload.length) =
      bytesBE 2 (properCheck kind 0 w).toNat ++ [] := by
    rw [← hfront, List.drop_left, List.append_nil]
  rw [hd]
  refine ⟨?_, hhead 0 (by omega), ?_, (hhead.be16 2 (by omega)).trans ?_, (hhead.be16 4 (by omega)).trans ?_,
    (hhead.be16 6 (by omega)).trans ?_, ?_, ?_, ?_⟩
  · rw [List.length_append, hfront, length_bytesBE]
    omega
  · refine (hhead 1 (by omega)).trans (hmark.trans ?_)
    rw [hw]
    dsimp only
    rw [if_neg Bool.false_ne_true, if_neg Bool.false_ne_true]
    omega
  · rw [hw]
    simp [be16, byteAt, headerBytes]
  · rw [hw]
    exact word_at (n := 4) rfl
  · have hsize : be16 (headerBytes kind 0 w) 6 = w.lengthField.toNat := word_at (n := 6) rfl
    rw [hsize, hw]
    exact BitVec.toNat_ofNat ..
  · rw [htake, word_at hend, hcheck]
  · have hstands := standsAt_append (headerBytes kind 0 w) payload (bytesBE 2 (properCheck kind 0 w).toNat)
    rwa [hlen] at hstands
  · have hdrop := List.drop_left (l₁ := headerBytes kind 0 w)
      (l₂ := payload ++ bytesBE 2 (properCheck kind 0 w).toNat)
    rw [hlen] at hdrop
    rw [List.append_assoc, hdrop, List.take_left]

end Sys2Proof.Machine
end

section
/-!
The layouts of replies, read data, calls, notices and exchange pages together (chapter 12).
-/

namespace Sys2Proof.Machine

theorem unitStatus_laid (s : State) :
    (unitStatus s).getLsbD 0 = s.control.controlError ∧ (unitStatus s).getLsbD 1 = s.control.hallReceived
    ∧ ((unitStatus s).getLsbD 2 = true ↔ s.notices.inhibit = false
        ∧ ∃ k : NoticeKind, holdsKind s.notices.latched k = true ∧ holdsKind s.notices.enabled k = true)
    ∧ (unitStatus s).getLsbD 3 = (portOf s .a).quiet ∧ (unitStatus s).getLsbD 4 = (portOf s .b).quiet
    ∧ ((unitStatus s).getLsbD 5 = true ↔ s.scheduler.impression ≠ none)
    ∧ ((unitStatus s).getLsbD 6 = true ↔ s.store.freeCount < s.tables.settings.lowWater)
    ∧ ((unitStatus s).getLsbD 7 = true ↔ ∃ k n : Nat, s.press.hold = .holding k n) := by
  obtain ⟨h0, h1, h2, h3, h4, h5, h6, h7⟩ := statusBits s.control.controlError s.control.hallReceived (attention s)
    s.ports.a.quiet s.ports.b.quiet (running s) (storeLow s) (holding s)
  unfold unitStatus
  rw [h0, h1, h2, h3, h4, h5, h6, h7]
  exact ⟨rfl, rfl, attention_iff s, rfl, rfl, running_iff s, decide_eq_true_iff, holding_iff s⟩

/-- The counters of one link in their places (section 12.5). -/
theorem counterData_link (s : State) (l : Link) :
    be16 (counterData s) (14 * linkPlace l) = (portOf s l).counters.oversize.toNat
    ∧ be16 (counterData s) (14 * linkPlace l + 2) = (portOf s l).counters.checkError.toNat
    ∧ be16 (counterData s) (14 * linkPlace l + 4) = (portOf s l).counters.unknownKind.toNat
    ∧ be16 (counterData s) (14 * linkPlace l + 6) = (portOf s l).counters.misaddressed.toNat
    ∧ be16 (counterData s) (14 * linkPlace l + 8) = (portOf s l).counters.stray.toNat
    ∧ be16 (counterData s) (14 * linkPlace l + 10) = (portOf s l).counters.restarts.toNat
    ∧ be16 (counterData s) (14 * linkPlace l + 12) = (slotOf s l).superseded.toNat
    ∧ byteAt (counterData s) (34 + linkPlace l) = (linkStateByte (portOf s l).state).toNat := by
  cases l
  · exact ⟨word_at rfl, word_at rfl, word_at rfl, word_at rfl, word_at rfl, word_at rfl, word_at rfl, rfl⟩
  · exact ⟨word_at rfl, word_at rfl, word_at rfl, word_at rfl, word_at rfl, word_at rfl, word_at rfl, rfl⟩

/-! ## READ QUEUE -/

section
variable {s : State}

theorem standsAt_queueLead (hq : s.scheduler.queue.length ≤ 16) : StandsAt (queueData s) 0 (queueLead s) := by
  have hlead := length_queueLead s
  intro k hk
  rw [queueData_eq, byteAt_padTo, Nat.zero_add, byteAt_append_left _ hk]
  rw [List.length_append, length_flatMap_const length_orderEntry]
  omega

theorem queueLead_laid (hq : s.scheduler.queue.length ≤ 16) :
    byteAt (queueData s) 1 = s.scheduler.queue.length ∧ byteAt (queueData s) 3 = 0 := by
  have h := standsAt_queueLead hq
  have hlead := length_queueLead s
  have hcount : (byteOf s.scheduler.queue.length).toNat = s.scheduler.queue.length := toNat_byteOf_of_lt (by omega)
  have h1 := h 1 (by omega)
  have h3 := h 3 (by omega)
  cases hc : s.scheduler.impression with
  | none =>
    rw [queueLead_none hc] at h1 h3
    exact ⟨h1.trans hcount, h3⟩
  | some c =>
    rw [queueLead_some hc] at h1 h3
    exact ⟨h1.trans hcount, h3⟩

theorem queueLead_idle (hq : s.scheduler.queue.length ≤ 16) (hc : s.scheduler.impression = none) :
    byteAt (queueData s) 0 = 0 ∧ byteAt (queueData s) 2 = 0 ∧ be48 (queueData s) 4 = 0
      ∧ be48 (queueData s) 10 = 0 := by
  have h := standsAt_queueLead hq
  have hlead := length_queueLead s
  have h4 := h.be48 4 (by omega)
  have h10 := h.be48 10 (by omega)
  have h0 := h 0 (by omega)
  have h2 := h 2 (by omega)
  rw [queueLead_none hc] at h0 h2 h4 h10
  exact ⟨h0, h2, h4.trans (by simp [be48, be32, be16, byteAt, zeroBytes, List.replicate]),
    h10.trans (by simp [be48, be32, be16, byteAt, zeroBytes, List.replicate])⟩

theorem queueLead_running {c : Impression} (hq : s.scheduler.queue.length ≤ 16)
    (hc : s.scheduler.impression = some c) :
    byteAt (queueData s) 0 = 1 ∧ byteAt (queueData s) 2 = c.copy % 256 ∧ be48 (queueData s) 4 = c.start.toNat
      ∧ be48 (queueData s) 10 = c.endLine.toNat := by
  have h := standsAt_queueLead hq
  have hlead := length_queueLead s
  have h4 := h.be48 4 (by omega)
  have h10 := h.be48 10 (by omega)
  have h0 := h 0 (by omega)
  have h2 := h 2 (by omega)
  rw [queueLead_some hc] at h0 h2 h4 h10
  exact ⟨h0, h2.trans (toNat_byteOf _), h4.trans (line_at rfl), h10.trans (line_at (rest := []) rfl)⟩

theorem standsAt_orderEntry (hq : s.scheduler.queue.length ≤ 16) {j : Nat} {o : Order}
    (ho : s.scheduler.queue[j]? = some o) : StandsAt (queueData s) (16 + 14 * j) (orderEntry o) := by
  have hlead := length_queueLead s
  have h := standsAt_padded (n := 240) (queueLead s) length_orderEntry (by omega) ho
  rwa [hlead, ← queueData_eq] at h

end

theorem orderEntry_laid {d : List Byte} {a : Nat} {o : Order} (h : StandsAt d a (orderEntry o)) :
    be16 d a = o.tag.toNat ∧ byteAt d (a + 2) = o.plan.val
    ∧ byteAt d (a + 3) = orderStateCode o.state + (if o.rush then 16 else 0)
    ∧ byteAt d (a + 4) = o.copies % 256 ∧ byteAt d (a + 5) = o.done % 256
    ∧ be16 d (a + 6) = countDecision .undecided o.decisions % 65536
    ∧ be16 d (a + 8) = countDecision .placed o.decisions % 65536
    ∧ be16 d (a + 10) = countDecision .absent o.decisions % 65536
    ∧ be16 d (a + 12) = countDecision .withheld o.decisions % 65536 := by
  have hlen := length_orderEntry o
  exact ⟨(h.be16 0 (by omega)).trans (word_at rfl), (h 2 (by omega)).trans (toNat_byteOf_of_lt (by omega)),
    (h 3 (by omega)).trans (toNat_orderStateByte o), (h 4 (by omega)).trans (toNat_byteOf _),
    (h 5 (by omega)).trans (toNat_byteOf _), (h.be16 6 (by omega)).trans (be16_at rfl),
    (h.be16 8 (by omega)).trans (be16_at rfl), (h.be16 10 (by omega)).trans (be16_at rfl),
    (h.be16 12 (by omega)).trans (be16_at (rest := []) rfl)⟩

/-! ## READ DIRECTORY -/

theorem standsAt_heldBytes (s : State) (i : RosterIndex) :
    StandsAt (directoryData s i) 6 (heldBytes (entryOf s i).held) :=
  standsAt_append (bytesBE 2 i.val ++ bytesBE 4 (recordOf s i).studentId.toNat) (heldBytes (entryOf s i).held)
    (incomingBytes (entryOf s i).incoming)

theorem standsAt_incomingBytes (s : State) (i : RosterIndex) :
    StandsAt (directoryData s i) 152 (incomingBytes (entryOf s i).incoming) := by
  have h := standsAt_append
    (bytesBE 2 i.val ++ bytesBE 4 (recordOf s i).studentId.toNat ++ heldBytes (entryOf s i).held)
    (incomingBytes (entryOf s i).incoming) []
  rw [List.append_nil] at h
  have hlen : (bytesBE 2 i.val ++ bytesBE 4 (recordOf s i).studentId.toNat
      ++ heldBytes (entryOf s i).held).length = 152 := by
    simp only [List.length_append, length_bytesBE, length_heldBytes]
  rwa [hlen] at h

theorem directoryData_head (s : State) (i : RosterIndex) :
    be16 (directoryData s i) 0 = i.val ∧ be32 (directoryData s i) 2 = (recordOf s i).studentId.toNat :=
  ⟨(be16_at (rest := (directoryData s i).drop 2) rfl).trans (Nat.mod_eq_of_lt (by omega)),
    long_at (rest := heldBytes (entryOf s i).held ++ incomingBytes (entryOf s i).incoming) rfl⟩

/-! ## The logs -/

theorem pageBytes_laid {d : List Byte} {a : Nat} {r : PageRecord} (h : StandsAt d a (pageBytes r)) :
    be32 d a = r.sequence.toNat ∧ be16 d (a + 4) = r.tag.toNat ∧ byteAt d (a + 6) = r.plan.val
    ∧ byteAt d (a + 7) = r.copy % 256 ∧ be48 d (a + 8) = r.start.toNat ∧ be48 d (a + 14) = r.endLine.toNat
    ∧ be16 d (a + 20) = r.placed % 65536 ∧ be16 d (a + 22) = r.absent % 65536
    ∧ be16 d (a + 24) = r.withheld % 65536 ∧ be16 d (a + 26) = r.late % 65536
    ∧ be16 d (a + 28) = r.clamped % 65536 ∧ be16 d (a + 30) = r.margins % 65536
    ∧ be16 d (a + 32) = r.truncated % 65536 ∧ be16 d (a + 34) = r.missing % 65536
    ∧ be16 d (a + 36) = r.filled % 65536 ∧ be16 d (a + 38) = r.heldBands % 65536
    ∧ byteAt d (a + 40) = (if r.withholdPending then 1 else 0) ∧ byteAt d (a + 41) = 0
    ∧ be32 d (a + 42) = r.mark.toNat := by
  have hlen := length_pageBytes r
  have word : ∀ {n v rest}, n + 2 ≤ 46 → (pageBytes r).drop n = bytesBE 2 v ++ rest → be16 d (a + n) = v % 65536 :=
    fun {n _ _} hn hv => (h.be16 n (by omega)).trans (be16_at hv)
  exact ⟨(h.be32 0 (by omega)).trans (long_at rfl), (h.be16 4 (by omega)).trans (word_at rfl),
    (h 6 (by omega)).trans (toNat_byteOf_of_lt (by omega)), (h 7 (by omega)).trans (toNat_byteOf _),
    (h.be48 8 (by omega)).trans (line_at rfl), (h.be48 14 (by omega)).trans (line_at rfl),
    word (by decide) rfl, word (by decide) rfl, word (by decide) rfl, word (by decide) rfl, word (by decide) rfl,
    word (by decide) rfl, word (by decide) rfl, word (by decide) rfl, word (by decide) rfl, word (by decide) rfl,
    (h 40 (by omega)).trans (toNat_byteOf_bool _), h 41 (by omega),
    (h.be32 42 (by omega)).trans (long_at (rest := []) rfl)⟩

/-! ## Calls, notices and pages -/

theorem callPayload_laid {d : List Byte} (c : CallParcel) (h : StandsAt d 8 (callPayload c)) :
    be32 d 8 = c.studentId.toNat ∧ be16 d 12 = c.index.val ∧ be16 d 14 = c.tag.toNat
      ∧ be48 d 16 = c.due.toNat ∧ be48 d 22 = c.remaining.toNat ∧ be32 d 28 = c.mark.toNat
      ∧ byteAt d 32 = c.rank % 256 ∧ byteAt d 33 = 0 := by
  have hlen : (callPayload c).length = 26 := rfl
  exact ⟨(h.be32 0 (by omega)).trans (long_at rfl),
    (h.be16 4 (by omega)).trans ((be16_at rfl).trans (Nat.mod_eq_of_lt (by omega))),
    (h.be16 6 (by omega)).trans (word_at rfl), (h.be48 8 (by omega)).trans (line_at rfl),
    (h.be48 14 (by omega)).trans (line_at rfl), (h.be32 20 (by omega)).trans (long_at rfl),
    (h 24 (by omega)).trans (toNat_byteOf _), h 25 (by omega)⟩

theorem noticePayload_laid {d : List Byte} (n : Notice) (h : StandsAt d 8 (noticePayload n)) :
    be16 d 8 = n.kinds.toNat ∧ be32 d 10 = n.mark.toNat := by
  have hlen : (noticePayload n).length = 6 := rfl
  exact ⟨(h.be16 0 (by omega)).trans ((be16_at rfl).trans (Nat.mod_eq_of_lt (n.kinds.isLt.trans (by decide)))),
    (h.be32 2 (by omega)).trans (long_at (rest := []) rfl)⟩

theorem length_unitPagePayload (a : BitVec 4) (p : UnitPage) : (unitPagePayload a p).length = 8 := by
  cases p <;> rfl

theorem abilityPage_laid {d : List Byte} (a : BitVec 4) (acknowledge : Bool)
    (h : StandsAt d 8 (unitPagePayload a (.ability acknowledge))) :
    byteAt d 8 = 0 ∧ byteAt d 9 = 1 ∧ byteAt d 10 = a.toNat ∧ byteAt d 11 = 2 ∧ be16 d 12 = 4096
      ∧ byteAt d 14 = (if acknowledge then 2 else 0) ∧ byteAt d 15 = 0 := by
  have hlen := length_unitPagePayload a (.ability acknowledge)
  have hack : (byteOf (acknowledge.toNat * 2)).toNat = if acknowledge then 2 else 0 := by cases acknowledge <;> rfl
  have ha := a.isLt
  exact ⟨h 0 (by omega), h 1 (by omega), (h 2 (by omega)).trans (toNat_byteOf_of_lt (by omega)), h 3 (by omega),
    (h.be16 4 (by omega)).trans ((be16_at (v := 4096) rfl).trans (by decide)), (h 6 (by omega)).trans hack, h 7 (by omega)⟩

theorem answerPage_laid {d : List Byte} (a : BitVec 4) (message comply toggle : Bool) (code : Byte) (argument : Nat)
    (h : StandsAt d 8 (unitPagePayload a (.answer message comply toggle code argument))) :
    byteAt d 8 = 1
      ∧ byteAt d 9 = 2 + (if message then 4 else 0) + (if comply then 8 else 0) + (if toggle then 16 else 0)
      ∧ byteAt d 10 = code.toNat ∧ byteAt d 11 = 0 ∧ be16 d 12 = argument % 65536 ∧ be16 d 14 = 0 := by
  have hlen := length_unitPagePayload a (.answer message comply toggle code argument)
  have hflags : (byteOf (2 + message.toNat * 4 + comply.toNat * 8 + toggle.toNat * 16)).toNat =
      2 + (if message then 4 else 0) + (if comply then 8 else 0) + (if toggle then 16 else 0) := by
    cases message <;> cases comply <;> cases toggle <;> rfl
  exact ⟨h 0 (by omega), (h 1 (by omega)).trans hflags, h 2 (by omega), h 3 (by omega),
    (h.be16 4 (by omega)).trans (be16_at rfl),
    (h.be16 6 (by omega)).trans (by simp [be16, byteAt, unitPagePayload, bytesBE])⟩

end Sys2Proof.Machine
end

section
/-!
The obligation on layouts, assembled from the records and parcels (chapter 12).
-/

namespace Sys2Proof.Machine

/-- Settles O53: each record laid out by its own lemma, and its place in the data by `StandsAt`. -/
theorem repliesAndParcelsAreLaidOut : Obligations.RepliesAndParcelsAreLaidOut := by
  unfold Obligations.RepliesAndParcelsAreLaidOut
  intro linkAt
  have hlink : ∀ l, linkAt l = linkPlace l := fun l => by cases l <;> rfl
  refine ⟨unitStatus_laid, ⟨by decide, fun l => (toNat_linkByte l).trans (hlink l).symm⟩, fun s => ?_, fun s hq => ?_,
    fun s i => ?_, fun rs hn => ?_, fun rs hn => ?_, fun kinds k => ?_, ?_, fun kind code w => ?_, fun a => ?_⟩
  · refine ⟨length_counterData s, fun l => ?_, word_at rfl, be16_at rfl, be16_at rfl⟩
    rw [hlink]
    obtain ⟨h0, h2, h4, h6, h8, h10, h12, hstate⟩ := counterData_link s l
    refine ⟨h0, h2, h4, h6, h8, h10, h12, hstate.trans ?_⟩
    cases (portOf s l).state <;> rfl
  · obtain ⟨hcount, hzero⟩ := queueLead_laid hq
    refine ⟨length_queueData s, hcount, hzero, queueLead_idle hq, fun c hc => queueLead_running hq hc, fun j o ho => ?_,
      fun k hk => ?_⟩
    · obtain ⟨htag, hplan, hstate, hrest⟩ := orderEntry_laid (standsAt_orderEntry hq ho)
      refine ⟨htag, hplan, hstate.trans ?_, hrest⟩
      cases o.state <;> rfl
    · have hlead := length_queueLead s
      rw [queueData_eq]
      exact byteAt_padded_behind (queueLead s) length_orderEntry (by omega) (by omega)
  · intro d laid
    have hlaid : ∀ {at_ state lock v}, VersionLaid d at_ state lock v → laid at_ state lock v :=
      fun {at_ state lock v} h => by
        refine ⟨h.state, h.marks, h.lock, h.session, h.width, h.height, h.eyeRow, h.centreColumn, h.headHeight, h.rows,
          h.origin.trans (hlink _).symm, h.count, h.openMark, h.closeMark.trans ?_, h.blocks⟩
        cases v.closeMark <;> rfl
    obtain ⟨hindex, hid⟩ := directoryData_head s i
    have hheld := standsAt_heldBytes s i
    have hincoming := standsAt_incomingBytes s i
    refine ⟨length_directoryData s i, hindex, hid, fun hn k hk => ?_, fun h hh => ?_, fun hn k hk => ?_, fun v hv => ?_⟩
    · rw [hn] at hheld
      exact (hheld k (hk.trans_eq (length_heldBytes none).symm)).trans (byteAt_zeroBytes 146 k)
    · rw [hh] at hheld
      obtain ⟨v, state, lock⟩ := h
      cases state
      · exact hlaid (versionLaid (state := 1) (by decide) hheld)
      · exact hlaid (versionLaid (state := 2) (by decide) hheld)
    · rw [hn] at hincoming
      exact (hincoming k (hk.trans_eq (length_incomingBytes none).symm)).trans (byteAt_zeroBytes 146 k)
    · rw [hv] at hincoming
      obtain ⟨v, state⟩ := v
      cases state
      · exact hlaid (versionLaid (state := 3) (by decide) hincoming)
      · exact hlaid (versionLaid (state := 4) (by decide) hincoming)
  · refine ⟨length_padTo 193 _, ?_, fun j r hr => ?_, fun k hk => ?_⟩
    · show (byteOf rs.length).toNat = _
      exact toNat_byteOf_of_lt (by omega)
    · have hat := standsAt_padded (n := 193) [byteOf rs.length] length_deliveryBytes
        (by rw [List.length_singleton]; omega) hr
      have h := deliveryLaid hat
      refine ⟨h.sequence, h.index.trans ?_, h.studentId, h.link.trans (hlink _).symm, h.marks, h.openMark,
        h.closeMark.trans ?_, h.rows, h.outcome.trans ?_, h.reserved⟩
      · cases r.index <;> rfl
      · cases r.closeMark <;> rfl
      · obtain _ | o := r.outcome
        · rfl
        · cases o <;> rfl
    · exact byteAt_padded_behind [byteOf rs.length] length_deliveryBytes (by rw [List.length_singleton]; omega)
        (by rw [List.length_singleton]; exact hk)
  · refine ⟨length_padTo 185 _, ?_, fun j r hr => ?_, fun k hk => ?_⟩
    · show (byteOf rs.length).toNat = _
      exact toNat_byteOf_of_lt (by omega)
    · exact pageBytes_laid (standsAt_padded (n := 185) [byteOf rs.length] length_pageBytes
        (by rw [List.length_singleton]; omega) hr)
    · exact byteAt_padded_behind [byteOf rs.length] length_pageBytes (by rw [List.length_singleton]; omega)
        (by rw [List.length_singleton]; exact hk)
  · rw [holdsKind_eq_getLsbD]
    cases k <;> rfl
  · intro shifted
    have hshift : shifted = checkBit := funext fun c => (checkBit_eq c).symm
    rw [hshift]
    exact ⟨rfl, checkOf_append, checkOf_digits⟩
  · refine ⟨headerBytes kind code w, rfl, rfl, toNat_markers w, rfl, rfl, word_at rfl, word_at (rest := []) rfl, rfl⟩
  · intro sent
    have hsent : ∀ {d kind markers tag payload}, SentLaid d kind markers tag a payload →
        sent d kind markers tag payload.length := fun h =>
      ⟨h.length, h.kind, h.markers, h.reserved, h.tag, h.size, h.check⟩
    refine ⟨fun r => ?_, fun c => ?_, fun n => ?_, fun p => ?_⟩
    · have h := sentLaid 5 a true r.poisoned r.tag r.payload
      have hmarkers : (if true = true then 4 else 0) + (if r.poisoned = true then 2 else 0) =
          if r.poisoned then 6 else 4 := by cases r.poisoned <;> rfl
      rw [hmarkers] at h
      exact ⟨hsent h, h.cut⟩
    · have h := sentLaid 6 a false false 0 (callPayload c)
      exact ⟨hsent h, callPayload_laid c h.stands⟩
    · have h := sentLaid 7 a false false 0 (noticePayload n)
      exact ⟨hsent h, noticePayload_laid n h.stands⟩
    · have h := sentLaid 8 a false false 0 (unitPagePayload a p)
      have hlen := length_unitPagePayload a p
      refine ⟨?_, fun acknowledge hp => ?_, fun message comply toggle code argument hp => ?_⟩
      · have hp := hsent h
        rw [hlen] at hp
        exact hp
      · subst hp
        exact abilityPage_laid a acknowledge h.stands
      · subst hp
        exact answerPage_laid a message comply toggle code argument h.stands

end Sys2Proof.Machine
end

section
/-!
Placed pixels: the sample point, its weights and the blend, and the stored pixels around it (chapter 6).
-/

namespace Sys2Proof.Machine

/-! ## The blend -/

/-- The four weights share out 256. -/
theorem weights_sum {wx wy : Nat} (hx : wx ≤ 16) (hy : wy ≤ 16) :
    (16 - wx) * (16 - wy) + wx * (16 - wy) + (16 - wx) * wy + wx * wy = 256 := by
  calc (16 - wx) * (16 - wy) + wx * (16 - wy) + (16 - wx) * wy + wx * wy
      = (16 - wx + wx) * (16 - wy + wy) := by ring
    _ = 256 := by rw [Nat.sub_add_cancel hx, Nat.sub_add_cancel hy]

theorem blend_lt {wx wy a b c d : Nat} (hx : wx ≤ 16) (hy : wy ≤ 16) (ha : a ≤ 255) (hb : b ≤ 255) (hc : c ≤ 255)
    (hd : d ≤ 255) : blend wx wy a b c d < 256 := by
  have hsum := weights_sum hx hy
  have h1 := Nat.mul_le_mul_left ((16 - wx) * (16 - wy)) ha
  have h2 := Nat.mul_le_mul_left (wx * (16 - wy)) hb
  have h3 := Nat.mul_le_mul_left ((16 - wx) * wy) hc
  have h4 := Nat.mul_le_mul_left (wx * wy) hd
  unfold blend
  omega

/-- Equal neighbours give their value back. -/
theorem blend_self {wx wy : Nat} (hx : wx ≤ 16) (hy : wy ≤ 16) (a : Nat) : blend wx wy a a a a = a := by
  have hsum : (16 - wx) * (16 - wy) * a + wx * (16 - wy) * a + (16 - wx) * wy * a + wx * wy * a = 256 * a := by
    rw [← Nat.add_mul, ← Nat.add_mul, ← Nat.add_mul, weights_sum hx hy]
  unfold blend
  rw [hsum]
  omega

/-- A point on a stored pixel takes that pixel. -/
theorem blend_zero (a b c d : Nat) : blend 0 0 a b c d = a := by
  unfold blend
  omega

theorem blendPixels_self {wx wy : Nat} (hx : wx ≤ 16) (hy : wy ≤ 16) (c : Pixel) : blendPixels wx wy c c c c = c := by
  unfold blendPixels
  rw [blend_self hx hy, blend_self hx hy, blend_self hx hy]
  simp

theorem blendPixels_zero (a b c d : Pixel) : blendPixels 0 0 a b c d = a := by
  unfold blendPixels
  rw [blend_zero, blend_zero, blend_zero]
  simp

theorem blendPixels_channels {wx wy : Nat} (hx : wx ≤ 16) (hy : wy ≤ 16) (a b c d : Pixel) :
    (blendPixels wx wy a b c d).r.toNat = blend wx wy a.r.toNat b.r.toNat c.r.toNat d.r.toNat
    ∧ (blendPixels wx wy a b c d).g.toNat = blend wx wy a.g.toNat b.g.toNat c.g.toNat d.g.toNat
    ∧ (blendPixels wx wy a b c d).b.toNat = blend wx wy a.b.toNat b.b.toNat c.b.toNat d.b.toNat := by
  have hbyte : ∀ p q u v : Byte, (BitVec.ofNat 8 (blend wx wy p.toNat q.toNat u.toNat v.toNat)).toNat =
      blend wx wy p.toNat q.toNat u.toNat v.toNat := fun p q u v => by
    rw [BitVec.toNat_ofNat]
    exact Nat.mod_eq_of_lt (blend_lt hx hy (Nat.le_of_lt_succ p.isLt) (Nat.le_of_lt_succ q.isLt)
      (Nat.le_of_lt_succ u.isLt) (Nat.le_of_lt_succ v.isLt))
  exact ⟨hbyte _ _ _ _, hbyte _ _ _ _, hbyte _ _ _ _⟩

/-! ## The sample -/

/-- Where a coordinate lies: its stored pixel and the sixteenth of it. -/
theorem weightOf_eq {x : Int} {n w : Nat} (h1 : (n : Int) * 4096 + w * 256 ≤ x)
    (h2 : x < (n : Int) * 4096 + (w + 1) * 256) (hw : w ≤ 15) : (x / 4096).toNat = n ∧ weightOf x = w := by
  unfold weightOf
  omega

theorem samplePixel_eq (m : List Host.Cell) (v : Version) {pt : Int × Int} {xi yi wx wy : Nat}
    (hx : (pt.1 / 4096).toNat = xi ∧ weightOf pt.1 = wx) (hy : (pt.2 / 4096).toNat = yi ∧ weightOf pt.2 = wy) :
    samplePixel m v pt = blendPixels wx wy (storedPixel m v xi yi)
      (storedPixel m v (min (xi + 1) (v.width - 1)) yi) (storedPixel m v xi (min (yi + 1) (v.height - 1)))
      (storedPixel m v (min (xi + 1) (v.width - 1)) (min (yi + 1) (v.height - 1))) := by
  obtain ⟨hx, hwx⟩ := hx
  obtain ⟨hy, hwy⟩ := hy
  unfold samplePixel
  rw [hx, hy, hwx, hwy]

theorem isMargin_eq (v : Version) (x y : Int) : isMargin v (x, y) = true ↔
    x < 0 ∨ y < 0 ∨ (v.width : Int) * 4096 ≤ x ∨ (v.height : Int) * 4096 ≤ y := by
  unfold isMargin
  rw [decide_eq_true_iff]
  dsimp only
  omega

theorem placedPixel_margin {m : List Host.Cell} {v : Version} {r : Row} {q : Placement} {i j : Nat}
    (h : isMargin v (samplePoint q i j) = true) : placedPixel m v r q i j = r.margin := if_pos h

theorem placedPixel_sample {m : List Host.Cell} {v : Version} {r : Row} {q : Placement} {i j : Nat}
    (h : ¬isMargin v (samplePoint q i j) = true) :
    placedPixel m v r q i j = samplePixel m v (samplePoint q i j) := if_neg h

/-- The cell's middle column on its eye line samples the version's centre column and eye row. -/
theorem samplePoint_middle (n : Nat) (x : Seat) (r : Row) (v : Version) :
    samplePoint (placementOf n x r v) (x.width / 2) r.eyeOffset =
      ((v.centreColumn : Int) * 4096, (v.eyeRow : Int) * 4096) := by
  unfold samplePoint placementOf originX originY
  dsimp only
  push_cast
  rw [sub_add_cancel, sub_add_cancel]

/-! ## Bytes of a version -/

theorem tileAddress_of_block {blocks : List Nat} {n b : Nat} (h : blocks[n / 65536]? = some b) :
    tileAddress blocks n = some (b * 65536 + n % 65536) := by
  unfold tileAddress Config.blockBytes
  rw [h]
  rfl

/-- Settles O59: the weights and the blend of a sample, the placement record, and the address of a stored byte. -/
theorem placedPixelIsAWeightedMean : Obligations.PlacedPixelIsAWeightedMean := by
  refine ⟨fun m v r q i j _ _ => ?_, fun m v r x n hc he => ?_, fun n x r v => ?_, fun m v px py => rfl,
    fun m blocks n => ⟨fun b hb => ⟨tileAddress_of_block hb, ?_⟩, fun hle => ?_⟩⟩
  · intro x y pixel outside
    have hmargin : isMargin v (samplePoint q i j) = true ↔ outside := isMargin_eq v x y
    refine ⟨fun hout => placedPixel_margin (hmargin.2 hout), fun hin xi yi wx wy hx1 hx2 hwx hy1 hy2 hwy => ?_⟩
    have hwx' : wx ≤ 16 := Nat.le_succ_of_le hwx
    have hwy' : wy ≤ 16 := Nat.le_succ_of_le hwy
    have hpixel : pixel = blendPixels wx wy (storedPixel m v xi yi)
        (storedPixel m v (min (xi + 1) (v.width - 1)) yi) (storedPixel m v xi (min (yi + 1) (v.height - 1)))
        (storedPixel m v (min (xi + 1) (v.width - 1)) (min (yi + 1) (v.height - 1))) :=
      (placedPixel_sample fun h => hin (hmargin.1 h)).trans
        (samplePixel_eq m v (weightOf_eq hx1 hx2 hwx) (weightOf_eq hy1 hy2 hwy))
    have hxin : x < (v.width : Int) * 4096 := by
      by_contra h
      exact hin (.inr (.inr (.inl (not_lt.1 h))))
    have hyin : y < (v.height : Int) * 4096 := by
      by_contra h
      exact hin (.inr (.inr (.inr (not_lt.1 h))))
    intro x1 y1 mean
    rw [hpixel]
    obtain ⟨hr, hg, hb⟩ := blendPixels_channels hwx' hwy' (storedPixel m v xi yi) (storedPixel m v x1 yi)
      (storedPixel m v xi y1) (storedPixel m v x1 y1)
    refine ⟨by omega, by omega, hr, hg, hb, fun c h1 h2 h3 h4 => ?_⟩
    rw [h1, h2, h3, h4, blendPixels_self hwx' hwy']
  · have hpoint := samplePoint_middle n x r v
    have hin : ¬isMargin v (samplePoint (placementOf n x r v) (x.width / 2) r.eyeOffset) = true := by
      rw [hpoint, isMargin_eq]
      omega
    rw [placedPixel_sample hin, hpoint,
      samplePixel_eq m v (weightOf_eq (n := v.centreColumn) (w := 0) (by simp) (by simp) (by decide))
        (weightOf_eq (n := v.eyeRow) (w := 0) (by simp) (by simp) (by decide)), blendPixels_zero]
  · refine ⟨rfl, rfl, rfl, decide_eq_true_iff, ?_, ?_, rfl⟩
    · unfold placementOf originX
      push_cast
      rfl
    · unfold placementOf originY
      push_cast
      rfl
  · unfold readVersion
    rw [tileAddress_of_block hb]
  · unfold tileAddress Config.blockBytes
    rw [List.getElem?_eq_none hle]
    rfl

end Sys2Proof.Machine
end

section
/-!
Captions: resolution, the longest run from the front that fits, and the pixels of a strip (chapter 7.2).
-/

namespace Sys2Proof.Machine

/-! ## Resolution -/

theorem glyphOf_of_mem {g : GlyphSet} {n : Nat} {y : Glyph} (hg : (g.glyphs.map Prod.fst).Nodup)
    (h : (n, y) ∈ g.glyphs) : glyphOf g n = some y := by
  have hfind : g.glyphs.find? (fun e => decide (e.1 = n)) ≠ none := fun hnone =>
    absurd (List.find?_eq_none.1 hnone _ h) (by simp)
  obtain ⟨⟨m, z⟩, he⟩ := Option.ne_none_iff_exists'.1 hfind
  have hm : m = n := of_decide_eq_true (List.find?_some (p := fun e : Nat × Glyph => decide (e.1 = n)) he)
  subst hm
  have hz : (m, z) = (m, y) := List.inj_on_of_nodup_map hg (List.mem_of_find?_eq_some he) h rfl
  unfold glyphOf
  rw [he, hz]
  rfl

theorem glyphOf_of_lacks {g : GlyphSet} {n : Nat} (h : ∀ y : Glyph, (n, y) ∉ g.glyphs) : glyphOf g n = none := by
  unfold glyphOf
  rw [Option.map_eq_none_iff, List.find?_eq_none]
  rintro ⟨m, y⟩ he hm
  have := of_decide_eq_true hm
  dsimp only at this
  subst this
  exact h y he

section
variable {g : GlyphSet} {code : Byte} {y : Glyph}

theorem resolveCode_own (h : glyphOf g code.toNat = some y) : resolveCode (some g) code = some (y, false) := by
  unfold resolveCode
  dsimp only
  rw [h]

theorem resolveCode_delete (h : glyphOf g code.toNat = none) (hd : glyphOf g 127 = some y) :
    resolveCode (some g) code = some (y, true) := by
  unfold resolveCode
  dsimp only
  rw [h, hd]

theorem resolveCode_space (h : glyphOf g code.toNat = none) (hd : glyphOf g 127 = none) (hs : glyphOf g 32 = some y) :
    resolveCode (some g) code = some (y, true) := by
  unfold resolveCode
  dsimp only
  rw [h, hd, hs]

theorem resolveCode_none (h : glyphOf g code.toNat = none) (hd : glyphOf g 127 = none) (hs : glyphOf g 32 = none) :
    resolveCode (some g) code = none := by
  unfold resolveCode
  dsimp only
  rw [h, hd, hs]

end

theorem resolveText_cons_eq_some (g : Option GlyphSet) (code : Byte) (text : List Byte) (xs : List (Glyph × Bool)) :
    resolveText g (code :: text) = some xs ↔
      ∃ x rest, xs = x :: rest ∧ resolveCode g code = some x ∧ resolveText g text = some rest := by
  conv_lhs => unfold resolveText
  cases resolveCode g code <;> cases resolveText g text <;> simp [eq_comm]

theorem resolveText_cons_eq_none (g : Option GlyphSet) (code : Byte) (text : List Byte) :
    resolveText g (code :: text) = none ↔ resolveCode g code = none ∨ resolveText g text = none := by
  conv_lhs => unfold resolveText
  cases resolveCode g code <;> cases resolveText g text <;> simp

theorem resolveText_eq_none (g : Option GlyphSet) (text : List Byte) :
    resolveText g text = none ↔ ∃ code ∈ text, resolveCode g code = none := by
  induction text with
  | nil => simp [resolveText]
  | cons code text ih => rw [resolveText_cons_eq_none, ih, List.exists_mem_cons_iff]

theorem resolveText_eq_some (g : Option GlyphSet) (text : List Byte) (xs : List (Glyph × Bool)) :
    resolveText g text = some xs ↔
      xs.length = text.length ∧ ∀ (k : Nat) (code : Byte), text[k]? = some code → resolveCode g code = xs[k]? := by
  induction text generalizing xs with
  | nil =>
    unfold resolveText
    rw [Option.some.injEq, eq_comm, List.length_nil, List.length_eq_zero_iff]
    simp
  | cons code text ih =>
    rw [resolveText_cons_eq_some]
    constructor
    · rintro ⟨x, rest, rfl, hx, hrest⟩
      obtain ⟨hlen, hall⟩ := (ih rest).1 hrest
      refine ⟨congrArg Nat.succ hlen, fun k c hc => ?_⟩
      cases k with
      | zero =>
        rw [List.getElem?_cons_zero, Option.some.injEq] at hc
        rw [← hc, List.getElem?_cons_zero, hx]
      | succ k => exact hall k c hc
    · rintro ⟨hlen, hall⟩
      obtain ⟨x, rest, rfl⟩ := List.exists_cons_of_length_eq_add_one hlen
      exact ⟨x, rest, rfl, hall 0 code rfl,
        (ih rest).2 ⟨Nat.succ_inj.1 hlen, fun k c hc => hall (k + 1) c hc⟩⟩

/-! ## The longest run from the front that fits -/

/-- The width of the first glyphs of a run. -/
def frontWidth (tracking : Nat) (gs : List Glyph) (k : Nat) : Nat :=
  ((gs.take k).map Glyph.advance).sum + tracking * (k - 1)

theorem runWidth_take (tracking : Nat) {gs : List Glyph} {k : Nat} (h : k ≤ gs.length) :
    runWidth tracking (gs.take k) = frontWidth tracking gs k := by
  unfold runWidth frontWidth
  rw [List.length_take, Nat.min_eq_left h]

theorem frontWidth_succ (tracking : Nat) {gs : List Glyph} {k : Nat} (h : k < gs.length) :
    frontWidth tracking gs (k + 1) =
      frontWidth tracking gs k + gs[k].advance + (if k = 0 then 0 else tracking) := by
  unfold frontWidth
  rw [List.take_succ_eq_append_getElem h, List.map_append, List.sum_append]
  cases k with
  | zero => simp
  | succ k =>
    rw [if_neg (Nat.succ_ne_zero k), Nat.add_sub_cancel, Nat.add_sub_cancel, Nat.mul_succ]
    simp only [List.map_cons, List.map_nil, List.sum_cons, List.sum_nil]
    omega

theorem frontWidth_mono (tracking : Nat) {gs : List Glyph} {j k : Nat} (h : j ≤ k) (hk : k ≤ gs.length) :
    frontWidth tracking gs j ≤ frontWidth tracking gs k := by
  induction k, h using Nat.le_induction with
  | base => exact Nat.le_refl _
  | succ k _ ih =>
    rw [frontWidth_succ tracking hk]
    exact (ih (Nat.le_of_lt hk)).trans (by omega)

/-- The run that fits: it is within the width, and every longer one is not. -/
theorem fitFrom_spec (tracking avail : Nat) (gs : List Glyph) : ∀ (rest : List Glyph) (n : Nat),
    gs.drop n = rest → n ≤ gs.length → frontWidth tracking gs n ≤ avail →
    let c := fitFrom tracking avail n (frontWidth tracking gs n) rest
    c ≤ gs.length ∧ frontWidth tracking gs c ≤ avail
      ∧ ∀ k, c < k → k ≤ gs.length → avail < frontWidth tracking gs k
  | [], n, hd, hn, hw => by
    have hend : gs.length ≤ n := List.drop_eq_nil_iff.1 hd
    exact ⟨hn, hw, fun k hk hle => absurd hle (by rw [fitFrom] at hk; omega)⟩
  | y :: rest, n, hd, hn, hw => by
    have hlt : n < gs.length := by
      by_contra hge
      rw [List.drop_eq_nil_of_le (Nat.le_of_not_lt hge)] at hd
      cases hd
    rw [List.drop_eq_getElem_cons hlt, List.cons.injEq] at hd
    obtain ⟨rfl, hd⟩ := hd
    unfold fitFrom
    dsimp only
    rw [← frontWidth_succ tracking hlt]
    split
    · next hfit => exact fitFrom_spec tracking avail gs rest (n + 1) hd hlt hfit
    · next hfit =>
      exact ⟨hn, hw, fun k hk hle => (Nat.lt_of_not_le hfit).trans_le (frontWidth_mono tracking hk hle)⟩

theorem fitFrom_zero (tracking avail : Nat) (gs : List Glyph) :
    fitFrom tracking avail 0 0 gs ≤ gs.length
      ∧ frontWidth tracking gs (fitFrom tracking avail 0 0 gs) ≤ avail
      ∧ ∀ k, fitFrom tracking avail 0 0 gs < k → k ≤ gs.length → avail < frontWidth tracking gs k :=
  fitFrom_spec tracking avail gs gs 0 rfl (Nat.zero_le _) (Nat.zero_le _)

/-! ## Caption records -/

section
variable {g : Option GlyphSet} {r : Row} {x : Seat} {text : List Byte}

theorem captionOf_omitted (n : Nat) (h : resolveText g text = none) :
    (captionOf g n x r text).seat = n ∧ (captionOf g n x r text).omitted = true
      ∧ (captionOf g n x r text).setCount = 0 ∧ (captionOf g n x r text).setWidth = 0
      ∧ (captionOf g n x r text).truncated = true ∧ (captionOf g n x r text).missing = 0 := by
  unfold captionOf
  dsimp only
  rw [h]
  exact ⟨rfl, rfl, rfl, rfl, rfl, rfl⟩

/-- The record of a caption that is set, as its fields say. -/
theorem captionOf_set (n : Nat) {xs : List (Glyph × Bool)} (h : resolveText g text = some xs) :
    ∃ c, c = fitFrom r.tracking (availableWidth x r) 0 0 (xs.map (·.1))
      ∧ (captionOf g n x r text).seat = n ∧ (captionOf g n x r text).setCount = c
      ∧ (captionOf g n x r text).setWidth = frontWidth r.tracking (xs.map (·.1)) c
      ∧ (captionOf g n x r text).truncated = decide (c < xs.length) ∧ (captionOf g n x r text).omitted = false
      ∧ (captionOf g n x r text).missing = (xs.take c).countP (·.2)
      ∧ (captionOf g n x r text).resolved = xs.map (·.1)
      ∧ (captionOf g n x r text).leftStart = x.left + r.sideMargin
        + (availableWidth x r - frontWidth r.tracking (xs.map (·.1)) c) / 2 := by
  have hle := (fitFrom_zero r.tracking (availableWidth x r) (xs.map (·.1))).1
  unfold captionOf
  dsimp only
  rw [h]
  dsimp only
  rw [runWidth_take r.tracking hle, List.length_map]
  exact ⟨_, rfl, rfl, rfl, rfl, rfl, rfl, rfl, rfl, rfl⟩

theorem captionOf_topLine (n : Nat) (y : GlyphSet) : (captionOf (some y) n x r text).topLine =
    if y.height ≤ r.captionHeight then (r.captionHeight - y.height) / 2 else 0 := by
  unfold captionOf
  dsimp only
  cases resolveText (some y) text <;> rfl

end

/-! ## Pixels of a strip -/

/-- The column at which a glyph of a run starts, from the run's own start. -/
def glyphStart (tracking : Nat) (gs : List Glyph) (m : Nat) : Nat :=
  ((gs.take m).map Glyph.advance).sum + tracking * m

theorem glyphStart_succ (tracking : Nat) (y : Glyph) (gs : List Glyph) (m : Nat) :
    glyphStart tracking (y :: gs) (m + 1) = y.advance + tracking + glyphStart tracking gs m := by
  unfold glyphStart
  rw [List.take_succ_cons, List.map_cons, List.sum_cons, Nat.mul_succ]
  omega

/-- Ink falls where the column lies in a glyph of the run whose coverage bit is set. -/
theorem inkAt_iff (tracking line : Nat) : ∀ (gs : List Glyph) (col : Nat), inkAt tracking line col gs = true ↔
    ∃ (m : Nat) (y : Glyph), gs[m]? = some y ∧ glyphStart tracking gs m ≤ col
      ∧ col < glyphStart tracking gs m + y.advance
      ∧ (y.bitmap.getD line []).getD (col - glyphStart tracking gs m) false = true
  | [], col => by simp [inkAt]
  | y :: gs, col => by
    have hzero : glyphStart tracking (y :: gs) 0 = 0 := by simp [glyphStart]
    unfold inkAt
    split
    · next hin =>
      constructor
      · exact fun h => ⟨0, y, rfl, by omega, by omega, by rwa [hzero]⟩
      · rintro ⟨_ | m, z, hz, hle, hlt, hbit⟩
        · rw [List.getElem?_cons_zero, Option.some.injEq] at hz
          subst hz
          rwa [hzero] at hbit
        · rw [glyphStart_succ] at hle
          omega
    · next hout =>
      split
      · next hgap =>
        refine ⟨nofun, ?_⟩
        rintro ⟨_ | m, z, hz, hle, hlt, -⟩
        · rw [List.getElem?_cons_zero, Option.some.injEq] at hz
          subst hz
          omega
        · rw [glyphStart_succ] at hle
          omega
      · next hpast =>
        rw [inkAt_iff tracking line gs]
        constructor
        · rintro ⟨m, z, hz, hle, hlt, hbit⟩
          refine ⟨m + 1, z, hz, ?_, ?_, ?_⟩
          · rw [glyphStart_succ]
            omega
          · rw [glyphStart_succ]
            omega
          · rwa [glyphStart_succ, ← Nat.sub_sub]
        · rintro ⟨_ | m, z, hz, hle, hlt, hbit⟩
          · rw [List.getElem?_cons_zero, Option.some.injEq] at hz
            subst hz
            omega
          · rw [glyphStart_succ] at hle hlt hbit
            rw [← Nat.sub_sub] at hbit
            exact ⟨m, z, hz, by omega, by omega, hbit⟩

theorem glyphStart_take (tracking : Nat) (gs : List Glyph) {m n : Nat} (h : m < n) :
    glyphStart tracking (gs.take n) m = glyphStart tracking gs m := by
  unfold glyphStart
  rw [List.take_take, Nat.min_eq_left (Nat.le_of_lt h)]

theorem getElem?_take_eq_some {α : Type} (xs : List α) (n m : Nat) (y : α) :
    (xs.take n)[m]? = some y ↔ m < n ∧ xs[m]? = some y := by
  rw [List.getElem?_take]
  split
  · next h => exact ⟨fun hy => ⟨h, hy⟩, fun hy => hy.2⟩
  · next h => exact ⟨nofun, fun hy => absurd hy.1 h⟩

/-- The test of a strip pixel: the glyph line, and a set glyph on the column with its bit set. -/
theorem inked_iff (g : GlyphSet) (r : Row) (c : CaptionRecord) (col t : Nat) :
    (c.topLine ≤ t ∧ t < c.topLine + g.height ∧ c.leftStart ≤ col
        ∧ inkAt r.tracking (t - c.topLine) (col - c.leftStart) (c.resolved.take c.setCount) = true) ↔
      (c.topLine ≤ t ∧ t < c.topLine + g.height
        ∧ ∃ (m : Nat) (y : Glyph), m < c.setCount ∧ c.resolved[m]? = some y
          ∧ c.leftStart + glyphStart r.tracking c.resolved m ≤ col
          ∧ col < c.leftStart + glyphStart r.tracking c.resolved m + y.advance
          ∧ (y.bitmap.getD (t - c.topLine) []).getD (col - (c.leftStart + glyphStart r.tracking c.resolved m)) false
            = true) := by
  rw [inkAt_iff]
  refine and_congr_right fun _ => and_congr_right fun _ => ?_
  constructor
  · rintro ⟨hleft, m, y, hy, hle, hlt, hbit⟩
    obtain ⟨hm, hy⟩ := (getElem?_take_eq_some _ _ _ _).1 hy
    rw [glyphStart_take _ _ hm] at hle hlt hbit
    exact ⟨m, y, hm, hy, by omega, by omega, by rwa [← Nat.sub_sub]⟩
  · rintro ⟨m, y, hm, hy, hle, hlt, hbit⟩
    refine ⟨by omega, m, y, (getElem?_take_eq_some _ _ _ _).2 ⟨hm, hy⟩, ?_, ?_, ?_⟩
    · rw [glyphStart_take _ _ hm]
      omega
    · rw [glyphStart_take _ _ hm]
      omega
    · rwa [glyphStart_take _ _ hm, Nat.sub_sub]

/-- Settles O60: resolution code by code, `fitFrom_spec` for the cut, and `inkAt_iff` for the pixels. -/
theorem captionIsResolvedCutAndSet : Obligations.CaptionIsResolvedCutAndSet := by
  refine ⟨fun g code hg => ?_, fun g text => ⟨resolveText_eq_none g text, resolveText_eq_some g text⟩,
    fun g n x r text => ?_, fun g r c col t _ => ?_⟩
  · refine ⟨rfl, fun y hy => resolveCode_own (glyphOf_of_mem hg hy), fun hown =>
      ⟨fun y hy => resolveCode_delete (glyphOf_of_lacks hown) (glyphOf_of_mem hg hy), fun hdelete =>
        ⟨fun y hy => resolveCode_space (glyphOf_of_lacks hown) (glyphOf_of_lacks hdelete) (glyphOf_of_mem hg hy),
          fun hspace =>
            resolveCode_none (glyphOf_of_lacks hown) (glyphOf_of_lacks hdelete) (glyphOf_of_lacks hspace)⟩⟩⟩
  · refine ⟨?_, fun h => (captionOf_omitted n h).2, fun xs h _ => ?_, fun y hy => ?_⟩
    · cases h : resolveText g text with
      | none => exact (captionOf_omitted n h).1
      | some xs =>
        obtain ⟨_, _, hseat, _⟩ := captionOf_set (x := x) (r := r) n h
        exact hseat
    · obtain ⟨c, hc, -, hcount, hwidth, htruncated, homitted, hmissing, hresolved, hleft⟩ :=
        captionOf_set (x := x) (r := r) n h
      obtain ⟨hle, hfit, hlonger⟩ := fitFrom_zero r.tracking (availableWidth x r) (xs.map (·.1))
      rw [← hc] at hle hfit hlonger
      rw [List.length_map] at hle hlonger
      intro width
      have hfront : ∀ k, width k = frontWidth r.tracking (xs.map (·.1)) k := fun k => by
        show ((xs.take k).map fun y => y.1.advance).sum + _ = _
        unfold frontWidth
        rw [← List.map_take, List.map_map]
        rfl
      rw [hcount, hwidth, htruncated, hmissing, hresolved, hleft]
      refine ⟨hle, (hfront c).symm, ?_, fun k hk hle' => ?_, decide_eq_true_iff, homitted, rfl, rfl, rfl⟩
      · rw [hfront]
        exact hfit
      · rw [hfront]
        exact hlonger k hk hle'
    · subst hy
      exact captionOf_topLine n y
  · intro start inked
    have hiff : _ ↔ inked := inked_iff g r c col t
    exact ⟨fun h => if_pos (hiff.2 h), fun h => if_neg fun h' => h (hiff.1 h'), rfl⟩

end Sys2Proof.Machine
end
